-- ==== Sys2Proof/Word.lean ====
section
/-! DEFINITION. The machine's words (R7): a word is 32 bits, memory is addressed in bytes. -/
namespace Sys2Proof

/-- One byte. -/
abbrev Byte := BitVec 8
/-- One 32-bit word (R7): an instruction word, a lane, a loop register. -/
abbrev Word := BitVec 32
/-- One 64-bit integer register or system register. -/
abbrev DWord := BitVec 64

end Sys2Proof
end

