-- ==== Sys2Proof/Config.lean ====
section
/-! DEFINITION. What the spec leaves open: values with no body, of which nothing can be proved. -/
namespace Sys2Proof.Config

/-- The nanoseconds that pass during a step, by the number of the step: the spec gives typical times only. -/
opaque nsElapsed : Nat → Nat

/-- A value that the spec leaves open, by its number: 64 bits. -/
opaque freeValue : Nat → BitVec 64

/-- Where another package of the domain keeps a die's sync-object records: package, die. -/
opaque remoteSyncBase : Nat → Nat → BitVec 42

/-- The image version of the part (R412). -/
opaque imageVersion : BitVec 32

/-- The port whose ring receives the events of a source that belongs to no work queue (R461, R462). -/
opaque eventPort : Nat → Nat

/-- The die that an event of Furlong or of the migration engine names as its source, by the number of a free value. -/
opaque eventDie : Nat → Nat

end Sys2Proof.Config
end

