-- ==== Sys2Proof/Syntax.lean ====
section
/-! DEFINITION. The operations of the KC-7200: one constructor for each row of the opcode table. The rows with an
encoding carry the fields of their words (the fields that R62 always reserves are no part of the syntax); the rows
without one are steps of the package's own units and of the host. -/
namespace Sys2Proof

/-- The six engines of a core; `code` is the ENG field (R58, R14). -/
inductive Engine where
  | seq | acc | vec | mat | idx | qnt
  deriving DecidableEq, Repr

/-- The ENG code of an engine (R58). -/
def Engine.code : Engine → Nat
  | .seq => 0 | .acc => 1 | .vec => 2 | .mat => 3 | .idx => 4 | .qnt => 5

/-- The engine that an ENG code names; 6 and 7 are reserved (R58). -/
def Engine.ofCode : Nat → Option Engine
  | 0 => some .seq | 1 => some .acc | 2 => some .vec | 3 => some .mat | 4 => some .idx | 5 => some .qnt | _ => none

/-- A holder of translations: a stream register or the access queue of a capability register (R165). -/
inductive HolderId where
  | stream (n : Nat) | accessQueue (n : Nat)
  deriving DecidableEq, Repr

/-- Where a launch record comes from: the head of a work queue, or a SPAWN or GLAUNCH (R365). -/
inductive LaunchSrc where
  | workQueue (n : Nat) | spawned (launch : Nat)
  deriving DecidableEq, Repr

/-- A power region (R411, R451). -/
inductive Region where
  | scratchpad (die core bank : Nat) (mask : BitVec 8)
  | quarter (q : Nat)
  | bank (die core bank : Nat)
  | way (die w : Nat)
  deriving DecidableEq, Repr

/-- Who reads or writes a semaphore: a port, or a device context (R456). -/
inductive SemUser where
  | port0 | port1 | device
  deriving DecidableEq, Repr

/-- A register whose write has no behaviour of its own beyond its fields: a system register of the running context,
or a register of the host window named by its offset (R148, R455). -/
inductive RegName where
  | csr (n : Nat) | window (off : Nat)
  deriving DecidableEq, Repr

/-- A plain access of a KCA port (R455): device memory by physical address, or the host window by offset. -/
inductive HostOp where
  | readMem (addr len : Nat) | writeMem (addr : Nat) (bytes : List Byte)
  | readWindow (off : Nat) | writeWindow (off : Nat) (v : BitVec 64)
  deriving DecidableEq, Repr

/-- The fields of PPOP (R62, R129): the predicate that it writes, and the function field, which Table 8 of chapter 4 lists
with 0 alone. -/
structure PopWord where
  d : BitVec 5
  f : BitVec 5
  deriving DecidableEq, Repr

/-- The fields of a VB head and tail (R61, Table 2); `h` and `w` hold the extents less 1. -/
structure VB where
  d : BitVec 6
  a : BitVec 6
  b : BitVec 6
  h : BitVec 3
  w : BitVec 3
  ka : BitVec 2
  kb : BitVec 2
  kd : BitVec 2
  c : BitVec 6
  kc : BitVec 2
  m : BitVec 3
  fn : BitVec 4
  deriving DecidableEq, Repr

/-- The fields of LOP3, whose tail has a layout of its own (R294). -/
structure Lop3 where
  d : BitVec 6
  a : BitVec 6
  b : BitVec 6
  h : BitVec 3
  w : BitVec 3
  ka : BitVec 2
  kb : BitVec 2
  kd : BitVec 2
  c : BitVec 6
  tt : BitVec 8
  deriving DecidableEq, Repr

/-- The fields of LDT, whose tail holds the landing delay in place of c and its kind (R303). -/
structure Ldt where
  d : BitVec 6
  a : BitVec 6
  b : BitVec 6
  h : BitVec 3
  w : BitVec 3
  ka : BitVec 2
  kb : BitVec 2
  kd : BitVec 2
  dly : BitVec 8
  m : BitVec 3
  fn : BitVec 4
  deriving DecidableEq, Repr

/-- The rows of the opcode table: first the rows with an encoding, in the table's order, then the steps of the
package's own units and of the host. A unit step names no operand in a word; which slot, command, port or page it
acts on stands in the state (`Machine.Operand`). -/
inductive Instr where
  /-- PFX (R65). -/
  | pfx (eng rnd : BitVec 3) (sat : BitVec 2) (pred : BitVec 3) (sense : BitVec 1)
  /-- NOP (R70). -/
  | nop
  /-- BR (R125). -/
  | br (c : BitVec 4) (w : BitVec 16)
  /-- BRQ (R125). -/
  | brq (z : BitVec 1) (w : BitVec 16)
  /-- CALL (R125). -/
  | call (c : BitVec 4) (w : BitVec 16)
  /-- RET (R127). -/
  | ret
  /-- JMPQ (R125). -/
  | jmpq (n : BitVec 2) (w : BitVec 16)
  /-- LOOP (R131). -/
  | loop (d : BitVec 5) (len : BitVec 10) (count : BitVec 27)
  /-- LOOPQ (R131). -/
  | loopq (d : BitVec 5) (len : BitVec 10)
  /-- LBRK (R134). -/
  | lbrk (c : BitVec 4)
  /-- PSET (R129). -/
  | pset (d a b f : BitVec 5)
  /-- PLOG (R129). -/
  | plog (d a b f : BitVec 5)
  /-- PPOP (R129). -/
  | ppop (p : PopWord)
  /-- KLD (R135). -/
  | kld (d a : BitVec 5) (imm : BitVec 10)
  /-- SNQ (R135). -/
  | snq (d f : BitVec 5)
  /-- RDV (R137). -/
  | rdv (mask : BitVec 6)
  /-- PHASE (R48). -/
  | phase (mask : BitVec 6)
  /-- WAIT (R140). -/
  | wait (all : BitVec 1) (mask : BitVec 4) (exp : BitVec 5) (mant : BitVec 16)
  /-- YIELD (R151). -/
  | yield
  /-- END (R38). -/
  | jobEnd
  /-- TRAP (R143). -/
  | trap (imm : BitVec 10)
  /-- RFT (R144). -/
  | rft (skip : BitVec 1)
  /-- CSRR (R148). -/
  | csrr (d : BitVec 5) (r : BitVec 12) (f : BitVec 3)
  /-- CSRW (R148). -/
  | csrw (d : BitVec 5) (r : BitVec 12) (f : BitVec 3)
  /-- CTXSEL (R151). -/
  | ctxsel (n : BitVec 2)
  /-- TSTAMP (R149). -/
  | tstamp (d : BitVec 5)
  /-- QCFG (R150). -/
  | qcfg (d a b f : BitVec 5)
  /-- HALT (R151). -/
  | halt
  /-- SPAWN (R388). -/
  | spawn (d a : BitVec 5)
  /-- TJOIN (R389). -/
  | tjoin (d a : BitVec 5) (poll : BitVec 1)
  /-- RUINV (R390). -/
  | ruinv (a : BitVec 5) (f : BitVec 2)
  /-- RUSTAT (R391). -/
  | rustat (d a : BitVec 5) (f : BitVec 4)
  /-- GLAUNCH (R388). -/
  | glaunch (d a : BitVec 5)
  /-- ADD (R170). -/
  | add (d a b f : BitVec 5)
  /-- SUB (R170). -/
  | sub (d a b f : BitVec 5)
  /-- MUL (R170). -/
  | mul (d a b f : BitVec 5)
  /-- MULH (R169). -/
  | mulh (d a b f : BitVec 5)
  /-- AND (R169). -/
  | and (d a b f : BitVec 5)
  /-- OR (R169). -/
  | or (d a b f : BitVec 5)
  /-- XOR (R169). -/
  | xor (d a b f : BitVec 5)
  /-- SHL (R169). -/
  | shl (d a b f : BitVec 5)
  /-- SHR (R169). -/
  | shr (d a b f : BitVec 5)
  /-- SRA (R169). -/
  | sra (d a b f : BitVec 5)
  /-- MIN (R169). -/
  | min (d a b f : BitVec 5)
  /-- MAX (R169). -/
  | max (d a b f : BitVec 5)
  /-- ADDI (R171). -/
  | addi (d a : BitVec 5) (imm : BitVec 10)
  /-- ANDI (R171). -/
  | andi (d a : BitVec 5) (imm : BitVec 10)
  /-- ORI (R171). -/
  | ori (d a : BitVec 5) (imm : BitVec 10)
  /-- SHLI (R171). -/
  | shli (d a : BitVec 5) (n : BitVec 6)
  /-- SHRI (R171). -/
  | shri (d a : BitVec 5) (n : BitVec 6)
  /-- LI (R172). -/
  | li (d : BitVec 5) (hi : BitVec 10) (lo : BitVec 27)
  /-- LIH (R172). -/
  | lih (d : BitVec 5) (u : BitVec 27)
  /-- CMP (R173). -/
  | cmp (d a b f : BitVec 5)
  /-- CMPB (R173). -/
  | cmpb (a b f : BitVec 5)
  /-- MOVQ (R174). -/
  | movq (d a : BitVec 5)
  /-- POPQ (R174). -/
  | popq (d a : BitVec 5)
  /-- DIVU (R175). -/
  | divu (d a b : BitVec 5)
  /-- REMU (R175). -/
  | remu (d a b : BitVec 5)
  /-- CLZ (R169). -/
  | clz (d a f : BitVec 5)
  /-- POPC (R169). -/
  | popc (d a f : BitVec 5)
  /-- CMOV (R176). -/
  | cmov (d a : BitVec 5)
  /-- CNARROW (R177). -/
  | cnarrow (d a b : BitVec 5)
  /-- CRIGHTS (R178). -/
  | crights (d a b : BitVec 5)
  /-- CADD (R179). -/
  | cadd (d a b f : BitVec 5)
  /-- CGET (R180). -/
  | cget (d a f : BitVec 5)
  /-- CLD (R181). -/
  | cld (d a b : BitVec 5) (im : BitVec 1)
  /-- CST (R181). -/
  | cst (d a b : BitVec 5) (im : BitVec 1)
  /-- LD (R182). -/
  | ld (d a b : BitVec 5) (im sx : BitVec 1) (size : BitVec 2)
  /-- ST (R182). -/
  | st (d a b : BitVec 5) (im : BitVec 1) (size : BitVec 2)
  /-- LDS (R183). -/
  | lds (d a b : BitVec 5) (im sx : BitVec 1) (size : BitVec 2)
  /-- STS (R183). -/
  | sts (d a b : BitVec 5) (im : BitVec 1) (size : BitVec 2)
  /-- LDQ (R184). -/
  | ldq (d a b : BitVec 5) (im sp : BitVec 1) (len : BitVec 3)
  /-- STQ (R184). -/
  | stq (d a b : BitVec 5) (im sp : BitVec 1) (len : BitVec 3)
  /-- PRF (R185). -/
  | prf (a b : BitVec 5) (im : BitVec 1) (lvl : BitVec 2)
  /-- FENCE (R101). -/
  | fence (scope : BitVec 3)
  /-- SBIND (R198). -/
  | sbind (d a f : BitVec 5)
  /-- SSET (R199). -/
  | sset (d a b : BitVec 5) (im sp : BitVec 1)
  /-- SRING (R200). -/
  | sring (d a : BitVec 5)
  /-- SSTOP (R201). -/
  | sstop (d : BitVec 5)
  /-- SSTAT (R202). -/
  | sstat (d a f : BitVec 5)
  /-- SOUT (R203). -/
  | sout (d a : BitVec 5)
  /-- PGDIST (R204). -/
  | pgdist (d a : BitVec 5) (f : BitVec 1)
  /-- CPY (R216). -/
  | cpy (d a b : BitVec 5) (dsp ssp : BitVec 1)
  /-- CPY2 (R217). -/
  | cpy2 (d a b : BitVec 5) (dsp ssp : BitVec 1)
  /-- CPYL2 (R219). -/
  | cpyl2 (d a b : BitVec 5) (osp dir : BitVec 1)
  /-- CHAIN (R220). -/
  | chain (d a b : BitVec 5)
  /-- MCAST (R221). -/
  | mcast (d a b : BitVec 5) (ssp : BitVec 1)
  /-- GWIN (R224). -/
  | gwin (d a b : BitVec 5) (f : BitVec 4)
  /-- SCRUB (R226). -/
  | scrub (d a b : BitVec 5)
  /-- WMARK (R214). -/
  | wmark
  /-- SWARM (R214). -/
  | swarm (a : BitVec 5) (clr : BitVec 1)
  /-- MIGR (R227). -/
  | migr (a b : BitVec 5)
  /-- ATOM (R233). -/
  | atom (d a b : BitVec 5) (ret size : BitVec 1) (op : BitVec 3)
  /-- ATOMF (R233). -/
  | atomf (d a b : BitVec 5) (ret : BitVec 1)
  /-- ATOMF_Q (R234). -/
  | atomfQ (a b : BitVec 5)
  /-- BIND (R242). -/
  | bind (d a b : BitVec 5) (rep : BitVec 1) (scope : BitVec 3)
  /-- ACQ (R243). -/
  | acq (a : BitVec 5) (sh : BitVec 1)
  /-- REL (R245). -/
  | rel (a : BitVec 5)
  /-- TRYACQ (R244). -/
  | tryacq (d a : BitVec 5) (sh : BitVec 1)
  /-- TLGET (R249). -/
  | tlget (d : BitVec 5) (iss : BitVec 1) (cls : BitVec 2)
  /-- TLARM (R250). -/
  | tlarm (d a b : BitVec 5) (kind : BitVec 3)
  /-- LSEND (R425). -/
  | lsend (d a b : BitVec 5) (ssp : BitVec 1)
  /-- LRECV (R425). -/
  | lrecv (d a b : BitVec 5) (dsp : BitVec 1)
  /-- LRADD (R430). -/
  | lradd (d a b : BitVec 5)
  /-- LSLOT (R423). -/
  | lslot (d a b : BitVec 5) (off : BitVec 1)
  /-- EVICT (R395). -/
  | evict (d a b : BitVec 5) (mode : BitVec 1)
  /-- RMAP (R401). -/
  | rmap (d a b : BitVec 5) (form : BitVec 1)
  /-- EQPOST (R404). -/
  | eqpost (d a b : BitVec 5) (arm : BitVec 1)
  /-- EQPEEK (R406). -/
  | eqpeek (d a b : BitVec 5)
  /-- EQREL (R405). -/
  | eqrel (a b : BitVec 5)
  /-- EQCUT (R405). -/
  | eqcut (a b : BitVec 5)
  /-- SPILL (R415). -/
  | spill (a b : BitVec 5)
  /-- FILL (R416). -/
  | fill (a b : BitVec 5)
  /-- FADD (R288). -/
  | fadd (o : VB)
  /-- FSUB (R288). -/
  | fsub (o : VB)
  /-- FMUL (R288). -/
  | fmul (o : VB)
  /-- FFMA (R288). -/
  | ffma (o : VB)
  /-- FMIN (R289). -/
  | fmin (o : VB)
  /-- FMAX (R289). -/
  | fmax (o : VB)
  /-- FABS (R289). -/
  | fabs (o : VB)
  /-- FNEG (R289). -/
  | fneg (o : VB)
  /-- FRCP (R290). -/
  | frcp (o : VB)
  /-- FRSQ (R290). -/
  | frsq (o : VB)
  /-- FEXP2 (R290). -/
  | fexp2 (o : VB)
  /-- FLOG2 (R290). -/
  | flog2 (o : VB)
  /-- FTANH (R290). -/
  | ftanh (o : VB)
  /-- FCMP (R291). -/
  | fcmp (o : VB)
  /-- IADD (R292). -/
  | iadd (o : VB)
  /-- ISUB (R292). -/
  | isub (o : VB)
  /-- IMUL (R292). -/
  | imul (o : VB)
  /-- IMAD (R292). -/
  | imad (o : VB)
  /-- IMIN (R293). -/
  | imin (o : VB)
  /-- IMAX (R293). -/
  | imax (o : VB)
  /-- VEC_AND (R293). -/
  | vecAnd (o : VB)
  /-- VEC_OR (R293). -/
  | vecOr (o : VB)
  /-- VEC_XOR (R293). -/
  | vecXor (o : VB)
  /-- LOP3 (R294). -/
  | lop3 (o : Lop3)
  /-- VEC_SHL (R293). -/
  | vecShl (o : VB)
  /-- VEC_SHR (R293). -/
  | vecShr (o : VB)
  /-- VEC_SRA (R293). -/
  | vecSra (o : VB)
  /-- FSHL (R293). -/
  | fshl (o : VB)
  /-- FSHR (R293). -/
  | fshr (o : VB)
  /-- VEC_POPC (R293). -/
  | vecPopc (o : VB)
  /-- VEC_CLZ (R293). -/
  | vecClz (o : VB)
  /-- ICMP (R295). -/
  | icmp (o : VB)
  /-- MOV (R296). -/
  | mov (o : VB)
  /-- SEL (R296). -/
  | sel (o : VB)
  /-- BCST (R296). -/
  | bcst (o : VB)
  /-- PERM (R296). -/
  | perm (o : VB)
  /-- ROT (R296). -/
  | rot (o : VB)
  /-- CVT (R297). -/
  | cvt (o : VB)
  /-- RSUM (R298). -/
  | rsum (o : VB)
  /-- RMAX (R299). -/
  | rmax (o : VB)
  /-- RMIN (R299). -/
  | rmin (o : VB)
  /-- SCAN (R300). -/
  | scan (o : VB)
  /-- VCMPB (R302). -/
  | vcmpb (o : VB)
  /-- LDT (R303). -/
  | ldt (o : Ldt)
  /-- MSET (R301). -/
  | mset (o : VB)
  /-- SHAPE (R311). -/
  | shape (acc : BitVec 2) (smode : BitVec 1) (fb fa : BitVec 4) (m n : BitVec 7) (kb : BitVec 3) (kta ktb : BitVec 4)
  /-- RINGDEF (R313). -/
  | ringdef (ring : BitVec 3) (off : BitVec 1) (fmt : BitVec 4) (base : BitVec 10) (slots : BitVec 5) (rows : BitVec 8) (kb : BitVec 3)
  /-- MZERO (R323). -/
  | mzero (acc : BitVec 2)
  /-- MMA (R322). -/
  | mma (acc : BitVec 2) (ra rb : BitVec 3) (zero keepb keepa : BitVec 1)
  /-- MMAT (R322). -/
  | mmat (acc : BitVec 2) (ra rb : BitVec 3) (zero keepb keepa : BitVec 1)
  /-- MSCL (R325). -/
  | mscl (acc : BitVec 2) (norm : BitVec 1) (k : BitVec 4)
  /-- MDRAIN (R326). -/
  | mdrain (acc : BitVec 2) (clr : BitVec 1) (ofmt : BitVec 2) (d : BitVec 5)
  /-- MADD (R324). -/
  | madd (acc : BitVec 2) (ra : BitVec 3) (keepa : BitVec 1)
  /-- RSKIP (R327). -/
  | rskip (ra : BitVec 3) (n : BitVec 5)
  /-- ATTS (R332). -/
  | atts (acc : BitVec 2) (ra rb : BitVec 3) (nov keepb keepa : BitVec 1) (ks kh : BitVec 4)
  /-- ATTV (R333). -/
  | attv (acc : BitVec 2) (rb : BitVec 3) (keepb : BitVec 1) (kh : BitVec 4)
  /-- ATTM (R334). -/
  | attm (acc : BitVec 2) (ra rb : BitVec 3) (keepb keepa : BitVec 1) (ks kh : BitVec 4)
  /-- MSTAT (R336). -/
  | mstat (clr : BitVec 1) (d : BitVec 5)
  /-- ROWST (R335). -/
  | rowst (acc : BitVec 2) (ra : BitVec 3) (keepa load : BitVec 1) (d : BitVec 5)
  /-- SIGCFG (R344). -/
  | sigcfg (rowf : BitVec 1) (nh : BitVec 4) (a : BitVec 5) (w : BitVec 4) (bwid : BitVec 5)
  /-- SIGH (R345). -/
  | sigh (a n : BitVec 5)
  /-- BKT (R346). -/
  | bkt
  /-- REPSEL (R347). -/
  | repsel (a : BitVec 5) (rule : BitVec 2)
  /-- REPGAT (R348). -/
  | repgat (d : BitVec 5)
  /-- REPSCAT (R349). -/
  | repscat (d a : BitVec 5) (rfmt : BitVec 1) (rw : BitVec 4)
  /-- MEMB (R350). -/
  | memb (d a : BitVec 5) (form : BitVec 2)
  /-- MEMBA (R351). -/
  | memba (d a : BitVec 5) (rfmt : BitVec 1) (rw : BitVec 4)
  /-- BMAND (R355). -/
  | bmand (d a b : BitVec 5)
  /-- BMOR (R355). -/
  | bmor (d a b : BitVec 5)
  /-- BMPFX (R356). -/
  | bmpfx (d a : BitVec 5)
  /-- ISECT (R359). -/
  | isect (d a b : BitVec 5)
  /-- UNION (R359). -/
  | union (d a b : BitVec 5)
  /-- SPDOT (R357). -/
  | spdot (d a b : BitVec 5) (vfmt : BitVec 2)
  /-- CONTRACT (R361). -/
  | contract (a : BitVec 5)
  /-- IXLD (R352). -/
  | ixld (d a : BitVec 5)
  /-- IXST (R352). -/
  | ixst (d a : BitVec 5)
  /-- IXMOV (R352). -/
  | ixmov (d a : BitVec 5) (form : BitVec 2)
  /-- IXCNT (R353). -/
  | ixcnt (d a : BitVec 5) (form : BitVec 2)
  /-- HAD (R265). -/
  | had (d a : BitVec 5) (n : BitVec 1)
  /-- QST (R268). -/
  | qst (d a b : BitVec 5) (blk : BitVec 7) (ifmt hadn : BitVec 2)
  /-- QSTM (R267). -/
  | qstm (d a b : BitVec 5) (blk : BitVec 7) (ifmt hadn : BitVec 2) (sel : BitVec 3)
  /-- QSEL (R266). -/
  | qsel (hmode : BitVec 1) (mask : BitVec 8)
  /-- CTBL (R271). -/
  | ctbl (d b : BitVec 5)
  /-- DEQ (R274). -/
  | deq (d a b : BitVec 5) (blk : BitVec 7) (ofmt : BitVec 2)
  /-- CVTX (R275). -/
  | cvtx (d a : BitVec 5) (clr : BitVec 1) (pf : BitVec 2)
  /-- CVTN (R276). -/
  | cvtn (d a b : BitVec 5) (ofmt : BitVec 3)
  /-- QHDR (R277). -/
  | qhdr (d a : BitVec 5) (flt : BitVec 1)
  /-- QERR (R278). -/
  | qerr (d a b : BitVec 5) (ifmt : BitVec 2)
  /-- QSTAT (R279). -/
  | qstat (d : BitVec 5) (clr : BitVec 1)
  /-- HADW (R265). -/
  | hadw (d a : BitVec 5) (n : BitVec 1)
  /-- FETCH_WORD (R10). -/
  | fetchWord
  /-- FAULT_MARKER (R15). -/
  | faultMarker
  /-- TRAP_TAKEN (R142). -/
  | trapTaken
  /-- DEADLOCK (R35). -/
  | deadlock
  /-- LANDING (R28). -/
  | landing
  /-- LANDING_DATA_ARRIVAL (R30). -/
  | landingDataArrival
  /-- EARLY_LANDING (R34). -/
  | earlyLanding
  /-- QUEUE_UNBLOCK (R54). -/
  | queueUnblock
  /-- CONTEXT_SWITCH (R37). -/
  | contextSwitch
  /-- TIMESLICE_EXPIRY (R379). -/
  | timesliceExpiry
  /-- CONTEXT_AGING (R379). -/
  | contextAging
  /-- CONTEXT_READY (R379). -/
  | contextReady
  /-- RDV_MARKER (R137). -/
  | rdvMarker
  /-- PHASE_MARKER (R48). -/
  | phaseMarker
  /-- PHASE_FLAG_SET (R49). -/
  | phaseFlagSet
  /-- END_OF_PHASE_BUNDLE (R49). -/
  | endOfPhaseBundle
  /-- FABRIC_PHASE_TIMEOUT (R438). -/
  | fabricPhaseTimeout
  /-- WRITE_ACK (R39). -/
  | writeAck
  /-- LOAD_RETURN (R154). -/
  | loadReturn
  /-- TRANSLATION_WALK (R164). -/
  | translationWalk
  /-- NEXT_PAGE_WALK (R166). -/
  | nextPageWalk
  /-- PORT_MIGRATION_WAIT_END (R164). -/
  | portMigrationWaitEnd
  /-- STREAM_FILL (R195). -/
  | streamFill
  /-- OUTPUT_DRAIN (R197). -/
  | outputDrain
  /-- PUMP_SLOT_FILL (R314). -/
  | pumpSlotFill
  /-- JOB_END_CHECK (R38). -/
  | jobEndCheck
  /-- JOB_END_COMPLETE (R38). -/
  | jobEndComplete
  /-- TASK_COMPLETION_REPORT (R41). -/
  | taskCompletionReport
  /-- ASYNC_COMMAND_COMPLETE (R103). -/
  | asyncCommandComplete
  /-- COPY_DISPATCH (R206). -/
  | copyDispatch
  /-- SYNC_WORD_COUNT (R107). -/
  | syncWordCount
  /-- WATERMARK_ADVANCE (R109). -/
  | watermarkAdvance
  /-- CHAIN_RECORD (R220). -/
  | chainRecord
  /-- MCAST_GROUP_CHANGE (R222). -/
  | mcastGroupChange
  /-- ATOMIC_AT_HOME (R233). -/
  | atomicAtHome
  /-- ATOMIC_LINE_WRITEBACK (R230). -/
  | atomicLineWriteback
  /-- BIND_APPLY (R242). -/
  | bindApply
  /-- HOLD_GRANT (R246). -/
  | holdGrant
  /-- HOLD_RELEASE (R245). -/
  | holdRelease
  /-- WAIT_SATISFIED (R140). -/
  | waitSatisfied
  /-- WAIT_TIMEOUT (R140). -/
  | waitTimeout
  /-- EVICT_APPLY (R397). -/
  | evictApply
  /-- EQPOST_ARRIVAL (R404). -/
  | eqpostArrival
  /-- EQ_TAG (R404). -/
  | eqTag
  /-- EQREL_ARRIVAL (R116). -/
  | eqrelArrival
  /-- EQCUT_ARRIVAL (R117). -/
  | eqcutArrival
  /-- EQPEEK_ARRIVAL (R406). -/
  | eqpeekArrival
  /-- EGRESS_DELIVERY (R463). -/
  | egressDelivery
  /-- EQDELIV (R463). -/
  | eqdeliv
  /-- EQACK (R463). -/
  | eqack
  /-- EQRESET (R403). -/
  | eqreset
  /-- WORK_QUEUE_DOORBELL (R459). -/
  | workQueueDoorbell
  /-- LAUNCH_RECORD_BEGIN (R367). -/
  | launchRecordBegin
  /-- INDIRECT_COUNT_READ (R369). -/
  | indirectCountRead
  /-- STEP_INSTANTIATE (R373). -/
  | stepInstantiate
  /-- NODE_READY (R374). -/
  | nodeReady
  /-- BUSHEL_PROBE (R382). -/
  | bushelProbe
  /-- SKIP_COPY (R383). -/
  | skipCopy
  /-- BUSHEL_FILL (R384). -/
  | bushelFill
  /-- NODE_DISPATCH (R377). -/
  | nodeDispatch
  /-- NODE_AGING (R377). -/
  | nodeAging
  /-- TASK_REQUEUE (R380). -/
  | taskRequeue
  /-- LAUNCH_COMPLETE (R365). -/
  | launchComplete
  /-- FURLONG_ACCESS_RESUME (R475). -/
  | furlongAccessResume
  /-- PAGE_FAULT_SERVICE (R458). -/
  | pageFaultService
  /-- HW_SPILL (R379). -/
  | hwSpill
  /-- HW_FILL (R418). -/
  | hwFill
  /-- SPILL_APPLY (R415). -/
  | spillApply
  /-- FILL_APPLY (R416). -/
  | fillApply
  /-- SCHEDULE_TICK (R420). -/
  | scheduleTick
  /-- LINK_LANDING_DRAIN (R428). -/
  | linkLandingDrain
  /-- UNSCHEDULED_REQUEST (R433). -/
  | unscheduledRequest
  /-- FLIT_REPLAY (R435). -/
  | flitReplay
  /-- PORT_DOWN (R436). -/
  | portDown
  /-- UNSCHEDULED_TIMEOUT (R437). -/
  | unscheduledTimeout
  /-- PORT_RETRAIN (R434). -/
  | portRetrain
  /-- FQUIESCE_HOLD (R434). -/
  | fquiesceHold
  /-- MEMORY_READ_ARRIVAL (R441). -/
  | memoryReadArrival
  /-- REFRESH_DUE (R442). -/
  | refreshDue
  /-- GROUP_INACTIVE (R442). -/
  | groupInactive
  /-- FORCED_REFRESH_START (R442). -/
  | forcedRefreshStart
  /-- REFRESH_END (R442). -/
  | refreshEnd
  /-- REFCFG_ALIGN (R454). -/
  | refcfgAlign
  /-- MSCFLUSH_SLICE (R449). -/
  | mscflushSlice
  /-- MSCFLUSH_FRAME (R449). -/
  | mscflushFrame
  /-- MSCFLUSH_DONE (R449). -/
  | mscflushDone
  /-- MSCPIN_PIN (R446). -/
  | mscpinPin
  /-- MSCPIN_UNPIN (R446). -/
  | mscpinUnpin
  /-- MSCPIN_DONE (R446). -/
  | mscpinDone
  /-- WAYGATE (R451). -/
  | waygate
  /-- PWRREQ_GATE_SCRATCHPAD (R451). -/
  | pwrreqGateScratchpad
  /-- PWRREQ_WAKE_SCRATCHPAD (R451). -/
  | pwrreqWakeScratchpad
  /-- PWRREQ_GATE_QUARTER (R451). -/
  | pwrreqGateQuarter
  /-- PWRREQ_WAKE_QUARTER (R451). -/
  | pwrreqWakeQuarter
  /-- PWRREQ_GATE_BANK (R411). -/
  | pwrreqGateBank
  /-- PWRREQ_WAKE_BANK (R411). -/
  | pwrreqWakeBank
  /-- REGION_AWAKE (R452). -/
  | regionAwake
  /-- XCLK (R453). -/
  | xclk
  /-- CROSSING_DRAIN_DONE (R453). -/
  | crossingDrainDone
  /-- RELOCK_DONE (R453). -/
  | relockDone
  /-- OTINV (R457). -/
  | otinv
  /-- OTINV_DONE (R167). -/
  | otinvDone
  /-- BANKFREE (R151). -/
  | bankfree
  /-- SEM_READ (R456). -/
  | semRead
  /-- SEM_WRITE (R456). -/
  | semWrite
  /-- FREELIST_TAIL_WRITE (R467). -/
  | freelistTailWrite
  /-- SAVE_POOL_TAIL_WRITE (R468). -/
  | savePoolTailWrite
  /-- EVENT_POST (R462). -/
  | eventPost
  /-- EVHEAD_WRITE (R469). -/
  | evheadWrite
  /-- DMEMB_WRITE (R473). -/
  | dmembWrite
  /-- RNGSEED_WRITE (R76). -/
  | rngseedWrite
  /-- REGISTER_WRITE (R148). -/
  | registerWrite
  /-- HOST_ACCESS (R455). -/
  | hostAccess
  /-- POWER_ON (R464). -/
  | powerOn
  /-- BOOT_STEP_COMPLETE (R464). -/
  | bootStepComplete
  /-- POWER_STEP_DOWN (R466). -/
  | powerStepDown
  /-- POWER_STEP_UP (R466). -/
  | powerStepUp
  /-- THERMAL_SHUTDOWN (R466). -/
  | thermalShutdown
  /-- SECOND_TIER_REFRESH (R450). -/
  | secondTierRefresh
  /-- FIRMWARE_SCRUB (R458). -/
  | firmwareScrub
  /-- POWER_MANAGER_REQUEST (R454). -/
  | powerManagerRequest
  /-- PORT_TRAINING_DONE (R434). -/
  | portTrainingDone
  /-- REGION_GATED (R452). -/
  | regionGated
  /-- ISLAND_LEVEL_CHANGE_DONE (R465). -/
  | islandLevelChangeDone
  deriving DecidableEq, Repr

end Sys2Proof
end

