-- ==== Sys2Proof/Machine/Data.lean ====
section
/-! DEFINITION. The plain data that the state is made of: tables that list only what differs from their default,
bytes and words, capabilities (R155), and the keys of contexts. -/
namespace Sys2Proof.Machine

/-! ## Tables -/

/-- A table from numbers to values in canonical form: keys strictly rising, and no key listed with the default. -/
abbrev Sparse (α : Type) := List (Nat × α)

/-- The value of a key; an unlisted key has the default. -/
def Sparse.get {α : Type} (d : α) : Sparse α → Nat → α
  | [], _ => d
  | (k, v) :: r, n => if k = n then v else Sparse.get d r n

/-- The table without a key. -/
def Sparse.erase {α : Type} : Sparse α → Nat → Sparse α
  | [], _ => []
  | (k, v) :: r, n => if k = n then Sparse.erase r n else (k, v) :: Sparse.erase r n

/-- Put an entry before the first greater key. -/
def Sparse.insert {α : Type} (n : Nat) (x : α) : Sparse α → Sparse α
  | [] => [(n, x)]
  | (k, v) :: r => if n < k then (n, x) :: (k, v) :: r else (k, v) :: Sparse.insert n x r

/-- Set the value of a key; setting the default removes the entry. -/
def Sparse.set {α : Type} [DecidableEq α] (d : α) (t : Sparse α) (n : Nat) (x : α) : Sparse α :=
  if x = d then Sparse.erase t n else Sparse.insert n x (Sparse.erase t n)

/-- Every key of the table is above a bound. -/
def Sparse.above {α : Type} (n : Nat) : Sparse α → Bool
  | [] => true
  | (k, _) :: r => decide (n < k) && Sparse.above n r

/-- The canonical form. -/
def Sparse.wf {α : Type} [DecidableEq α] (d : α) : Sparse α → Bool
  | [] => true
  | (k, v) :: r => Sparse.above k r && decide (v ≠ d) && Sparse.wf d r

/-! ## Bytes and words -/

/-- A word of `n` bytes read from its bytes, the lowest address first. -/
def bytesToNat : List Byte → Nat
  | [] => 0
  | b :: r => b.toNat + 256 * bytesToNat r

/-- The low `n` bytes of a number, the lowest first. -/
def natToBytes : Nat → Nat → List Byte
  | 0, _ => []
  | n + 1, v => BitVec.ofNat 8 v :: natToBytes n (v / 256)

/-- Split a list into pieces of `n` (fuel: the number of pieces). -/
def chunks {α : Type} (n : Nat) : Nat → List α → List (List α)
  | 0, _ => []
  | f + 1, l => l.take n :: chunks n f (l.drop n)

/-- The first `n` elements, filled up with a default. -/
def padTo {α : Type} (n : Nat) (d : α) (l : List α) : List α := l.take n ++ List.replicate (n - l.length) d

/-- Bits `hi` to `lo` of a number (R77). -/
def bitsOf (x hi lo : Nat) : Nat := x / 2 ^ lo % 2 ^ (hi + 1 - lo)

/-- A flag as a number. -/
def bit (b : Bool) : Nat := if b then 1 else 0

/-! ## Memory -/

/-- Memory: (address, byte) pairs in canonical form. -/
abbrev Memory := List Host.Cell

/-- What a byte of memory that nothing has written reads as (assumption log 3). -/
def memBlank : Byte := 0

/-- One byte of memory. -/
def Memory.get (m : Memory) (a : Nat) : Byte := Sparse.get memBlank m a
/-- Write one byte. -/
def Memory.set (m : Memory) (a : Nat) (b : Byte) : Memory := Sparse.set memBlank m a b
/-- Bytes at consecutive addresses. -/
def Memory.read (m : Memory) (a : Nat) : Nat → List Byte
  | 0 => []
  | n + 1 => m.get a :: Memory.read m (a + 1) n
/-- Write consecutive bytes. -/
def Memory.write (m : Memory) (a : Nat) : List Byte → Memory
  | [] => m
  | b :: r => Memory.write (m.set a b) (a + 1) r
/-- The canonical form of memory. -/
def Memory.wf (m : Memory) : Bool := Sparse.wf memBlank m

/-! ## Trap causes -/

/-- Trap causes (R73, Table 6). -/
inductive Cause where
  | illegal | illegalOperand | orphanPrefix | misalignedTarget | capBounds | capRights | capType | pageNonresident
  | selectorCorrupt | sortOrder | commitOverflow | powerState | eccUncorrectable | deadlock | priv | trapInstr
  | linkError | queueProtocol | ringOverrun | egressEpoch | divideByZero
  deriving DecidableEq, Repr

/-- The 8-bit code of a cause (R73). -/
def Cause.code : Cause → Nat
  | .illegal => 0x01 | .illegalOperand => 0x02 | .orphanPrefix => 0x03 | .misalignedTarget => 0x04
  | .capBounds => 0x05 | .capRights => 0x06 | .capType => 0x07 | .pageNonresident => 0x08
  | .selectorCorrupt => 0x09 | .sortOrder => 0x0A | .commitOverflow => 0x0B | .powerState => 0x0C
  | .eccUncorrectable => 0x0D | .deadlock => 0x0E | .priv => 0x0F | .trapInstr => 0x10
  | .linkError => 0x11 | .queueProtocol => 0x12 | .ringOverrun => 0x13 | .egressEpoch => 0x14
  | .divideByZero => 0x15

/-! ## Capabilities -/

/-- A capability (R155): the fields of its 256 bits. Reserved bits are not kept: a load ignores them and a store
writes them as zero. -/
structure Cap where
  cursor : BitVec 64 := 0
  rights : BitVec 8 := 0
  lower : BitVec 48 := 0
  upper : BitVec 48 := 0
  type : BitVec 4 := 0
  asid : BitVec 14 := 0
  obj : BitVec 32 := 0
  deriving DecidableEq, Repr

/-- The null capability (R158). -/
def Cap.null : Cap := {}

/-- The four words of a capability (R155, Table 2). -/
def Cap.words (c : Cap) : List DWord :=
  [c.cursor, 0#8 ++ c.rights ++ c.lower, 0#16 ++ c.upper, 0#14 ++ c.type ++ c.asid ++ c.obj]

/-- The capability that four words hold; reserved bits are ignored (R155). -/
def Cap.ofWords (w0 w1 w2 w3 : DWord) : Cap :=
  { cursor := w0
    rights := w1.extractLsb' 48 8, lower := w1.extractLsb' 0 48
    upper := w2.extractLsb' 0 48
    type := w3.extractLsb' 46 4, asid := w3.extractLsb' 32 14, obj := w3.extractLsb' 0 32 }

/-- The 32 bytes of a capability, word 0 lowest (R155). -/
def Cap.bytes (c : Cap) : List Byte := (c.words.map fun w => natToBytes 8 w.toNat).flatten

/-- The capability that 32 bytes hold. -/
def Cap.ofBytes (b : List Byte) : Cap :=
  let w := fun i => BitVec.ofNat 64 (bytesToNat ((b.drop (8 * i)).take 8))
  Cap.ofWords (w 0) (w 1) (w 2) (w 3)

/-- Capability and object types (R157, Table 4). -/
def tyData : Nat := 0
def tyCaps : Nat := 1
def tyGwin : Nat := 2
def tySwin : Nat := 3
def tyRemap : Nat := 4
def tyEgress : Nat := 5
def tyCode : Nat := 6

/-- The rights bits of Table 3 (R156). -/
def rR : Nat := 0
def rW : Nat := 1
def rX : Nat := 2
def rLC : Nat := 3
def rSC : Nat := 4
def rAT : Nat := 5
def rCS : Nat := 6
def rCD : Nat := 7

/-! ## Places -/

/-- The number of a context bank: 4 × (72 × die + core) + bank (R1, R36). -/
abbrev BankKey := Nat
def bankKey (die core bank : Nat) : BankKey := 4 * (72 * die + core) + bank
def BankKey.core (k : BankKey) : Nat := k / 4
def BankKey.die (k : BankKey) : Nat := k / 4 / 72
def BankKey.bank (k : BankKey) : Nat := k % 4

/-- Where the uncorrectable sectors lie that an ECC_UNCORRECTABLE fault has met: in a table that a translation walks, in
memory, in a context bank; or they have been reported already. -/
inductive BadPlace where
  | table
  | sectors (l : List Nat)
  | bank
  | told
  deriving DecidableEq, Repr

/-- The capability and the numbers that a fault puts into its trap record (R143, Table 14). -/
structure TrapInfo where
  cause : Cause
  toff : Nat := 0
  tinfo : Nat := 0
  cap : Cap := Cap.null
  /-- TADDR where the entry gives one other than the instruction's first word. -/
  taddr : Option Nat := none
  noskip : Bool := false
  /-- The GTS when the fault was raised, of a trap that has waited for landings (Table 14). -/
  gts : Option Nat := none
  /-- For ECC_UNCORRECTABLE: the sectors, which are counted and reported to the host beside the fault (R458, R469). -/
  bad : BadPlace := .table
  deriving DecidableEq, Repr

end Sys2Proof.Machine
end

