-- ==== Sys2Proof/Machine/Units.lean ====
section
/-! DEFINITION. What the units away from the cores hold, as plain data: commands in flight (R103, R206, R229), sync
objects (R238 to R248), egress queues (R403), link slots (R422), launches (R365 to R380) and Bushel (R381). -/
namespace Sys2Proof.Machine

/-- The 2,048 bytes of a queue entry, a stream block or an index register; any string of bytes. -/
abbrev Bytes := List Byte

/-! ## Asynchronous commands -/

/-- A held translation: the object and its page, the page's entry (R163, R165) and the object's LENGTH (R164). -/
structure Trans where
  obj : Nat
  page : Nat
  entry : DWord
  length : Nat
  deriving DecidableEq, Repr

/-- A side of a copy (R208 to R210, R221). -/
inductive Side where
  /-- An object through a capability, from an object offset on. -/
  | mem (cap : Cap) (base : Nat)
  /-- The scratchpad of the context of a job. -/
  | pad (uid : Nat) (base : Nat)
  /-- A rank of the group that no context holds any more. -/
  | gone (base : Nat)
  /-- An L2 slice, 12 × die + slice. -/
  | l2 (slice base : Nat)
  /-- A multicast group: the table and the entry, and the issuer's domain group, level and number. -/
  | group (table entry base : Nat) (dom : Nat × Nat)
  deriving DecidableEq, Repr

/-- A copy pattern (R216, R217) and how far it has been moved. -/
structure CopyCmd where
  src : Side
  dst : Side
  cnt0 : Nat
  cnt1 : Nat := 1
  cnt2 : Nat := 1
  sstr1 : Int := 0
  sstr2 : Int := 0
  dstr1 : Int := 0
  dstr2 : Int := 0
  soff : Int := 0
  doff : Int := 0
  /-- Bytes moved so far, in the linear order of R218. -/
  pos : Nat := 0
  /-- Bytes written and not yet counted at the sync word (R215). -/
  uncounted : Nat := 0
  deriving DecidableEq, Repr

/-- The parameters of an EVICT (R395) and how far it has come (R396). -/
structure EvictCmd where
  pages : Cap
  remap : Cap
  keepMode : Bool
  thr : BitVec 32
  decay : BitVec 32
  die : Nat
  /-- HANDLE has been checked and the exclusive hold requested, or is not needed. -/
  asked : Bool := false
  granted : Bool := false
  deriving DecidableEq, Repr

/-- A link slot register (R422). -/
structure LinkSlot where
  recv : Bool
  port : Nat
  period : Nat
  phase : Nat
  pkg : Nat
  tag : Nat
  asid : Nat
  deriving DecidableEq, Repr

/-- What an asynchronous command does. -/
inductive CmdBody where
  | copy (c : CopyCmd)
  /-- CHAIN (R220): destination, source, list, and the record it is at; none when the walk is over. -/
  | chain (dst src list : Cap) (record : Option Nat)
  /-- GWIN (R224): window, index, elements, ESIZE, N. -/
  | gwin (win idx elem : Cap) (esize n : Nat)
  /-- SCRUB (R226): range, length, result offset. -/
  | scrub (cap : Cap) (len out : Nat)
  /-- MIGR (R227): page, target; the old entry once the page is marked. -/
  | migr (cap : Cap) (loc frame : Nat) (old : Option DWord)
  /-- An atomic (R233): operation, bytes, operand, compare value; ATOMF is operation 8. `load` is the load that waits
  for its answer. -/
  | atom (cap : Cap) (op size : Nat) (v cmp : DWord) (load : Option Nat)
  /-- ATOMF.q (R234): the elements still to be added. -/
  | atomQ (cap : Cap) (data : List (Nat × BitVec 32))
  /-- ATTM's mass additions (R334): offsets in an object, and the values. -/
  | mass (cap : Cap) (adds : List (Nat × BitVec 32))
  | bind (handle : DWord) (cap : Cap) (len scope : Nat) (rep : Bool)
  /-- REL: the object, and the number of the request that obtained the hold. -/
  | rel (handle : DWord) (id : Nat)
  /-- LSEND and LRECV (R425): the slot and its binding, the side, the length, the bytes moved, and bytes taken of the
  stream that begin a piece of the destination and are not yet written (R88). -/
  | lsend (slot : Nat) (ls : LinkSlot) (src : Side) (len pos : Nat)
  | lrecv (slot : Nat) (ls : LinkSlot) (dst : Side) (len pos : Nat) (part : Bytes)
  /-- LRADD (R430): the slot and its binding, the buffer, elements, formats, elements added, the bytes of the next one
  that have come, and its sum where it has been formed and not yet written (R431). -/
  | lradd (slot : Nat) (ls : LinkSlot) (base n ifmt ofmt pos : Nat) (part : Bytes) (sum : Option Bytes)
  | evict (e : EvictCmd)
  /-- EQPOST (R404): queue, payload, NOTIFY offset. -/
  | eqpost (q : Nat) (payload : DWord) (arm : Option Nat)
  | eqrel (q e n : Nat)
  | eqcut (q e n : Nat)
  /-- EQPEEK (R406): queue, scratchpad offset, first sequence number, and the capability. -/
  | eqpeek (q off first : Nat)
  /-- SPILL and FILL (R415, R416): the save area and the bank; `none` for Firkin's own, by physical address. -/
  | spill (area : Option Cap) (phys : Nat) (bank : Nat)
  | fill (area : Option Cap) (phys : Nat) (bank : Nat)
  deriving DecidableEq, Repr

/-- The slot and the binding of a link command. -/
def CmdBody.link : CmdBody → Option (Nat × LinkSlot)
  | .lsend n l .. | .lrecv n l .. | .lradd n l .. => some (n, l)
  | _ => none

/-- A command that has been issued, or that a commit buffer holds. -/
structure Cmd where
  n : Nat
  /-- The job that issued it, and the core it ran on. -/
  uid : Nat
  core : Nat
  asid : Nat
  /-- Its class and its number in the class (R103); 0 for a command that takes none. -/
  cls : Nat
  num : Nat
  /-- Held in a commit buffer (R40). -/
  held : Bool := false
  /-- Counts in the write-acknowledge count until it completes (R39). -/
  counted : Bool := false
  /-- It has reached its channel, its home, its queue or its unit. -/
  started : Bool := false
  /-- Its unit has done its work, and it may complete. -/
  done : Bool := false
  failed : Option TrapInfo := none
  /-- The GTS of its issue, and its number among the accesses of its job: the model's own field. -/
  gts : Nat := 0
  stamp : Nat := 0
  wmark : Bool := false
  sync : Option Nat := none
  /-- The translations that an atomic was sent with (R167). -/
  sent : List Trans := []
  /-- Its place in the commit buffer of the task that issued it at commit (R44). -/
  commitPos : Option Nat := none
  body : CmdBody
  deriving DecidableEq, Repr

/-! ## Error slots and tables of a context -/

/-- A failure that an error slot holds (R213). -/
structure ErrRec where
  num : Nat
  info : TrapInfo
  deriving DecidableEq, Repr

/-- A hold in a context's hold table (R241), with the regions and the scope that its object had when it began (R242). -/
structure TableHold where
  handle : DWord
  excl : Bool
  /-- The number of the request that obtained it: the model's own field. -/
  id : Nat := 0
  regions : List (Nat × Nat × Nat) := []
  scope : Nat := 0
  deriving DecidableEq, Repr

/-- A request that an instruction at the head of its queue has sent and waits for (R243, R406, R423, R330), by the
instruction's address. -/
structure Ask where
  addr : Nat
  n : Nat
  /-- What it asks for, as a number of the instruction's own. -/
  arg : DWord := 0
  /-- The answer has arrived. -/
  done : Bool := false
  /-- The regions and the scope of the object when a hold began (R242). -/
  regions : List (Nat × Nat × Nat) := []
  scope : Nat := 0
  /-- The answer is a fault. -/
  failed : Option TrapInfo := none
  /-- The command that the instruction waits for (R334). -/
  cmd : Option Nat := none
  /-- The GTS of the request. -/
  gts : Nat := 0
  deriving DecidableEq, Repr

/-! ## Sync objects (R238 to R248) -/

/-- Who holds an object, or waits for it. -/
inductive Owner where
  /-- The context of a job, through its hold table; `ask` is the ACQ's request. -/
  | ctx (uid : Nat) (ask : Nat)
  /-- An attention instruction's shared hold (R247, R330). -/
  | attention (uid : Nat) (ask : Nat)
  /-- An EVICT's exclusive hold (R396), by its command. -/
  | evict (cmd : Nat)
  /-- A context of another package (R229), by that package and a number of its own. -/
  | remote (pkg id : Nat)
  deriving DecidableEq, Repr

/-- A hold, or a request that waits. -/
structure ObjHold where
  who : Owner
  excl : Bool
  deriving DecidableEq, Repr

/-- An object's holds, oldest first, and its waiters in order of arrival (R246). -/
structure SyncObj where
  holds : List ObjHold := []
  waiters : List ObjHold := []
  deriving DecidableEq, Repr

/-- What a synchronisation engine's SRAM holds (R230): atomic lines by physical line number, and sync objects by index, each
with the time of its last use; and the requests that wait for an entry, in order of arrival, by the object's index. -/
structure HomeSt where
  lines : List (Nat × Nat) := []
  objs : List (Nat × Nat) := []
  clock : Nat := 0
  full : List (Nat × ObjHold) := []
  deriving DecidableEq, Repr

/-! ## Egress hold queues (R403) -/

structure EqEntry where
  epoch : Nat
  seq : Nat
  payload : DWord
  gts : Nat
  /-- The GTS of its release, where it has been released. -/
  released : Option Nat := none
  /-- Handed to a ring as an EGRESS event (R463). -/
  delivered : Bool := false
  deriving DecidableEq, Repr

structure EqSt where
  e : Nat := 0
  n : Nat := 0
  /-- The release mark plus one; 0 for none. -/
  mark : Nat := 0
  entries : List EqEntry := []
  notify : Option (Nat × Nat) := none
  /-- EQPOSTs that have arrived and are not tagged, in order, by their commands. -/
  waiting : List Nat := []
  deriving DecidableEq, Repr

/-! ## The link engine (R419 to R438) -/

/-- A port's neighbour (R434), and replays of its present flit (R435). -/
structure PortSt where
  up : Bool := false
  pkg : Nat := 0
  nport : Nat := 0
  training : Bool := false
  replays : Nat := 0
  deriving DecidableEq, Repr

/-- A receive slot's landing buffer (R428), by the job and the slot. -/
structure LandBuf where
  uid : Nat
  slot : Nat
  bytes : Bytes
  deriving DecidableEq, Repr

/-- A slot's registration (R423): the job, the slot's number and its binding. -/
structure Registered where
  uid : Nat
  slot : Nat
  ls : LinkSlot
  deriving DecidableEq, Repr

/-- What a send slot has put on its port in a tick (R424): the port, the neighbour, the stream's tag and the bytes. -/
structure LinkFlow where
  port : Nat
  pkg : Nat
  tag : Nat
  bytes : Bytes
  deriving DecidableEq, Repr

structure LinkSt where
  ports : Sparse PortSt := []
  /-- ROUTE: bit 7 VALID, bits 3 to 0 the port. -/
  route : Sparse Byte := []
  hold : Bool := false
  land : List LandBuf := []
  /-- The first tick that has not been served, and by port the first at which an occurrence may still arrive. -/
  nextTick : Nat := 0
  arrived : Sparse Nat := []
  /-- Slots of jobs that are over, registered until their link commands have completed (R423). -/
  left : List Registered := []
  /-- What the ports have carried in the tick served last. -/
  flows : List LinkFlow := []
  deriving DecidableEq, Repr

/-! ## Furlong (R365 to R380) -/

/-- An operand of a node (R370). -/
structure GOperand where
  slot : Nat
  off : Nat
  len : Nat
  fmt : Nat
  deriving DecidableEq, Repr

structure GNode where
  entry : Nat
  mask : BitVec 6
  die : Nat
  reuse : Bool
  tidx : Nat
  slim : Nat
  block : Nat
  layer : Nat
  gang : Nat
  rank : Nat
  ins : List GOperand
  outs : List GOperand
  deriving DecidableEq, Repr

structure GEdge where
  src : Nat
  dst : Nat
  dist : Bool
  deriving DecidableEq, Repr

/-- A launch record's fields (R366). -/
structure LaunchRec where
  type : Nat := 0
  jobs : Nat := 0
  sup : Bool := false
  level : Nat := 0
  cw : Bool := false
  prio : Nat := 0
  mask : BitVec 6 := 0
  entry : Nat := 0
  code : Cap := Cap.null
  arg : Cap := Cap.null
  l2mask : BitVec 48 := 0
  l2lo : Nat := 0
  l2hi : Nat := 0
  rbase : Nat := 0
  fsize : Nat := 0
  fgroup : Nat := 0
  tvec : DWord := 0
  mctab : Nat := 0
  /-- CSLOT or GSLOT, COFF or GOFF, WSLOT, WOFF, WVAL; TSLOT and TOFF. -/
  slot : Nat := 0
  off : DWord := 0
  wslot : Nat := 0
  woff : DWord := 0
  wval : DWord := 0
  tslot : Nat := 0
  toff : DWord := 0
  bquota : Nat := 0
  gid : Nat := 0
  count : Nat := 0
  first : Nat := 0
  deriving DecidableEq, Repr

/-- Where a node of a step, or a job of a record, stands (R374, R377, R384). -/
inductive NodePhase where
  /-- Instantiated; its predecessors are not all done. -/
  | instantiated
  /-- Ready and to be probed (R382). -/
  | probe
  /-- To be skipped: the copy is in progress (R383). -/
  | skip
  /-- In its die's ready pool since a GTS, with its effective priority. -/
  | pooled (since prio : Nat)
  /-- Dispatched to a bank, as the job with a number. -/
  | running (uid : Nat)
  /-- Aborted, to enter its pool once the page is resident (R380), with its effective priority. -/
  | aborted (asid obj page prio : Nat)
  /-- Its commit has been acknowledged; its entry is to be filled (R384). -/
  | fill
  | done
  deriving DecidableEq, Repr

/-- A node of a step, or a job of a DIRECT or INDIRECT record (step 0, node index the job index). -/
structure Inst where
  step : Nat
  node : Nat
  phase : NodePhase
  /-- The die whose pool it enters (R370, R377). -/
  die : Nat := 0
  /-- IN_0 as the probe captured it. -/
  captured : Option Bytes := none
  /-- The row of its step (R373). -/
  row : List Word := []
  /-- The GTS at which its step was instantiated. -/
  stamp : Nat := 0
  /-- It has been dispatched, with this DMEMB (R373, R380). -/
  sent : Bool := false
  dmemb : DWord := 0
  /-- The effective priority at which it was dispatched (R380). -/
  prio : Nat := 0
  deriving DecidableEq, Repr

/-- The first failure of a launch: status, cause, index, step, and its GTS (R367). -/
structure Failure where
  status : Nat
  cause : Nat := 0
  index : Nat := 0
  step : Nat := 0
  gts : Nat := 0
  deriving DecidableEq, Repr

/-- A launch that has begun, or that a job has submitted. -/
structure Launch where
  n : Nat
  /-- Its work queue, or its spawner's. -/
  wq : Nat
  /-- Submitted by SPAWN or GLAUNCH: the job that did. -/
  spawner : Option Nat := none
  /-- The record's bytes; its fields; and whether it has begun (R367, R388). -/
  raw : Bytes := []
  fields : LaunchRec := {}
  begun : Bool := true
  /-- The argument slots' capabilities, as they were checked (R367). -/
  caps : Sparse Cap := []
  /-- An INDIRECT record whose count has not been read (R369). -/
  waitCount : Bool := false
  /-- Jobs to place: the record's, or an INDIRECT record's count. -/
  jobs : Nat := 0
  nodes : List GNode := []
  edges : List GEdge := []
  insts : List Inst := []
  /-- The step to be instantiated next. -/
  nextStep : Nat := 0
  counters : Sparse DWord := []
  failure : Option Failure := none
  /-- Instantiates and dispatches nothing more (R376). -/
  stopped : Bool := false
  /-- Complete, with its status word, for a TJOIN to take. -/
  result : Option DWord := none
  deriving DecidableEq, Repr

/-- Where a job or a task stands when its end is reported (R376, R380). -/
inductive EndKind where
  | ended
  /-- Terminated by a trap with a cause (R142), or by COMMIT_OVERFLOW (R42). -/
  | trapped (cause : Nat)
  | overflow
  | halted
  | commitFailed (cause : Nat)
  | aborted (asid obj page : Nat)
  deriving DecidableEq, Repr

/-- The failure that an end is (R367, Table 2 of chapter 12). -/
def EndKind.failure (k : EndKind) (index step gts : Nat) : Option Failure :=
  match k with
  | .trapped c => some { status := 5, cause := c, index := index, step := step, gts := gts }
  | .overflow => some { status := 6, index := index, step := step, gts := gts }
  | .halted => some { status := 7, index := index, step := step, gts := gts }
  | .commitFailed c => some { status := 8, cause := c, index := index, step := step, gts := gts }
  | .ended | .aborted .. => none

/-- The first of two failures: the lower GTS, then the lower index (R367). -/
def firstFailure (a b : Option Failure) : Option Failure :=
  match a, b with
  | some x, some y => if y.gts < x.gts ∨ (y.gts = x.gts ∧ y.index < x.index) then some y else some x
  | some x, none => some x
  | none, y => y

/-- An end stops the launch's further steps and dispatches (R376). -/
def EndKind.stops (k : EndKind) (task : Bool) : Bool :=
  match k with
  | .ended | .aborted .. => false
  | .halted => true
  | _ => task

/-- What an instance becomes when its job ends: an aborted task waits for its page and keeps its effective priority
(R380), a reuse-eligible node that has run is filled, another is done. -/
def EndKind.phase (k : EndKind) (reuse : Bool) (prio : Nat) : NodePhase :=
  match k with
  | .aborted a o p => .aborted a o p prio
  | .ended => if reuse then .fill else .done
  | _ => .done

/-- An instance with another phase, if it is the one named. -/
def Inst.setPhase (i : Inst) (step node : Nat) (ph : NodePhase) : Inst :=
  if i.step = step ∧ i.node = node then { i with phase := ph } else i

/-- A launch in which a job or a task has ended. -/
def Launch.noteEnd (l : Launch) (step node gts : Nat) (task : Bool) (k : EndKind) : Launch :=
  let reuse := task && match l.nodes[node]? with
    | some g => g.reuse
    | none => false
  { l with insts := l.insts.map fun i => i.setPhase step node (k.phase reuse i.prio)
           failure := firstFailure l.failure (k.failure node step gts)
           stopped := l.stopped || k.stops task }

/-! ## Bushel (R381) -/

structure BushelEntry where
  asid : Nat
  gid : Nat
  layer : Nat
  block : Nat
  /-- The launch whose fill made it, and the order of fills. -/
  launch : Nat
  order : Nat
  step : Nat
  skips : Nat
  use : Nat
  ref : Bytes
  outs : List Bytes
  slots : Nat
  deriving DecidableEq, Repr

end Sys2Proof.Machine
end

