-- ==== Sys2Proof/Machine/Context.lean ====
section
/-! DEFINITION. The state of one context (R20, R36, R74, R410): what its bank holds, as plain data. -/
namespace Sys2Proof.Machine

/-! ## Sequencer and dispatcher (R121, R124) -/

/-- Counted by LOOP, or left by an outcome of bq for LOOPQ (R130). -/
inductive LoopKind where
  | counted | queued
  deriving DecidableEq, Repr

/-- An active loop (R121, R131). -/
structure Loop where
  ctr : Nat
  start : Nat
  stop : Nat
  depth : Nat
  kind : LoopKind
  deriving DecidableEq, Repr

/-- A prefix word that waits for its instruction (R65, R68). -/
structure PendingPfx where
  eng : BitVec 3
  rnd : BitVec 3
  sat : BitVec 2
  pred : BitVec 3
  sense : BitVec 1
  addr : Nat
  deriving DecidableEq, Repr

/-- What an instruction queue holds (R11, R15, R20, R138, R148). `words` counts the prefix. -/
inductive Item where
  /-- A steered instruction with its first word's address, its rounding and saturation modifiers, the loop registers
  as the dispatcher read them (R122), and whether its predicate held (R123). -/
  | instr (i : Instr) (addr words : Nat) (rnd : BitVec 3) (sat : BitVec 2) (k : Sparse Word) (on : Bool)
  /-- A fault marker (R15). -/
  | marker (cause : Cause) (addr words : Nat)
  /-- A rendezvous marker (R137), with the number of its RDV. -/
  | rdv (n : Nat) (addr : Nat)
  /-- A phase marker (R48), with the number of its PHASE. -/
  | phase (n : Nat) (addr : Nat)
  /-- The write of x[d] that a CSRR or TSTAMP delivers (R148, R149). -/
  | deliver (d : BitVec 5) (v : DWord) (addr : Nat)
  /-- A new seed of the engine's generator (R76). -/
  | seed (v : Word) (addr : Nat)
  deriving DecidableEq, Repr

/-- A rendezvous or a phase in progress: the engines it names, and those whose markers have not retired. -/
structure Meeting where
  n : Nat
  mask : BitVec 6
  pending : BitVec 6
  deriving DecidableEq, Repr

/-- What the dispatcher waits for beyond the words themselves (R20, R138). -/
inductive DispWait where
  | none
  /-- The markers of RDV `n` (R137). -/
  | rdv (n : Nat)
  /-- The release of phase `n` (R48). -/
  | phase (n : Nat)
  /-- END has been fetched (R38): stage 1 until the engines have retired, stage 3 after the checks of stage 2. -/
  | ending (stage : Nat)
  /-- A WAIT evaluates its condition since reference tick `t0` (R140). -/
  | waiting (t0 : Nat) (all : Bool) (mask : BitVec 4) (exp mant : Nat)
  /-- An ORPHAN_PREFIX marker has been placed; nothing is fetched until it faults (R69). -/
  | orphan
  /-- CONTRACT of k[a] expands (R361): its parameter block as read at fetch, and the index of the next word to steer. -/
  | contract (a : Nat) (block : List Word) (index : Nat)
  deriving DecidableEq, Repr

/-- A wait slot (R121, R139, R250): its condition, as TLARM armed it. -/
inductive WaitSlot where
  | unarmed
  /-- Timeline counter `c` reaches `v`. -/
  | timeline (c : Nat) (v : DWord)
  /-- GEN of the sync word at scratchpad offset `off` reaches `v`. -/
  | gen (off : Nat) (v : Word)
  /-- The GTS reaches `t`. -/
  | gts (t : DWord)
  /-- The phase number reaches `v` (R51). -/
  | phase (v : DWord)
  deriving DecidableEq, Repr

/-- The trap record (R143, Tables 13 and 14) and the EPC registers (Table 15). -/
structure TrapRec where
  tcause : DWord := 0
  tgts : DWord := 0
  taddr : DWord := 0
  toff : DWord := 0
  tinfo : DWord := 0
  tcap : Cap := Cap.null
  /-- EPC_SEQ to EPC_QNT, by ENG. -/
  epc : Sparse DWord := []
  deriving DecidableEq, Repr

/-- The sequencer's registers. -/
structure SeqSt where
  /-- The fetch point (R13). -/
  fetch : Nat := 0
  /-- The fetch point was reached by advancing, and the loop end check of R131 is still to be made there. -/
  adv : Bool := false
  /-- The fetch point was reached by a control transfer (R71). -/
  xfer : Bool := true
  pfx : Option PendingPfx := none
  wait : DispWait := .none
  /-- Bits that a JMPQ has popped (R126). -/
  bits : List Bool := []
  /-- p1 to p7 in bits 1 to 7 (R121). -/
  p : BitVec 8 := 0
  lc : Sparse (BitVec 27) := []
  k : Sparse Word := []
  sn : BitVec 16 := 0
  loops : List Loop := []
  links : List Nat := []
  slots : Sparse WaitSlot := []
  sup : Bool := false
  psup : Bool := false
  intrap : Bool := false
  wsat : BitVec 4 := 0
  tvec : DWord := 0
  tscr : DWord := 0
  entry : Nat := 0
  rngseed : Word := 0x2545F491
  freezeCyc : DWord := 0
  dmemb : DWord := 1#64 <<< 28
  phnum : Word := 0
  flag : Bool := false
  /-- The GTS at which the flag was set, until its time-out has been taken (R438). -/
  flagAt : Option Nat := none
  /-- The launch that a TJOIN at the fetch point waits for (R379, R389). -/
  join : Option Nat := none
  /-- The number of the next RDV or PHASE. -/
  nextMeet : Nat := 0
  /-- While a handler runs, the RDVs and PHASEs below this number belong to the parked state (R138, R143). -/
  meetBase : Nat := 0
  rdvs : List Meeting := []
  phases : List Meeting := []
  trap : TrapRec := {}
  deriving DecidableEq, Repr

/-! ## Data queues (R21) -/

/-- A data queue: its binding and its entries, oldest first; `reserved` counts the entries that outstanding LDQs
hold (R184). An LDQ's entry is pushed in program order. -/
structure DataQ where
  bind : Option (Engine × Engine) := none
  entries : List Bytes := []
  /-- The loads whose entries are reserved, oldest first, with the data that has returned. -/
  reserved : List (Nat × Option Bytes) := []
  deriving DecidableEq, Repr

/-- The branch-outcome queue (R21). -/
structure BranchQ where
  producer : Option Engine := none
  bits : List Bool := []
  deriving DecidableEq, Repr

/-! ## Access engine (R153 to R204) -/

/-- The two translation registers of a holder and its distance (R165, R166). -/
structure Holder where
  cur : Option Trans := none
  next : Option Trans := none
  pgdist : Nat := 0x40000
  /-- A next-page walk that has been requested: object and page (R166). -/
  want : Option (Nat × Nat) := none
  /-- A walk that an access waits for, and those that have been completed for it (R164): object and page. -/
  walk : Option (Nat × Nat) := none
  walked : List (Nat × Nat) := []
  deriving DecidableEq, Repr

/-- A stream descriptor (R189, Table 10). -/
structure StreamDesc where
  fmt : Nat := 0
  engn : Nat := 0
  out : Bool := false
  sp : Bool := false
  hdr : Nat := 0
  hshift : Nat := 0
  hstride : Nat := 0
  hbase : Nat := 0
  cnt0 : Nat := 1
  cnt1 : Nat := 1
  cnt2 : Nat := 1
  cnt3 : Nat := 1
  str1 : Int := 0
  str2 : Int := 0
  str3 : Int := 0
  base : Int := 0
  deriving DecidableEq, Repr

/-- One block of a stream: 2 KiB of elements, and the headers of a block format (R191, R192). -/
structure Block where
  bytes : Bytes
  hdrs : Bytes := []
  /-- The number of a written block among the accesses of its job, until it is drained: the model's own field. -/
  stamp : Nat := 0
  deriving DecidableEq, Repr

/-- The four states of a stream (R194). -/
inductive StreamState where
  | idle | run | ended | fault
  deriving DecidableEq, Repr

/-- A stream register (R188). -/
structure Stream where
  dcap : Cap := Cap.null
  hcap : Cap := Cap.null
  st : StreamState := .idle
  desc : StreamDesc := {}
  /-- The capabilities latched at SSET (R198). -/
  ldcap : Cap := Cap.null
  lhcap : Cap := Cap.null
  /-- Blocks popped, or written, in the run. -/
  done : Nat := 0
  /-- Filled blocks not yet popped, or written blocks not yet drained, oldest first; at most four. -/
  buf : List Block := []
  /-- What the fill of the block after `buf` met (R196). -/
  fillFault : Option TrapInfo := none
  /-- The fault has been raised; the next pop repeats the fill (R196). -/
  reported : Bool := false
  /-- What a drain met, to be reported at the next write or at END (R197). -/
  drainFault : Option TrapInfo := none
  holder : Holder := {}
  deriving DecidableEq, Repr

/-- An SRING pump (R200): its stream, and whether it still waits for the run to begin. -/
structure Pump where
  stream : Nat
  waiting : Bool
  /-- SSTOP ends the pump after its current slot (R201). -/
  stopping : Bool := false
  deriving DecidableEq, Repr

/-- Where a load's data goes (R154). -/
inductive LoadDest where
  | x (d : Nat) (size : Nat) (sx : Bool)
  | c (d : Nat)
  | q (q : Nat) (len : Nat)
  deriving DecidableEq, Repr

/-- A part of an access: `len` bytes at an offset of an object, of which the access covers `n` from the `lo`-th on. -/
structure Part where
  cap : Cap
  off : Nat
  len : Nat
  lo : Nat
  n : Nat
  deriving DecidableEq, Repr

/-- What a task's commit buffer holds (R40): a 32-byte sector with the bytes written to it, or a deferred command by
its number in the package's list of commands. -/
inductive CommitEntry where
  /-- A sector of an object: its capability, its first byte's offset, and its bytes where written. -/
  | sector (cap : Cap) (off : Nat) (data : List (Option Byte)) (window : Bool)
  | deferred (cmd : Nat)
  /-- A further entry that holds data of a deferred command (R235). -/
  | payload (cmd : Nat)
  deriving DecidableEq, Repr

/-- Where a load's data comes from. -/
inductive LoadSrc where
  /-- Bytes of an object (R182), through a capability at an object offset. -/
  | mem (cap : Cap) (off len : Nat)
  /-- Bytes of several objects, behind a window (R225). -/
  | parts (l : List Part)
  /-- The answer of a command of the package (a returning atomic, an EQPEEK), by the command's number. -/
  | answer (cmd : Nat)
  /-- Bytes of the scratchpad, read again after a fault (R184). -/
  | pad (off len : Nat)
  /-- RMAP (R401): the remap object, FORM, x[b], and the task's commit buffer at its issue (R41). -/
  | remap (cap : Cap) (pos : Bool) (x : Nat) (commit : List CommitEntry)
  /-- Data that has arrived. -/
  | ready (b : Bytes)
  /-- The answer is a fault (R154, R237). -/
  | failed (t : TrapInfo)
  deriving DecidableEq, Repr

/-- An outstanding load (R154). -/
structure Load where
  n : Nat
  dest : LoadDest
  src : LoadSrc
  addr : Nat
  /-- The GTS of its issue. -/
  gts : Nat := 0
  /-- An LDQ whose data has failed: it is made again once its trap has returned (R184). -/
  again : Bool := false
  /-- The LATCNT counter that its wait is charged to (R444). -/
  lat : Option Nat := none
  /-- The bytes of it that the task's commit buffer held at its issue (R41). -/
  held : List (Option Byte) := []
  /-- The physical pieces of the translation that it was sent with (R167): address and bytes; none where it waits at the
  port for a page under migration, or reads through a window. -/
  sent : Option (List (Nat × Nat)) := none
  /-- The answer of an atomic, whose write is acknowledged as it returns (R235). -/
  wrote : Bool := false
  deriving DecidableEq, Repr

/-- The access engine's registers. -/
structure AccSt where
  x : Sparse DWord := []
  c : Sparse Cap := []
  s : Sparse Stream := []
  /-- Translations of the access queue of each capability register (R165). -/
  aq : Sparse Holder := []
  pumps : Sparse (Option Pump) := []
  loads : List Load := []
  nextLoad : Nat := 0
  /-- A store to a gated second-tier quarter that was not performed (Table 6 of chapter 16). -/
  storeFail : Option TrapInfo := none
  commit : List CommitEntry := []
  /-- Entries that the commit in progress has taken from the buffer (R41). -/
  commitAt : Nat := 0
  /-- The first failure of a commit, in buffer order (R44): its place and its cause. -/
  commitFail : Option (Nat × Nat) := none
  deriving DecidableEq, Repr

/-! ## Hold buffers (R264, R286, R309) -/

/-- Where an output block goes. -/
inductive OutDest where
  | stream (s : Nat) | queue (q : Nat) | branch
  deriving DecidableEq, Repr

/-- An output block on its way. -/
structure OutItem where
  dest : OutDest
  block : Block
  bit : Bool := false
  /-- The formats that the instruction accepts of a stream (R282). -/
  fmts : List Nat := List.range 10
  deriving DecidableEq, Repr

/-- A source of a merge (R359): the words of the blocks popped, how many have been read, the word read last, and the
head that is not yet consumed. -/
structure MergeSrc where
  words : List Nat := []
  pos : Nat := 0
  prev : Option Nat := none
  head : Option Nat := none
  deriving DecidableEq, Repr

/-- The progress of an ISECT or a UNION (R359): its sources, the output block in progress, a block that is full and not
yet pushed, and whether the end marker has been written. -/
structure MergeSt where
  a : MergeSrc := {}
  b : MergeSrc := {}
  out : List Nat := []
  pend : Option (List Nat) := none
  fin : Bool := false
  deriving DecidableEq, Repr

/-- What an instruction does once its last output block has been written. -/
inductive After where
  | nothing
  /-- MDRAIN.clr zeroes accumulator `a` (R326). -/
  | zeroAcc (a : Nat)
  /-- MSTAT.clr clears the counters of MAT (R336). -/
  | clearMat
  /-- SPDOT's sum for SPDW (R357). -/
  | spdw (v : DWord)
  deriving DecidableEq, Repr

/-- The hold buffer of an engine: the blocks that the instruction at the head of its queue has popped, how many of
them its present attempt has taken, and the output it has formed and not yet pushed. -/
structure Hold where
  blocks : List Block := []
  pos : Nat := 0
  out : Option (List OutItem) := none
  after : After := .nothing
  /-- The active banks of the code tables, captured at issue (R272). -/
  banks : Option (BitVec 4) := none
  /-- The merge in progress (R359). -/
  merge : Option MergeSt := none
  deriving DecidableEq, Repr

/-! ## Vector engine (R281) -/

/-- The 512 lanes of a vector register. -/
abbrev VReg := List Word
def VReg.zero : VReg := List.replicate 512 0

/-- Where an LDT reads (R303): the scratchpad, an L2 slice, or the next blocks of a stream's run as it stood. -/
inductive LdtSource where
  | pad (off : Nat) | l2 (slice off : Nat) | run (i : Nat) (t : Stream)
  deriving DecidableEq, Repr

/-- A pending landing (R28, R34): its destination block and lane mask, the issue cycles that remain, where its bytes
lie, and its data, or the failure of its data, where it has arrived. -/
structure Landing where
  base : Nat
  h : Nat
  w : Nat
  mask : BitVec 512
  rem : Nat
  src : LdtSource
  data : Option (List VReg) := none
  failed : Option TrapInfo := none
  /-- The address of the LDT. -/
  addr : Nat
  deriving DecidableEq, Repr

/-- Its slot holds what has arrived. -/
def Landing.settled (l : Landing) : Bool := l.data.isSome || l.failed.isSome
/-- It is due and its data is there: it is written before anything else of its core goes on (R30, R55). -/
def Landing.written (l : Landing) : Bool := l.rem == 0 && l.data.isSome

structure VecSt where
  v : Sparse VReg := []
  m : Sparse (BitVec 512) := []
  /-- Pending landings, at most 8: those that are due first stand first, and ties in program order. -/
  slots : List Landing := []
  /-- Registers of the bank with an uncorrectable error (R286). -/
  bad : List Nat := []
  deriving DecidableEq, Repr

/-! ## The context -/

/-- The number of asynchronous commands issued in a class, the counter, and the commands completed beyond it (R103). -/
structure Timeline where
  issued : Nat := 0
  counter : Nat := 0
  ahead : List Nat := []
  deriving DecidableEq, Repr

/-- Where a context stands (R36, R151, R152, R411). -/
inductive CtxStatus where
  /-- The bank holds no context. -/
  | free
  /-- A resident context with a job that has not ended. -/
  | live
  /-- END has completed (R38). -/
  | ended
  /-- Terminated by a trap or by COMMIT_OVERFLOW (R42, R142). -/
  | terminated
  /-- A task aborted at a page that is not resident, to be queued again (R43). -/
  | aborted
  /-- Halted; the bank stays occupied (R151). -/
  | halted
  deriving DecidableEq, Repr

/-- What a launch gives a job (R38, R121, R158, R365 to R376). -/
structure Job where
  /-- A number that no two jobs share. -/
  uid : Nat := 0
  task : Bool := false
  /-- The launch, node and step that the job runs for; a job's index stands in `node` (R368). -/
  launch : Option Nat := none
  node : Nat := 0
  step : Nat := 0
  /-- Engines whose words the job may hold (R368). -/
  mask : BitVec 6 := 0
  code : Cap := Cap.null
  /-- A DIRECT launch, with no loop-register table (R121). -/
  direct : Bool := true
  stepCount : BitVec 16 := 1
  firstStep : BitVec 16 := 0
  /-- The loop-register table: the object and the offset of row 0; row r follows at 64 r (R373). -/
  rowCap : Cap := Cap.null
  rowOff : Nat := 0
  arg : Cap := Cap.null
  /-- The GTS at which the job ended, failed, or was halted (R151). -/
  endGts : Nat := 0
  deriving DecidableEq, Repr

/-- QNT's registers (R261): the two banks of each code table and which is active, the selector mask, the header
mode, and the statistics. -/
structure QntSt where
  selmask : BitVec 8 := 0x07
  hmode : Bool := false
  /-- The 16 entries of bank k of table n, at 2 n + k. -/
  tables : Sparse (List Byte) := []
  /-- ACTIVE, a bit for each table. -/
  active : BitVec 4 := 0
  /-- The carry buffer of CVTX. -/
  carry : Bytes := []
  /-- BLKSEL0 to BLKSEL7, NANBLK and ERRSUM (R279). -/
  blksel : Sparse DWord := []
  nanblk : DWord := 0
  errsum : Word := 0
  deriving DecidableEq, Repr

/-- An accumulator of MAT (R308, R311): its shape, its elements in row-major order, its row statistics by row, and the
score buffer. -/
structure MatAcc where
  valid : Bool := false
  fa : Nat := 0
  fb : Nat := 0
  smode : Bool := false
  int : Bool := false
  m : Nat := 0
  n : Nat := 0
  kb : Nat := 0
  ta : Word := 0
  tb : Word := 0
  elems : List Word := []
  rowM : Sparse Word := []
  rowL : Sparse Word := []
  sb : Sparse (List Word) := []
  alpha : Sparse Word := []
  sblive : Nat := 0
  sbv : Bool := false
  deriving DecidableEq, Repr

/-- What a pump records with a slot (R314). -/
structure RingSlot where
  fmt : Nat
  sp : Bool
  cap : Cap
  origin : Int
  deriving DecidableEq, Repr

/-- A ring of MAT (R308, R312, R313): its definition, the head slot, the filled slots, oldest first, and the record of
the tail slot with the blocks that a pump has written to it so far. -/
structure TileRing where
  defined : Bool := false
  fmt : Nat := 0
  base : Nat := 0
  slots : Nat := 0
  rows : Nat := 0
  kb : Nat := 0
  head : Nat := 0
  filled : List RingSlot := []
  part : Option RingSlot := none
  placed : Nat := 0
  deriving DecidableEq, Repr

/-- MAT's registers (R308): accumulators, rings, and the counters of R336. -/
structure MatSt where
  acc : Sparse MatAcc := []
  rings : Sparse TileRing := []
  macs : DWord := 0
  rwait : DWord := 0
  hwait : DWord := 0
  deriving DecidableEq, Repr

/-- IDX's registers (R339). -/
structure IdxSt where
  y : Sparse Bytes := []
  /-- Index registers with an uncorrectable error (R341). -/
  bad : List Nat := []
  /-- The signature configuration: NH, W, ROWF, BWID, and the seed table. -/
  nh : Nat := 1
  w : Nat := 32
  rowf : Bool := false
  bwid : Nat := 32
  seeds : Bytes := List.replicate 1024 0
  rc : Nat := 0
  sig : Sparse Nat := []
  nb : Nat := 0
  bid : Sparse Nat := []
  bv : Bool := false
  /-- The rows of REPBUF and REPIDX, by bucket. -/
  repbuf : List Bytes := []
  repidx : List Nat := []
  repv : Bool := false
  nw : Nat := 512
  nout : Nat := 0
  spdw : DWord := 0
  deriving DecidableEq, Repr

/-- The context's side of the asynchronous units. -/
structure UnitSt where
  /-- The four classes of R103. -/
  tl : Sparse Timeline := []
  /-- The error slot of each class (R213, R237, R436, R400). -/
  err : Sparse (Option ErrRec) := []
  /-- The hold table (R241). -/
  holds : List TableHold := []
  /-- Requests that instructions at the head of their queues wait for. -/
  asks : List Ask := []
  nextAsk : Nat := 0
  /-- The arms of WMARK and SWARM (R214). -/
  wmark : Bool := false
  swarm : Option Nat := none
  /-- ls0 to ls15 (R422). -/
  slots : Sparse (Option LinkSlot) := []
  /-- Tickets by slot, and tickets taken (R388); the launch each names. -/
  tickets : Sparse (Option (Nat × DWord)) := []
  taken : Nat := 0
  /-- The joined counters (R389). -/
  joined : Sparse DWord := []
  /-- The L2 grant (R209). -/
  l2mask : BitVec 48 := 0
  l2lo : Nat := 0
  l2hi : Nat := 0
  /-- The multicast table of its launch (R221). -/
  mctab : Nat := 0
  deriving DecidableEq, Repr

/-- What a trap sets aside (R143). -/
structure Parked where
  iq : Sparse (List Item) := []
  landings : List Landing := []
  loops : List Loop := []
  links : List Nat := []
  fetch : Nat := 0
  adv : Bool := false
  wait : DispWait := .none
  bits : List Bool := []
  hold : Sparse Hold := []
  deriving DecidableEq, Repr

/-- A trap that has been raised and whose record waits for pending landings (R34, R142). -/
structure PendingTrap where
  eng : Engine
  addr : Nat
  len : Nat
  info : TrapInfo
  deriving DecidableEq, Repr

/-- A context bank. -/
structure Ctx where
  status : CtxStatus := .free
  job : Job := {}
  seq : SeqSt := {}
  /-- The five instruction queues, by ENG, oldest first (R11). -/
  iq : Sparse (List Item) := []
  dq : Sparse DataQ := []
  bq : BranchQ := {}
  /-- The hold buffers, by ENG. -/
  hold : Sparse Hold := []
  /-- The stochastic generators, by ENG (R76). -/
  gen : Sparse Word := []
  acc : AccSt := {}
  vec : VecSt := {}
  mat : MatSt := {}
  idx : IdxSt := {}
  qnt : QntSt := {}
  units : UnitSt := {}
  /-- The scratchpad: offsets 0 to 0x17_FFFF (R410). -/
  pad : Memory := []
  /-- 32-byte sectors of the scratchpad with an uncorrectable error. -/
  padBad : List Nat := []
  /-- Scratchpad banks that are gated, and that are waking (R451, R452). -/
  padGated : BitVec 8 := 0
  padWaking : BitVec 8 := 0
  /-- LATCNT0 to LATCNT7 (R444), and PCSEL (R454). -/
  latcnt : Sparse DWord := []
  pcsel : BitVec 7 := 0
  /-- Effective priority on the core (R379), and the launch's. -/
  prio : Nat := 0
  basePrio : Nat := 0
  /-- The GTS at which it last began to run, last ran or was raised, and stopped being ready (R379). -/
  runSince : Nat := 0
  readySince : Nat := 0
  blockedAt : Option Nat := none
  /-- A landing is due whose data is absent: the core is frozen (R30). -/
  frozen : Bool := false
  /-- The cycles of R35 counted so far. -/
  stuck : Nat := 0
  parked : Option Parked := none
  /-- The WAIT that a switch or a spill stopped: its condition and its time-out still decide whether the context is
  ready (R379, R417, R418). -/
  waited : DispWait := .none
  /-- It has been filled into its bank and has not run there yet (R120). -/
  moved : Bool := false
  trapPending : Option PendingTrap := none
  deriving DecidableEq, Repr

end Sys2Proof.Machine
end

