-- ==== Sys2Proof/Machine/Package.lean ====
section
/-! DEFINITION. The state of the package outside its contexts: memory controllers and caches (R439 to R454), power
(R451 to R453, R465, R466), the host window and its rings (R455 to R469). -/
namespace Sys2Proof.Machine

/-! ## HBM4E pseudo-channels (R440 to R443) -/

/-- A read at a controller: its bank, when it arrived, and the context it belongs to. -/
structure HbmRead where
  bank : Nat
  arrival : Nat
  uid : Nat
  deriving DecidableEq, Repr

/-- A pseudo-channel. Cycles are core cycles of the controller's own count. -/
structure PcSt where
  /-- POST of each bank. -/
  post : Sparse Nat := []
  /-- RHOLD of REFCFG. -/
  rhold : Nat := 64
  /-- The cycle of the last timer start; none while REFCFG.ALIGN holds the timers at zero. -/
  start : Option Nat := some 0
  /-- The all-bank refresh in progress is an alignment refresh. -/
  abusy : Bool := false
  forced : BitVec 32 := 0
  postponed : BitVec 32 := 0
  /-- A forced all-bank refresh is pending. -/
  pendingAll : Bool := false
  /-- The cycle at which the all-bank refresh in progress ends. -/
  allUntil : Option Nat := none
  /-- The cycle at which a bank's per-bank refresh ends, plus one; 0 for none. -/
  bankUntil : Sparse Nat := []
  /-- A bank group is active until this cycle, plus one; 0 for inactive. -/
  activeUntil : Sparse Nat := []
  /-- The cycle at which the read in service last to leave leaves. -/
  serviceUntil : Nat := 0
  /-- Reads that wait for a refresh. -/
  waiting : List HbmRead := []
  /-- Refreshes that fell due for a bank behind its postponed ones, and are not counted (R442). -/
  extra : Sparse Nat := []
  /-- The latest cycle of the controller's count that a step has named. -/
  now : Nat := 0
  /-- The cycles for which the command bus of its channel is given to it (R443). -/
  bus : List Nat := []
  deriving DecidableEq, Repr

/-! ## The memory-side cache (R445 to R449) -/

/-- A line of a slice: its die-local line number, its way, when it became dirty, whether it is pinned, when it was last
used, and, of a dirty line, what HBM4E holds beneath it: its readable sectors, by number, with their bytes (R448). -/
structure MscLine where
  line : Nat
  way : Nat
  dirty : Option Nat := none
  pinned : Bool := false
  used : Nat := 0
  under : List (Nat × Bytes) := []
  deriving DecidableEq, Repr

/-- What MSCFLUSH or MSCPIN is doing. -/
inductive MscOp where
  | flushAll | flushFrame (frame : Nat) | pin (frame : Nat) | unpin (frame : Nat)
  deriving DecidableEq, Repr

/-- A die's slice. -/
structure MscSt where
  lines : List MscLine := []
  clock : Nat := 0
  /-- WAYGATE.OFF. -/
  off : BitVec 16 := 0
  /-- MSCCNT0 to MSCCNT7, without PINNED. -/
  cnt : Sparse DWord := []
  flush : Option MscOp := none
  pinning : Option MscOp := none
  /-- Reads of missing lines on their way to a controller, by line, with the context's number. -/
  missing : List (Nat × Nat) := []
  pinFail : Bool := false
  pinFrame : BitVec 31 := 0
  deriving DecidableEq, Repr

/-! ## Power and clocks (R451 to R453, R465) -/

/-- A change of the stacked clock's ratio (R453). -/
inductive XclkStage where
  | idle | draining (ratio : BitVec 2) | relocking
  deriving DecidableEq, Repr

/-- A die's power and clock registers, and the core that its copy dispatcher served last (R206). -/
structure DieSt where
  lastServed : Nat := 0
  ratio : BitVec 2 := 0
  stage : XclkStage := .idle
  /-- XCLK.HELD. -/
  held : BitVec 32 := 0
  /-- Gate and wake requests in progress: the region, and whether it wakes. -/
  requests : List (Region × Bool) := []
  refused : Bool := false
  lastOff : Bool := false
  deriving DecidableEq, Repr

/-! ## The host's rings (R459 to R469) -/

/-- A ring of the driver: free frames, save areas. -/
structure Ring where
  base : DWord := 0
  en : Bool := false
  logsz : Nat := 0
  tail : Nat := 0
  head : Nat := 0
  deriving DecidableEq, Repr

/-- A work queue (R459). -/
structure WorkQueue where
  base : DWord := 0
  en : Bool := false
  err : Bool := false
  port : Nat := 0
  logsz : Nat := 0
  tail : Nat := 0
  head : Nat := 0
  deriving DecidableEq, Repr

/-- An event (R461). -/
structure Event where
  gts : Nat
  source : Nat
  kind : Nat
  p0 : DWord
  p1 : DWord
  deriving DecidableEq, Repr

/-- A port's event ring, with the events that wait for it in order (R462, R469). -/
structure EventRing where
  base : DWord := 0
  en : Bool := false
  logsz : Nat := 0
  tail : Nat := 0
  head : Nat := 0
  waiting : List Event := []
  /-- The egress events in the ring and the sequence they acknowledge when EVHEAD passes them: the record's counter,
  the queue and the position of the entry (R463). -/
  egress : List (Nat × Nat × Nat) := []
  deriving DecidableEq, Repr

/-- An invalidation in progress: the object, the address space, or everything (R457). -/
structure Otinv where
  asid : Nat
  obj : Option Nat
  all : Bool
  /-- The GTS of its start. -/
  gts : Nat := 0
  deriving DecidableEq, Repr

/-- The host side and the firmware (R455 to R469). -/
structure HostSt where
  powered : Bool := false
  bootStep : Nat := 0
  ready : Bool := false
  fail : Bool := false
  otinv : Option Otinv := none
  syncBase : Sparse DWord := []
  freeList : Ring := {}
  savePool : Ring := {}
  rings : Sparse EventRing := []
  wq : Sparse WorkQueue := []
  funcmode : BitVec 6 := 0
  sem : Sparse DWord := []
  /-- What the last read by a port returned: the model's own field. -/
  out : Bytes := []
  deriving DecidableEq, Repr

/-- What stands in for a context that is spilled (R417): its number, its die, and the state that its image holds. The
scratchpad lies in the image itself. -/
structure SpillRec where
  id : Nat
  die : Nat
  /-- The save area of a spill that Firkin made on its own. -/
  area : Option Nat := none
  /-- The bank it left, and the GTS of its image. -/
  bank : Nat := 0
  /-- GEN advances of EQCUT notifications to apply at the FILL, by scratchpad offset (R405, R417). -/
  gens : List Nat := []
  /-- Counts of bytes that had reached the scratchpad before, to apply at the FILL: sync word's offset and bytes (R107,
  R215). -/
  counts : List (Nat × Nat) := []
  /-- A FILL of Firkin's own has failed: it waits for a bank of the die to become free after this many (R418). -/
  waitFree : Option Nat := none
  ctx : Ctx
  deriving DecidableEq, Repr

/-- An entry of a multicast table (R221, R222): the table, the entry, its ranks, and a change that waits. -/
structure McEntry where
  table : Nat
  entry : Nat
  ranks : List Nat
  pending : Option (List Nat) := none
  /-- Commands from this number on were issued while the change waited: the model's own field. -/
  since : Nat := 0
  deriving DecidableEq, Repr

/-- A page that is asked for: the object, the page, and whether a PAGEREQ event has named it (R458). -/
structure PageReq where
  asid : Nat
  obj : Nat
  page : Nat
  told : Bool := false
  deriving DecidableEq, Repr

/-- The units of the package that take commands and launches. -/
structure Units where
  cmds : List Cmd := []
  nextCmd : Nat := 0
  /-- The synchronisation engines, by die, and the objects that are held or waited for, by package, die and index. -/
  homes : Sparse HomeSt := []
  objs : List ((Nat × Nat × Nat) × SyncObj) := []
  egress : Sparse EqSt := []
  link : LinkSt := {}
  launches : List Launch := []
  nextLaunch : Nat := 0
  nextUid : Nat := 1
  nextGroup : Nat := 1
  /-- The work queues served in the round of a die and a level (R377), by 8 × die + level. -/
  pools : Sparse (List Nat) := []
  bushel : Sparse (List BushelEntry) := []
  nextFill : Nat := 0
  /-- The package totals of Table 9 of chapter 12. -/
  totals : Sparse DWord := []
  mcast : List McEntry := []
  spilled : List SpillRec := []
  nextSpill : Nat := 0
  /-- Members of groups of more than one whose jobs have ended, or that have left (R50, R473): level, group, rank. -/
  departed : List (Nat × Nat × Nat) := []
  /-- Pages asked for (R43, R458, R475). -/
  pageReqs : List PageReq := []
  /-- Jobs that a SPILLREQ has named and that have not been spilled (R379). -/
  spillAsked : List Nat := []
  /-- How often a bank of a die has become free (R418): the model's own field. -/
  freed : Sparse Nat := []
  deriving DecidableEq, Repr

/-- Levels of the 1,024 islands (R465): 0 to 3, and 4 for gated; an unlisted island is gated. -/
structure PowerSt where
  level : Sparse Nat := []
  /-- Front-end and matrix islands whose level is changing. -/
  changing : List Nat := []
  /-- Dies that a thermal shutdown has gated. -/
  dieOff : BitVec 4 := 0
  deriving DecidableEq, Repr

end Sys2Proof.Machine
end

