-- ==== Sys2Proof/Machine/State.lean ====
section
/-! DEFINITION. The state of the machine, as plain data, and its reset. -/
namespace Sys2Proof.Machine

/-- What a step of a unit or of the host acts on: the numbers, names and values that its row of the opcode table
leaves open. Plain data; each step's meaning says which fields it reads. -/
structure Operand where
  n0 : Nat := 0
  n1 : Nat := 0
  n2 : Nat := 0
  n3 : Nat := 0
  eng : Engine := .seq
  holder : HolderId := .stream 0
  src : LaunchSrc := .workQueue 0
  region : Region := .quarter 0
  user : SemUser := .port0
  reg : RegName := .csr 0
  host : HostOp := .readWindow 0
  val : DWord := 0
  flag : Bool := false
  bytes : Bytes := []
  deriving DecidableEq, Repr

/-- One turn of the schedule: the step that moves next, what it acts on, and the context bank it belongs to. -/
structure Turn where
  ev : Instr
  on : Operand := {}
  at' : Option BankKey := none
  deriving DecidableEq, Repr

/-- Why the machine stops with a fault (log 7). -/
inductive Fault where
  /-- A step of a unit or of the host was scheduled whose condition does not hold. Raised by the meanings of the
  event rows. Safe: the hardware does not make such a step. -/
  | notDue (row : String)
  deriving DecidableEq, Repr

/-- Why the machine gives no meaning. -/
inductive Refusal where
  /-- The instruction has no meaning yet. Raised by the arms of `exec`. Safe. -/
  | notModelled (mnemonic : String)
  deriving DecidableEq, Repr

/-- A window binding (R224). -/
structure Window where
  asid : Nat
  obj : Nat
  index : Cap
  elem : Cap
  esize : Nat
  n : Nat
  deriving DecidableEq, Repr

/-- What a watermark covers a range of (R109): the issuer's scratchpad, an object by address space and number, or an L2
slice by 12 × die + slice. -/
inductive MarkSpace where
  | pad
  | obj (asid obj : Nat)
  | l2 (slice : Nat)
  deriving DecidableEq, Repr

/-- A watermark (R109): the context it holds back, what it covers a range of, the first byte not yet written and
the end of the range. -/
structure Mark where
  uid : Nat
  cmd : Nat
  space : MarkSpace
  low : Nat
  stop : Nat
  deriving DecidableEq, Repr

/-- A write that waits at the memory port for a page under migration (R164). -/
structure PortStore where
  n : Nat
  uid : Nat
  /-- The number of its issue among the accesses of its job: the model's own field. -/
  stamp : Nat := 0
  cap : Cap
  off : Nat
  data : Bytes
  gts : Nat := 0
  /-- Its place in the commit buffer of the task that it was committed from (R44). -/
  pos : Option Nat := none
  /-- The physical pieces of the translation that it was sent with (R167); none where its page was under migration. -/
  sent : Option (List (Nat × Nat)) := none
  deriving DecidableEq, Repr

/-- A write that counts in the write-acknowledge count of its job (R39): the job, and the number of the write among the
job's accesses. -/
structure Ack where
  uid : Nat
  stamp : Nat
  deriving DecidableEq, Repr

/-- The whole package. -/
structure State where
  /-- The bank in the focus: the running context of the core whose turn it is. -/
  cur : BankKey := 0
  /-- The context in the focus. -/
  ctx : Ctx := {}
  /-- Every other bank of the package, by `bankKey`; an unlisted bank is free. -/
  banks : Sparse Ctx := []
  /-- The number of the running bank of each core (R36), by core number; 4 more where a context has been filled into that
  bank and not been chosen (R416). -/
  running : Sparse Nat := []
  /-- Gated banks, and banks that are waking (R411, R452), by `bankKey`. -/
  bankOff : Sparse Bool := []
  bankWaking : Sparse Bool := []
  /-- HBM4E, the second tier, and the memory of the other packages of the domain, by 52-bit physical address (R163). -/
  mem : Memory := []
  /-- Physical 32-byte sectors with an uncorrectable error (R447). -/
  bad : List Nat := []
  /-- Physical 32-byte sectors with an error that can be corrected (R226). -/
  soft : List Nat := []
  /-- The lines that each core's L1 holds, by core number, then by physical line number (R91). -/
  l1 : Sparse (Sparse Bytes) := []
  /-- Window bindings, at most 4,096 (R224). -/
  windows : List Window := []
  /-- Writes that wait at the ports, oldest first (R164). -/
  ports : List PortStore := []
  nextPort : Nat := 0
  /-- Stores that have left their cores and are not yet acknowledged (R39). -/
  acks : List Ack := []
  /-- Watermarks of copies in flight (R109, R215). -/
  marks : List Mark := []
  /-- ASIDROOT (R457). -/
  asidRoot : DWord := 0
  /-- Second-tier quarters that are gated, and that are waking (R451). -/
  quarterOff : BitVec 4 := 0
  quarterWaking : BitVec 4 := 0
  /-- The pseudo-channels, by 128 × die + 64 × stack + pseudo-channel (R440). -/
  pcs : Sparse PcSt := []
  /-- The MSC slices, by die. -/
  msc : Sparse MscSt := []
  /-- Power and clock registers, by die. -/
  dies : Sparse DieSt := []
  /-- The L2 staging slices: 8 MiB each, slice 12 × die + n from byte 2^23 × that on (R209). -/
  l2 : Memory := []
  units : Units := {}
  host : HostSt := {}
  power : PowerSt := {}
  /-- The GTS in nanoseconds (R1). -/
  gts : Nat := 0
  /-- The package's own number (R434). -/
  myPkg : Nat := 0
  /-- The turns that the schedule has decided, the next first: the model's own field. -/
  agenda : List Turn := []
  /-- What the step in progress acts on: the model's own field. -/
  operand : Operand := {}
  /-- The schedule lets loads be answered later: the model's own field. -/
  late : Bool := false
  /-- The schedule lets an engine's words wait in its queue: the model's own field. -/
  lag : BitVec 6 := 0
  /-- Steps made so far: the model's own field. -/
  steps : Nat := 0
  /-- The next free value (log 5): the model's own field. -/
  fresh : Nat := 0
  deriving DecidableEq, Repr

/-- The machine after reset. -/
def State.reset : State := {}

end Sys2Proof.Machine
end

