-- ==== Sys2Proof/Machine/Geometry.lean ====
section
/-! DEFINITION. The geometry of streams (R190 to R192): blocks, pieces and headers of a run. -/
namespace Sys2Proof.Machine

/-! ## Stream geometry (R190 to R192) -/

/-- Bits of an element (R190, Table 11). -/
def fmtBits (f : Nat) : Nat :=
  match f with
  | 0 | 7 => 32
  | 1 | 2 => 16
  | 8 | 9 => 4
  | _ => 8

/-- Bytes of a header of a block format (R192). -/
def hdrBytes (f : Nat) : Nat := if f = 8 then 1 else if f = 9 then 2 else 0

/-- Elements of a 2 KiB block. -/
def blockElems (f : Nat) : Nat := 2048 * 8 / fmtBits f

/-- Elements of a run. -/
def StreamDesc.elems (d : StreamDesc) : Nat := d.cnt0 * d.cnt1 * d.cnt2 * d.cnt3

/-- Blocks of a run (R191). -/
def StreamDesc.blocks (d : StreamDesc) : Nat := (d.elems * fmtBits d.fmt / 8 + 2047) / 2048

/-- The byte offset of the element of a linear index, less the cursor (R191). -/
def StreamDesc.offset (d : StreamDesc) (l : Nat) : Int :=
  let i0 := l % d.cnt0
  let i1 := l / d.cnt0 % d.cnt1
  let i2 := l / d.cnt0 / d.cnt1 % d.cnt2
  let i3 := l / d.cnt0 / d.cnt1 / d.cnt2
  d.base + (i0 * fmtBits d.fmt / 8 : Nat) + i1 * d.str1 + i2 * d.str2 + i3 * d.str3

/-- The least and the greatest of the offsets of dimensions 1 to 3. -/
def StreamDesc.low (d : StreamDesc) : Int :=
  d.base + min 0 ((d.cnt1 - 1 : Int) * d.str1) + min 0 ((d.cnt2 - 1 : Int) * d.str2) + min 0 ((d.cnt3 - 1 : Int) * d.str3)
def StreamDesc.high (d : StreamDesc) : Int :=
  d.base + max 0 ((d.cnt1 - 1 : Int) * d.str1) + max 0 ((d.cnt2 - 1 : Int) * d.str2) + max 0 ((d.cnt3 - 1 : Int) * d.str3)

/-- The contiguous pieces of `n` elements from linear index `l` on: offset and bytes (fuel: the elements). -/
def StreamDesc.runs (d : StreamDesc) : Nat → Nat → Nat → List (Int × Nat)
  | 0, _, _ => []
  | f + 1, l, n =>
    if n = 0 then []
    else
      let m := min n (d.cnt0 - l % d.cnt0)
      (d.offset l, m * fmtBits d.fmt / 8) :: StreamDesc.runs d f (l + m) (n - m)

/-- The elements of block `k` that the run has. -/
def StreamDesc.present (d : StreamDesc) (k : Nat) : Nat := min (blockElems d.fmt) (d.elems - k * blockElems d.fmt)

/-- The pieces of block `k`. -/
def StreamDesc.pieces (d : StreamDesc) (k : Nat) : List (Int × Nat) :=
  d.runs (blockElems d.fmt + 1) (k * blockElems d.fmt) (d.present k)

/-- The offset of the header of the 32-element block `j` of the run, less the header cursor (R192). `cur` is the data
cursor. -/
def StreamDesc.header (d : StreamDesc) (cur : Nat) (j : Nat) : Int :=
  if d.hdr = 1 then d.hbase + ((cur : Int) + d.offset (32 * j)) / (2 ^ d.hshift : Nat)
  else d.hbase + j * d.hstride

/-- The header of an absent element block (R192). -/
def emptyHdr (fmt : Nat) : Bytes := if fmt = 8 then [0] else if fmt = 9 then [0x00, 0x1E] else []

/-- The cursors that a run's offsets start from: none in the scratchpad (R191, R192). -/
def Stream.dcur (t : Stream) : Nat := if t.desc.sp then 0 else t.ldcap.cursor.toNat
def Stream.hcur (t : Stream) : Nat := if t.desc.sp then 0 else t.lhcap.cursor.toNat

/-- An offset added to a base, formed exactly; SSET has checked that no offset of a run is negative (R193). -/
def addOff (base : Nat) (d : Int) : Nat := ((base : Int) + d).toNat

end Sys2Proof.Machine
end

