-- ==== Sys2Proof/Machine/Msc.lean ====
section
/-! DEFINITION. Physical addresses (R163, R439), the events that units post for the host (R461, R462), and the memory-side
caches (R445, R447, R448); the object tables (R162). -/
namespace Sys2Proof.Machine

/-! ## Physical addresses (R163, R439) -/

/-- Bytes of a page (R163). -/
def pageBytes : Nat := 0x200000
def pageSize : Nat := pageBytes
/-- LOC of a page entry (Table 6 of chapter 5). -/
def pageLoc (e : DWord) : Nat := (e.extractLsb' 62 2).toNat
/-- PIN of a page entry. -/
def pagePin (e : DWord) : Bool := e.getLsbD 61
/-- FRAME of a page entry. -/
def pageFrame (e : DWord) : Nat := (e.extractLsb' 0 31).toNat
/-- The local address of a physical address (R163). -/
def localOf (a : Nat) : Nat := a % 2 ^ 42
/-- The package of a physical address. -/
def packageOf (a : Nat) : Nat := a / 2 ^ 42
/-- The address decodes to HBM4E (Table 1 of chapter 16). -/
def isHbm (a : Nat) : Bool := localOf a / 2 ^ 39 == 0
/-- The address decodes to the second tier. -/
def isSecond (a : Nat) : Bool := localOf a / 2 ^ 40 == 1
/-- The address decodes to memory. -/
def decodes (a : Nat) : Bool := isHbm a || isSecond a
/-- The power quarter of a second-tier address. -/
def quarterOf (a : Nat) : Nat := localOf a / 2 ^ 38 % 4
/-- The die of an HBM4E address. -/
def hbmDie (a : Nat) : Nat := localOf a / 2 ^ 37 % 4

/-- The address lies in a gated second-tier quarter of this package. -/
def State.quarterGated (s : State) (a : Nat) : Bool :=
  isSecond a && packageOf a == s.myPkg && s.quarterOff.getLsbD (quarterOf a)
/-- The address lies in a quarter that is waking (R452). -/
def State.quarterWakes (s : State) (a : Nat) : Bool :=
  isSecond a && packageOf a == s.myPkg && s.quarterWaking.getLsbD (quarterOf a)

/-- The stacked clock of a die is changing: requests for its stacked layers are held (R453). -/
def State.dieHeld (s : State) (die : Nat) : Bool := (s.dies.get {} die).stage != .idle
/-- A request to an address is held now: its quarter wakes, or it would go through the MSC ports of a die whose stacked
clock changes (R452, R453). -/
def State.memHeld (s : State) (a : Nat) : Bool :=
  s.quarterWakes a || (isHbm a && packageOf a == s.myPkg && s.dieHeld (hbmDie a))

def State.slice (s : State) (die : Nat) : MscSt := s.msc.get {} die
def State.setSlice (s : State) (die : Nat) (m : MscSt) : State := { s with msc := s.msc.set {} die m }

/-- A sector of the range has an uncorrectable error: the address of the first (R447). -/
def State.badIn (s : State) (a n : Nat) : Option Nat :=
  (List.range ((a + n + 31) / 32 - a / 32)).findSome? fun i =>
    if s.bad.contains (a / 32 + i) then some (32 * (a / 32 + i)) else none

/-- The uncorrectable sectors among the bytes of a range that are not held: the empty list holds none. -/
def State.badSectors (s : State) (a n : Nat) (held : List (Option Byte)) : List Nat :=
  (List.range ((a + n + 31) / 32 - a / 32)).filterMap fun i =>
    if s.bad.contains (a / 32 + i) && (held == [] || (List.range n).any fun j => (a + j) / 32 == a / 32 + i && ((held[j]?).getD none).isNone)
    then some (a / 32 + i) else none

/-- The same for the bytes that are not held: the empty list holds none. -/
def State.badGap (s : State) (a n : Nat) (held : List (Option Byte)) : Option Nat :=
  if held = [] then s.badIn a n
  else (List.range n).findSome? fun i =>
    if ((held[i]?).getD none).isNone && s.bad.contains ((a + i) / 32) then some (32 * ((a + i) / 32)) else none

/-! ## Events for the host (R461, R462, R469) -/

/-- The port whose ring receives an event that belongs to no work queue: the spec leaves it open. -/
def eventPort (source : Nat) : Nat := Config.eventPort source % 2

/-- Put an event into the order of R462: by GTS, then by SOURCE. -/
def insertEvent (e : Event) : List Event → List Event
  | [] => [e]
  | x :: r => if e.gts < x.gts ∨ (e.gts = x.gts ∧ e.source < x.source) then e :: x :: r else x :: insertEvent e r

/-- An event for a port's ring (R462): it waits there until EVENT_POST writes it. -/
def State.postTo (s : State) (port source kind : Nat) (p0 p1 : DWord) : State :=
  let r := s.host.rings.get {} port
  let e : Event := { gts := s.gts, source := source, kind := kind, p0 := p0, p1 := p1 }
  { s with host.rings := s.host.rings.set {} port { r with waiting := insertEvent e r.waiting } }

/-- An event of a unit (R461). -/
def State.post (s : State) (source kind : Nat) (p0 p1 : DWord) : State := s.postTo (eventPort source) source kind p0 p1

/-- Event kinds and sources (R461). -/
def kComplete : Nat := 0
def kEgress : Nat := 1
def kError : Nat := 2
def kMcheck : Nat := 3
def kPagereq : Nat := 4
def kSpillreq : Nat := 5
def kBushel : Nat := 6
def kLink : Nat := 7
def kPower : Nat := 8
def srcEgress (q : Nat) : Nat := 1024 + q
def srcDie (d : Nat) : Nat := 5120 + d
def srcPort (p : Nat) : Nat := 5124 + p
def srcPower : Nat := 5140

/-! ## The memory-side cache (R445 to R449) -/

def mscSets : Nat := 888832
/-- Dirty lines for which a slice has side-store entries (R447). -/
def sideEntries : Nat := 2 ^ 22
/-- The die-local line of a physical address (R445). -/
def mscLine (a : Nat) : Nat := a % 2 ^ 37 / 128
/-- The set of a line. -/
def mscSet (line : Nat) : Nat := line % mscSets
/-- The lines of a frame: 16,384 of them (R445). -/
def frameLines (frame : Nat) : List Nat := (List.range 16384).map fun i => mscLine (frame * pageSize) + i

/-- Add to a saturating counter. -/
def satAdd (v : DWord) (n : Nat) : DWord := BitVec.ofNat 64 (min (v.toNat + n) (2 ^ 64 - 1))

/-- Count an occurrence in one of a slice's counters (Table 5 of chapter 16). -/
def MscSt.count (m : MscSt) (i n : Nat) : MscSt := { m with cnt := m.cnt.set 0 i (satAdd (m.cnt.get 0 i) n) }

def MscSt.find (m : MscSt) (line : Nat) : Option MscLine := m.lines.find? fun l => l.line == line
def MscSt.dirtyCount (m : MscSt) : Nat := (m.lines.filter fun l => l.dirty.isSome).length
def MscSt.pinnedCount (m : MscSt) : Nat := (m.lines.filter fun l => l.pinned).length

/-- The way that a new line of a set takes: a free ungated one, or the least recently used that is neither pinned nor
gated (R445). -/
def MscSt.victim (m : MscSt) (set : Nat) : Option (Nat × Option MscLine) :=
  let ways := (List.range 16).filter fun w => !m.off.getLsbD w
  let held := m.lines.filter fun l => mscSet l.line == set
  match ways.find? fun w => !held.any fun l => l.way == w with
  | some w => some (w, none)
  | none =>
    let old := (held.filter fun l => !l.pinned && ways.contains l.way).foldl (fun (b : Option MscLine) l =>
      match b with
      | some x => if l.used < x.used then some l else b
      | none => some l) none
    old.map fun l => (l.way, some l)

/-- A slice holds the line of an address dirty: its sectors stand there, with their ECC in the side store (R447). -/
def State.dirtyIn (s : State) (a : Nat) : Bool :=
  isHbm a && packageOf a == s.myPkg && match (s.slice (hbmDie a)).find (mscLine a) with
    | some l => l.dirty.isSome
    | none => false

/-- The unit of a sector for an ERROR event (Table 7 of chapter 17): HBM4E, the MSC side store, or the second tier. -/
def State.sectorUnit (s : State) (a : Nat) : Nat := if isSecond a then 2 else if s.dirtyIn a then 1 else 0

/-- The die that reports an address: the second tier's errors name the die of its home engine (R229). -/
def errDie (a : Nat) : Nat := if isHbm a then hbmDie a else localOf a / 2 ^ 12 % 4

/-- An ERROR event for a sector, where errors are logged (R458, R461). -/
def State.errorEvent (s : State) (type sector : Nat) : State :=
  if s.host.funcmode.getLsbD 5 ∨ packageOf (32 * sector) ≠ s.myPkg then s
  else s.post (srcDie (errDie (32 * sector))) kError (BitVec.ofNat 64 (2 ^ 60 * type + 32 * sector)) (BitVec.ofNat 64 (s.sectorUnit (32 * sector)))

/-- Count a sector in its die's counters (Table 5 of chapter 16). -/
def State.countSector (s : State) (i sector : Nat) : State :=
  if isHbm (32 * sector) ∧ packageOf (32 * sector) = s.myPkg then s.setSlice (hbmDie (32 * sector)) ((s.slice (hbmDie (32 * sector))).count i 1) else s

/-- An uncorrectable sector is detected: it is counted and reported (R447, R458). -/
def State.detect (s : State) (sector : Nat) : State := (s.countSector 7 sector).errorEvent 1 sector
/-- A sector is corrected. -/
def State.corrected (s : State) (sector : Nat) : State := (s.countSector 6 sector).errorEvent 0 sector

/-- The physical address of a die's line. -/
def State.lineAddr (s : State) (die line : Nat) : Nat := s.myPkg * 2 ^ 42 + die * 2 ^ 37 + line * 128

/-- What HBM4E holds of a clean line: its readable sectors with their bytes. -/
def State.beneath (s : State) (die line : Nat) : List (Nat × Bytes) :=
  (List.range 4).filterMap fun i =>
    let x := s.lineAddr die line / 32 + i
    if s.bad.contains x then none else some (x, s.mem.read (32 * x) 32)

/-- A dirty line is written back. Sectors that have become uncorrectable in it are not written: HBM4E keeps its older bytes
for them, and a machine check names the line (R448). -/
def State.writeBackLine (s : State) (die : Nat) (l : MscLine) : State :=
  let m := s.slice die
  let s1 := s.setSlice die (m.count 2 1)
  let a := s.lineAddr die l.line
  let lost := l.under.filter fun p => s.bad.contains p.1
  let s2 := if lost = [] then s1
    else { s1 with mem := lost.foldl (fun m p => Memory.write m (32 * p.1) p.2) s1.mem
                   bad := s1.bad.filter fun x => !lost.any fun p => p.1 == x }
  if (s.badIn a 128).isSome then s2.post (srcDie die) kMcheck 1 (BitVec.ofNat 64 a) else s2

/-- A line of a slice goes, written back first where it is dirty. -/
def State.dropLine (s : State) (die : Nat) (l : MscLine) : State :=
  let s1 := if l.dirty.isSome then s.writeBackLine die l else s
  let m := s1.slice die
  s1.setSlice die { m with lines := m.lines.filter fun x => x.line != l.line }

/-- The line with its dirtiness gone, if it is the one named. -/
def MscLine.clean (l : MscLine) (line : Nat) : MscLine := if l.line = line then { l with dirty := none, under := [] } else l

/-- A line becomes clean and stays. -/
def State.cleanLine (s : State) (die : Nat) (l : MscLine) : State :=
  let s1 := s.writeBackLine die l
  let m := s1.slice die
  s1.setSlice die { m with lines := m.lines.map (·.clean l.line) }

/-- The line that has been dirty longest, an unpinned one first (R448). -/
def MscSt.oldestDirty (m : MscSt) : Option MscLine :=
  let pick := fun (ls : List MscLine) => ls.foldl (fun (b : Option MscLine) l =>
    match b, l.dirty with
    | none, some _ => some l
    | some x, some d => if d < x.dirty.getD 0 then some l else b
    | _, none => b) none
  match pick (m.lines.filter fun l => !l.pinned) with
  | some l => some l
  | none => pick m.lines

/-- SIDE_STORE_WRITEBACK (R448): a line about to become dirty needs a side-store entry. -/
def State.sideStore (s : State) (die : Nat) : State :=
  if (s.slice die).dirtyCount < sideEntries then s
  else match (s.slice die).oldestDirty with
    | none => s
    | some l =>
      let s1 := s.cleanLine die l
      s1.setSlice die ((s1.slice die).count 3 1)

/-- A missing line is brought into its set (R445); `dirty` where a write allocates it. -/
def State.mscFill (s : State) (die line : Nat) (dirty : Bool) : State :=
  match (s.slice die).victim (mscSet line) with
  | none => s
  | some (w, old) =>
    let s1 := match old with
      | some l => s.dropLine die l
      | none => s
    let s2 := if dirty then s1.sideStore die else s1
    let m := s2.slice die
    let l : MscLine := { line := line, way := w, dirty := if dirty then some m.clock else none, used := m.clock
                         under := if dirty then s2.beneath die line else [] }
    s2.setSlice die { m with lines := m.lines ++ [l], clock := m.clock + 1 }

/-- The line is used at a time of the slice's clock. -/
def MscLine.touch (l : MscLine) (line clock : Nat) : MscLine :=
  { l with used := if l.line = line then clock else l.used }

/-- A slice holds a line that a write makes dirty (R230, R448), over what HBM4E holds. -/
def MscLine.dirtyAt (l : MscLine) (line clock : Nat) (under : List (Nat × Bytes)) : MscLine :=
  if l.line = line then
    { l with dirty := l.dirty <|> some clock, used := clock, under := if l.dirty.isSome then l.under else under }
  else l

/-- The sectors of `l` that an access to bytes `lo` to `hi - 1` reads: a write reads those that it covers in part. -/
def readsOf (l : List Nat) (lo hi : Nat) (write : Bool) : List Nat :=
  l.filter fun x => decide (lo < 32 * x + 32) && decide (32 * x < hi) && !(write && decide (lo ≤ 32 * x) && decide (32 * x + 32 ≤ hi))

/-- An access to bytes `lo` to `hi - 1` of a line that the slice holds (R445): counted, and the line is the most recently
used; a write makes it dirty. A read of a dirty line corrects its sectors in place, and one of a clean line reads them
again from HBM4E (R447). -/
def State.mscHit (s : State) (lo hi : Nat) (l : MscLine) (write : Bool) : State :=
  let die := hbmDie lo
  let soft := readsOf s.soft lo hi write
  let s1 := if write && l.dirty.isNone then s.sideStore die else s
  let s2 := if l.dirty.isSome then soft.foldl State.corrected s1
    else if soft = [] then s1 else s1.setSlice die ((s1.slice die).count 5 soft.length)
  let m := (s2.slice die).count 0 1
  { s2.setSlice die { m with
      lines := m.lines.map fun x => if write then x.dirtyAt l.line m.clock (s2.beneath die l.line) else x.touch l.line m.clock
      clock := m.clock + 1 } with soft := if soft = [] then s2.soft else s2.soft.filter fun x => !soft.contains x }

/-- An access that misses (R445): a read, or a write that covers a sector in part, is sent to the controller, which
corrects what it can (R447), and the line is brought in. `uid` is the context whose request it is (R444); 0 for none. -/
def State.mscMiss (s : State) (lo hi : Nat) (write : Bool) (uid : Nat := 0) : State :=
  let die := hbmDie lo
  let s1 := (readsOf s.soft lo hi write).foldl State.corrected s
  let m := (s1.slice die).count 1 1
  let read := !write || lo % 32 != 0 || hi % 32 != 0
  (s1.setSlice die { m with missing := if read then m.missing ++ [(mscLine lo, uid)] else m.missing }).mscFill
    die (mscLine lo) write

/-- A synchronisation engine holds the line of an address. -/
def HomeSt.has (h : HomeSt) (a : Nat) : Bool := h.lines.any (·.1 == a / 128)

/-- The engine with a line as the one used last. -/
def HomeSt.useLine (h : HomeSt) (line : Nat) : HomeSt :=
  { h with lines := (h.lines.filter fun l => l.1 != line) ++ [(line, h.clock)], clock := h.clock + 1 }

/-- An access to bytes of one line of HBM4E of this package; the uncorrectable sectors that it reads are counted and
reported (R447). A synchronisation engine that holds the line serves it (R230). -/
def State.mscAccess (s : State) (lo hi : Nat) (write : Bool) (uid : Nat := 0) : State :=
  if isHbm lo && packageOf lo == s.myPkg && (s.units.homes.get {} (hbmDie lo)).has lo then
    { s with units.homes := s.units.homes.set {} (hbmDie lo) ((s.units.homes.get {} (hbmDie lo)).useLine (lo / 128)) }
  else if isHbm lo && packageOf lo == s.myPkg then
    let s1 := (readsOf s.bad lo hi write).foldl State.detect s
    match (s1.slice (hbmDie lo)).find (mscLine lo) with
    | some l => s1.mscHit lo hi l write
    | none => s1.mscMiss lo hi write uid
  else s

/-- An access to a range, line by line. -/
def State.mscTouch (s : State) (a n : Nat) (write : Bool) (uid : Nat := 0) : State :=
  if n = 0 then s
  else (List.range ((a + n - 1) / 128 + 1 - a / 128)).foldl (fun s i =>
    s.mscAccess (max a (128 * (a / 128 + i))) (min (a + n) (128 * (a / 128 + i) + 128)) write uid) s

/-- A 64-bit word of memory. -/
def State.mem8 (s : State) (a : Nat) : DWord := BitVec.ofNat 64 (bytesToNat (s.mem.read a 8))

/-! ## Object tables (R162, R164, R457) -/

/-- An object entry (R162), where it is valid. -/
structure ObjEntry where
  type : Nat
  length : Nat
  plist : Nat
  deriving DecidableEq, Repr

/-- The entry of an object; none where VALID is 0 or the root table does not reach it (R457). -/
def State.objEntry (s : State) (asid obj : Nat) : Option ObjEntry :=
  let root := s.asidRoot.toNat % 2 ^ 52 + 16 * asid
  let w0 := s.mem8 root
  let w1 := s.mem8 (root + 8)
  if !w0.getLsbD 63 ∨ obj ≥ w0.toNat % 2 ^ 48 then none
  else
    let e := w1.toNat % 2 ^ 52 + 32 * obj
    let v := s.mem8 e
    if !v.getLsbD 63 then none
    else some { type := (v.extractLsb' 48 4).toNat, length := v.toNat % 2 ^ 48,
                plist := (s.mem8 (e + 8)).toNat % 2 ^ 52 }

/-- The physical address of a page's entry. -/
def ObjEntry.entryAddr (o : ObjEntry) (page : Nat) : Nat := o.plist + 8 * page

/-- The uncorrectable sector among the words that a walk must read (R4): the root's entry, the object's, and the page's. -/
def State.walkSector (s : State) (asid obj page : Nat) : Option Nat :=
  let root := s.asidRoot.toNat % 2 ^ 52 + 16 * asid
  s.badIn root 16
    <|> (if (s.mem8 root).getLsbD 63 ∧ obj < (s.mem8 root).toNat % 2 ^ 48 then
        s.badIn ((s.mem8 (root + 8)).toNat % 2 ^ 52 + 32 * obj) 16
      else none)
    <|> match s.objEntry asid obj with
      | some e => if page * pageSize < e.length then s.badIn (e.entryAddr page) 8 else none
      | none => none

/-- A word that a walk must read lies in an uncorrectable sector (R4). -/
def State.walkBad (s : State) (asid obj page : Nat) : Bool := (s.walkSector asid obj page).isSome

/-! ## Uncorrectable sectors (R4, R447, R458) -/

/-- An uncorrectable sector in a read that no context consumes (R4): a machine-check event, whose cause is the internal
error with a code of the firmware's, beside the ERROR event that names the sector (log 54). -/
def State.reportBad (s : State) (sector : Nat) : State :=
  ({ s with fresh := s.fresh + 1 }.post (srcDie (errDie (32 * sector))) kMcheck 4 (Config.freeValue s.fresh)).detect sector

/-- What an ECC_UNCORRECTABLE fault has met is counted and reported beside the fault (R458, R469). A sector of a context
bank has no physical address: its event's address field is a free value (log 66). -/
def State.noteBad (s : State) (t : TrapInfo) : State :=
  if t.cause ≠ .eccUncorrectable then s
  else match t.bad with
  | .told => s
  | .sectors l => l.foldl State.detect s
  | .table => match s.walkSector t.cap.asid.toNat t.cap.obj.toNat (t.toff / pageSize) with
    | some a => s.detect (a / 32)
    | none => s
  | .bank =>
    if s.host.funcmode.getLsbD 5 then s
    else { s with fresh := s.fresh + 1 }.post (srcDie s.cur.die) kError
      (BitVec.ofNat 64 (2 ^ 60 + (Config.freeValue s.fresh).toNat % 2 ^ 52)) 3

end Sys2Proof.Machine
end

