-- ==== Sys2Proof/Machine/Ops.lean ====
section
/-! DEFINITION. The named operations over the state: registers, memory and translation (R155 to R167), queues (R21 to
R25), and taking a trap and returning from one (R142 to R145). -/
namespace Sys2Proof.Machine

/-- Why an instruction does not run to its end: it traps, it waits where it stands and is tried again, or the model
stops with a fault. -/
inductive Stop where
  | trap (t : TrapInfo)
  | wait
  | bad (f : Fault)
  deriving DecidableEq, Repr

/-- A computation over the state. What it has done before it stops stays done. -/
abbrev M := EStateM Stop State

/-- Raise a trap cause (R77). -/
def fault {α : Type} (c : Cause) : M α := throw (.trap { cause := c })
/-- Raise a trap with its record's details. -/
def raise {α : Type} (t : TrapInfo) : M α := throw (.trap t)
/-- Wait: the instruction is tried again from its start. -/
def wait {α : Type} : M α := throw .wait
/-- Raise a cause unless a condition holds. -/
def need (b : Bool) (c : Cause) : M Unit := if b then pure () else fault c
/-- Wait unless a condition holds. -/
def await (b : Bool) : M Unit := if b then pure () else wait
/-- Raise the trap that a check found. -/
def check (t : Option TrapInfo) : M Unit :=
  match t with
  | none => pure ()
  | some t => raise t

/-! ## Updates of the focus context -/

def State.modCtx (s : State) (f : Ctx → Ctx) : State := { s with ctx := f s.ctx }
def State.modSeq (s : State) (f : SeqSt → SeqSt) : State := { s with ctx.seq := f s.ctx.seq }
def State.modAcc (s : State) (f : AccSt → AccSt) : State := { s with ctx.acc := f s.ctx.acc }
def modCtx (f : Ctx → Ctx) : M Unit := modify fun s => s.modCtx f
def modSeq (f : SeqSt → SeqSt) : M Unit := modify fun s => s.modSeq f
def modAcc (f : AccSt → AccSt) : M Unit := modify fun s => s.modAcc f

/-! ## Registers (R74) -/

/-- x[d]; x0 reads 0. -/
def State.x (s : State) (d : BitVec 5) : DWord := if d = 0 then 0 else s.ctx.acc.x.get 0 d.toNat
/-- Write x[d]; a write of x0 is discarded. -/
def State.setX (s : State) (d : BitVec 5) (v : DWord) : State :=
  if d = 0 then s else { s with ctx.acc.x := s.ctx.acc.x.set 0 d.toNat v }
/-- c[n]. -/
def State.c (s : State) (n : Nat) : Cap := s.ctx.acc.c.get Cap.null n
/-- Write c[n], which empties its access queue's translations (R165). -/
def State.setC (s : State) (n : Nat) (v : Cap) : State :=
  let h := s.ctx.acc.aq.get {} n
  { s with ctx.acc.c := s.ctx.acc.c.set Cap.null n v
           ctx.acc.aq := s.ctx.acc.aq.set {} n { h with cur := none, next := none, want := none, walk := none, walked := [] } }
/-- k[n]. -/
def State.kreg (s : State) (n : Nat) : Word := s.ctx.seq.k.get 0 n
/-- Write k[n]. -/
def State.setK (s : State) (n : Nat) (v : Word) : State := { s with ctx.seq.k := s.ctx.seq.k.set 0 n v }
/-- Predicate n; p0 reads true (R74). -/
def State.pred (s : State) (n : Nat) : Bool := n == 0 || s.ctx.seq.p.getLsbD n
/-- Write predicate n; a write of p0 is ignored. -/
def State.setPred (s : State) (n : Nat) (b : Bool) : State :=
  if n = 0 then s else
  { s with ctx.seq.p := if b then s.ctx.seq.p ||| (1#8 <<< n) else s.ctx.seq.p &&& ~~~(1#8 <<< n) }
/-- lc[n]. -/
def State.lc (s : State) (n : Nat) : BitVec 27 := s.ctx.seq.lc.get 0 n
/-- Write lc[n]. -/
def State.setLc (s : State) (n : Nat) (v : BitVec 27) : State := { s with ctx.seq.lc := s.ctx.seq.lc.set 0 n v }
/-- A stream register. -/
def State.stream (s : State) (n : Nat) : Stream := s.ctx.acc.s.get {} n
def State.setStream (s : State) (n : Nat) (v : Stream) : State :=
  { s with ctx.acc.s := s.ctx.acc.s.set {} n v }
/-- A data queue. -/
def State.dataQ (s : State) (n : Nat) : DataQ := s.ctx.dq.get {} n
def State.setDataQ (s : State) (n : Nat) (v : DataQ) : State := { s with ctx.dq := s.ctx.dq.set {} n v }

/-- Whether an outstanding load is still to write x[d] or c[d] (R153). -/
def State.xBusy (s : State) (d : BitVec 5) : Bool :=
  d != 0 && s.ctx.acc.loads.any fun l => match l.dest with | .x n _ _ => n == d.toNat | _ => false
def State.cBusy (s : State) (d : Nat) : Bool :=
  s.ctx.acc.loads.any fun l => match l.dest with | .c n => n == d | _ => false

/-- Read x[d], once no load is still to write it. -/
def rdX (d : BitVec 5) : M DWord := do
  let s ← get
  if s.xBusy d then wait else pure (s.x d)
/-- Wait until no load is still to write x[d]. -/
def freeX (d : BitVec 5) : M Unit := do
  let s ← get
  if s.xBusy d then wait else pure ()
/-- Write x[d]. -/
def wrX (d : BitVec 5) (v : DWord) : M Unit := modify fun s => s.setX d v
/-- Read c[n]. -/
def rdC (n : BitVec 5) : M Cap := do
  let s ← get
  if s.cBusy n.toNat then wait else pure (s.c n.toNat)
def freeC (n : BitVec 5) : M Unit := do
  let s ← get
  if s.cBusy n.toNat then wait else pure ()
def wrC (n : BitVec 5) (v : Cap) : M Unit := modify fun s => s.setC n.toNat v

/-- Privileged: PRIV at task level (R147). -/
def privileged : M Unit := do
  let s ← get
  need s.ctx.seq.sup .priv

/-- An operation that a tile task may not perform (R40). -/
def notInTask : M Unit := do
  let s ← get
  need (!s.ctx.job.task) .illegalOperand

/-- The next free value: 64 bits that nothing constrains. -/
def freeVal : M DWord := do
  let s ← get
  set { s with fresh := s.fresh + 1 }
  pure (Config.freeValue s.fresh)

/-! ## Engines and their queues (R11, R13) -/

def Item.addr : Item → Nat
  | .instr _ a _ _ _ _ _ | .marker _ a _ | .rdv _ a | .phase _ a | .deliver _ _ a | .seed _ a => a
/-- The words that an item takes of its queue. -/
def Item.words : Item → Nat
  | .instr _ _ n _ _ _ _ => n
  | _ => 1
/-- TCAUSE.LEN of an item (Table 13 of chapter 4). -/
def Item.len : Item → Nat
  | .instr _ _ n _ _ _ _ => n
  | _ => 1

def State.queue (s : State) (e : Engine) : List Item := s.ctx.iq.get [] e.code
def State.setQueue (s : State) (e : Engine) (l : List Item) : State :=
  { s with ctx.iq := s.ctx.iq.set [] e.code l }
def State.enqueue (s : State) (e : Engine) (it : Item) : State := s.setQueue e (s.queue e ++ [it])
def queueWords (l : List Item) : Nat := l.foldl (fun n it => n + it.words) 0
/-- Capacity of an instruction queue in words (R11). -/
def queueDepth : Nat := 32

/-- A hold buffer. -/
def State.hold (s : State) (e : Engine) : Hold := s.ctx.hold.get {} e.code
def State.setHold (s : State) (e : Engine) (h : Hold) : State := { s with ctx.hold := s.ctx.hold.set {} e.code h }
/-- Empty a hold buffer. -/
def State.clearHold (s : State) (e : Engine) : State := if s.hold e = {} then s else s.setHold e {}
/-- The next attempt takes the held blocks from the first (R264, R286). -/
def State.rewindHold (s : State) (e : Engine) : State :=
  if (s.hold e).pos = 0 then s else s.setHold e { s.hold e with pos := 0 }

/-- Whether an engine is named in a mask (R14). -/
def inMask (m : BitVec 6) (e : Engine) : Bool := m.getLsbD e.code

/-- An engine is held by an RDV or a PHASE whose marker of its own has retired (R48, R137). -/
def State.heldBy (s : State) (e : Engine) : Bool :=
  (s.ctx.seq.rdvs ++ s.ctx.seq.phases).any fun m =>
    decide (s.ctx.seq.meetBase ≤ m.n) && inMask m.mask e && !inMask m.pending e

/-- The engines other than SEQ. -/
def engines : List Engine := [.acc, .vec, .mat, .idx, .qnt]

/-- Every engine has retired every word fetched so far. -/
def State.drained (s : State) : Bool := engines.all fun e => (s.queue e).isEmpty

/-- The dispatcher's fetch point; a pending prefix belongs to the next instruction (R13, R16). -/
def State.fetchPoint (s : State) : Nat :=
  match s.ctx.seq.pfx with
  | some p => p.addr
  | none => s.ctx.seq.fetch

/-- An engine's EPC (R13); SEQ has no queue. -/
def State.epc (s : State) (e : Engine) : Nat :=
  if e = .seq then s.fetchPoint
  else match s.queue e with
    | it :: _ => it.addr
    | [] => s.fetchPoint

/-! ## Fetch point (R10, R128) -/

/-- Fetch advances past `n` words. The context has fetched a word, so the count of R35 starts again. -/
def State.advance (s : State) (n : Nat) : State :=
  { s with ctx.seq.fetch := s.ctx.seq.fetch + 4 * n, ctx.seq.adv := true, ctx.seq.xfer := false,
           ctx.seq.pfx := none, ctx.seq.join := none, ctx.stuck := 0 }

/-- A control transfer to an address. -/
def State.jump (s : State) (t : Nat) : State :=
  { s with ctx.seq.fetch := t, ctx.seq.adv := false, ctx.seq.xfer := true, ctx.seq.pfx := none, ctx.stuck := 0 }

/-- The entries on the link stack (LSTAT.LDEPTH). -/
def State.ldepth (s : State) : Nat := s.ctx.seq.links.length

/-! ## Ending a job, and traps (R17, R42, R43, R142 to R145) -/

/-- A launch with a change, if it is the one named. -/
def State.modLaunch (s : State) (n : Nat) (f : Launch → Launch) : State :=
  { s with units.launches := s.units.launches.map fun l => if l.n = n then f l else l }

/-- A page is asked for, once (R43, R475). -/
def State.askPage (s : State) (asid obj page : Nat) : State :=
  if s.units.pageReqs.any fun r => r.asid == asid && r.obj == obj && r.page == page then s
  else { s with units.pageReqs := s.units.pageReqs ++ [{ asid := asid, obj := obj, page := page }] }

/-- The page whose touch aborted a task is asked for (R43). -/
def State.askFor (s : State) (k : EndKind) : State :=
  match k with
  | .aborted a o p => s.askPage a o p
  | _ => s

/-- Tell the launch of the focus context how its job has ended (R365, R376). -/
def State.noteEnd (s : State) (k : EndKind) : State :=
  match s.ctx.job.launch with
  | some n => (s.modLaunch n fun l => l.noteEnd s.ctx.job.step s.ctx.job.node s.gts s.ctx.job.task k).askFor k
  | none => s

/-- The job of this package that a request belongs to. -/
def Owner.job : Owner → Option Nat
  | .ctx u _ | .attention u _ => some u
  | .evict _ | .remote .. => none

/-- An engine without the requests of a job that wait for an entry. -/
def HomeSt.withdraw (h : HomeSt) (uid : Nat) : HomeSt := { h with full := h.full.filter fun r => r.2.who.job != some uid }

/-- An object's holds and waiters without the requests of a job that wait, and without its attention holds (R248,
R337). -/
def SyncObj.withdraw (o : SyncObj) (uid : Nat) : SyncObj :=
  let mine := fun (h : ObjHold) => match h.who with
    | .attention u _ => u == uid
    | .ctx .. | .evict _ | .remote .. => false
  { holds := o.holds.filter fun h => !mine h
    waiters := o.waiters.filter fun h => h.who.job != some uid }

/-- The fields of a sync-object handle (R238, Table 5): package, die, index. -/
def handleKey (h : DWord) : Nat × Nat × Nat :=
  ((h.extractLsb' 42 10).toNat, (h.extractLsb' 32 2).toNat, (h.extractLsb' 0 20).toNat)

/-- Whether a table holds the object of a key. -/
def holdsKey (l : List TableHold) (k : Nat × Nat × Nat) : Bool := l.any fun h => handleKey h.handle == k

/-- The handle of an object (R238, Table 5). -/
def handleOf (k : Nat × Nat × Nat) : DWord := BitVec.ofNat 64 (2 ^ 42 * k.1 + 2 ^ 32 * k.2.1 + k.2.2)

/-- A REL of the focus context's job on the hold of a request has been issued and has not completed. -/
def State.releasing (s : State) (id : Nat) : Bool :=
  s.units.cmds.any fun c => c.uid == s.ctx.job.uid && !c.done && match c.body with
    | .rel _ i => i == id
    | _ => false

/-- Requests of a job that has ended are withdrawn (R248). -/
def State.withdraw (s : State) : State :=
  { s with units.objs := (s.units.objs.map fun o => (o.1, o.2.withdraw s.ctx.job.uid)).filter fun o => o.2 != {}
           units.homes := (s.units.homes.map fun h => (h.1, h.2.withdraw s.ctx.job.uid)).filter fun h => h.2 != {} }

/-- A command that belongs to no class: what a unit does for a job that has ended. -/
def State.freeCmd (s : State) (body : CmdBody) : Cmd :=
  { n := s.units.nextCmd, uid := s.ctx.job.uid, core := s.cur.core, asid := s.ctx.job.code.asid.toNat, cls := 4, num := 0,
    gts := s.gts, stamp := s.ctx.acc.nextLoad, body := body }

/-- Put a command into the package's list. -/
def State.addCmd (s : State) (c : Cmd) : State :=
  { s with units.cmds := s.units.cmds ++ [c], units.nextCmd := s.units.nextCmd + 1 }

/-- The holds of the focus context that no REL is to end: those of its table, and those granted and not yet taken. -/
def State.ownHolds (s : State) : List (DWord × Nat) :=
  s.units.objs.flatMap fun o => o.2.holds.filterMap fun h => match h.who with
    | .ctx u i => if u = s.ctx.job.uid ∧ !s.releasing i then some (handleOf o.1, i) else none
    | .attention .. | .evict _ | .remote .. => none

/-- Each hold of a job that is terminated or halted is released as a REL would release it, a grant that it has not taken
too (R241, R248). -/
def State.releaseHolds (s : State) : State :=
  s.ownHolds.foldl (fun s h => s.addCmd (s.freeCmd (.rel h.1 h.2))) s

/-- A queue's NOTIFY is cleared when its context's job ends (R405). -/
def EqSt.clearNotify (q : EqSt) (uid : Nat) : EqSt :=
  match q.notify with
  | some (u, _) => if u = uid then { q with notify := none } else q
  | none => q

/-- The domain group of a context: level and number (R46). -/
def Ctx.group (c : Ctx) : Nat × Nat :=
  ((c.seq.dmemb.extractLsb' 0 3).toNat, (c.seq.dmemb.extractLsb' 8 20).toNat)
def Ctx.rank (c : Ctx) : Nat := (c.seq.dmemb.extractLsb' 46 18).toNat
def Ctx.groupSize (c : Ctx) : Nat := (c.seq.dmemb.extractLsb' 28 18).toNat

/-- The focus context counts no longer as a member of its group, or does again (R50, R473). -/
def State.depart (s : State) : State :=
  let m := (s.ctx.group.1, s.ctx.group.2, s.ctx.rank)
  if s.ctx.groupSize ≤ 1 ∨ s.units.departed.contains m then s else { s with units.departed := s.units.departed ++ [m] }
def State.rejoin (s : State) : State :=
  { s with units.departed := s.units.departed.filter fun m => m != (s.ctx.group.1, s.ctx.group.2, s.ctx.rank) }

/-- A launch whose result nobody will join: its spawner's job is over (R389). -/
def Launch.orphaned (l : Launch) (uid : Nat) : Bool := l.spawner == some uid && l.result.isSome

/-- A job has link commands that have not completed. -/
def State.linking (s : State) (uid : Nat) : Bool := s.units.cmds.any fun c => c.uid == uid && c.body.link.isSome

/-- The slots of a context (R422). -/
def Ctx.linkSlots (c : Ctx) : List Registered :=
  c.units.slots.filterMap fun p => p.2.map fun l => { uid := c.job.uid, slot := p.1, ls := l }

/-- The slots of the focus context's job, which is over, are unregistered once its link commands have completed; what
their landing buffers held goes with them (R423). -/
def State.leaveLinks (s : State) : State :=
  let stays := s.linking s.ctx.job.uid
  { s with
    units.link.left := s.units.link.left.filter (fun r => s.linking r.uid) ++ if stays then s.ctx.linkSlots else []
    units.link.land := s.units.link.land.filter fun b => stays || b.uid != s.ctx.job.uid }

/-- What the units of the package do when the focus context's job is over, however it ended. -/
def State.leaveUnits (s : State) : State :=
  { s.leaveLinks with
    units.launches := s.units.launches.filter (fun l => !l.orphaned s.ctx.job.uid)
    units.egress := (s.units.egress.map (fun p => (p.1, p.2.clearNotify s.ctx.job.uid))).filter (fun p => p.2 != {}) }

/-- The writes of a block of an output stream that is still to be drained: offsets and bytes. -/
def StreamDesc.writes (d : StreamDesc) (dcur hcur k : Nat) (b : Block) : List (Bool × Nat × Bytes) :=
  let cut := fun (l : List (Nat × Nat)) (b : Bytes) => (l.foldl (fun (acc : List (Nat × Bytes) × Bytes) p =>
    (acc.1 ++ [(p.1, acc.2.take p.2)], acc.2.drop p.2)) ([], b)).1
  let hb := hdrBytes d.fmt
  (cut ((d.pieces k).map fun p => (addOff dcur p.1, p.2)) b.bytes).map (fun p => (false, p))
  ++ (if hb = 0 then [] else (cut ((List.range (d.present k / 32)).map fun j =>
      (addOff hcur (d.header dcur (k * (blockElems d.fmt / 32) + j)), hb)) b.hdrs).map fun p => (true, p))

/-- The writes of the blocks that a stream's buffer holds, each with its block's number, its capability and its bytes. -/
def Stream.pending (t : Stream) : List (Nat × Cap × Nat × Bytes) :=
  if !t.desc.out || t.desc.sp then []
  else t.buf.zipIdx.flatMap fun p =>
    (t.desc.writes t.dcur t.hcur (t.done - t.buf.length + p.2) p.1).map fun w =>
      (p.1.stamp, if w.1 then t.lhcap else t.ldcap, w.2)

/-- What the streams of a job that is over have written and not drained goes on by itself, as stores at the ports. -/
def State.flushStreams (s : State) : State :=
  let l := s.ctx.acc.s.flatMap fun p => p.2.pending
  { s with
    ports := s.ports ++ l.zipIdx.map fun w => { n := s.nextPort + w.2, uid := s.ctx.job.uid, stamp := w.1.1, cap := w.1.2.1,
                                                 off := w.1.2.2.1, data := w.1.2.2.2, gts := s.gts }
    nextPort := s.nextPort + l.length
    ctx.acc.s := s.ctx.acc.s.map fun p => (p.1, if p.2.desc.out then { p.2 with buf := [] } else p.2) }

/-- A job's course ends: its member is no longer awaited by its group, but for a task that will be started again (R43,
R50). -/
def State.departFor (s : State) (st : CtxStatus) : State := if st = .aborted then s else s.depart

/-- A bank of a die has become free (R418). -/
def State.noteFree (s : State) (die : Nat) : State :=
  { s with units.freed := s.units.freed.set 0 die (s.units.freed.get 0 die + 1) }

/-- The bank of a job that is over is free, but that of one that has halted (R151). -/
def State.bankLeft (s : State) (st : CtxStatus) (die : Nat) : State := if st = .halted then s else s.noteFree die

/-- A job that is over, or a task that is aborted: nothing of it is fetched or executed any more, what its commit buffer
holds is discarded, its holds are released, and its launch is told. -/
def State.endJob (s : State) (st : CtxStatus) (k : EndKind) : State :=
  let s := (((s.noteEnd k).withdraw.releaseHolds.departFor st).leaveUnits.flushStreams).bankLeft st s.cur.die
  { s with ctx.status := st, ctx.job.endGts := s.gts, ctx.iq := [], ctx.acc.commit := [], ctx.acc.loads := [],
           units.cmds := s.units.cmds.filter fun c => !(c.held && c.uid == s.ctx.job.uid)
           ctx.units.holds := [], ctx.units.asks := []
           ctx.seq.wait := .none, ctx.seq.pfx := none, ctx.seq.join := none, ctx.trapPending := none, ctx.frozen := false }

/-- Every pending landing has its data (R34), and none that is due is still to be written (R30). -/
def State.landingsSettled (s : State) : Bool := s.ctx.vec.slots.all fun l => l.settled && !l.written

/-- TCAUSE (Table 13 of chapter 4). -/
def tcauseOf (cause : Cause) (e : Engine) (noskip dbl : Bool) (len : Nat) : DWord :=
  BitVec.ofNat 64 (cause.code + 256 * e.code + (if noskip then 2048 else 0) + (if dbl then 8192 else 0)
    + 65536 * (if noskip then 0 else len))

/-- The six EPCs (R13, Table 15 of chapter 4). -/
def State.epcs (s : State) : Sparse DWord :=
  (Engine.seq :: engines).foldl (fun t e => t.set 0 e.code (BitVec.ofNat 64 (s.epc e))) []

/-- Discard what the dispatcher has begun to fetch and not steered (R16). -/
def State.unfetch (s : State) : State := { s with ctx.seq.fetch := s.fetchPoint, ctx.seq.pfx := none }

/-- Write the trap record (R142, Tables 13 to 15). -/
def State.recordTrap (s : State) (e : Engine) (addr len : Nat) (t : TrapInfo) : State :=
  { s with ctx.seq.trap :=
      { tcause := tcauseOf t.cause e t.noskip s.ctx.seq.intrap len
        tgts := BitVec.ofNat 64 (t.gts.getD s.gts)
        taddr := BitVec.ofNat 64 (t.taddr.getD addr)
        toff := BitVec.ofNat 64 t.toff
        tinfo := BitVec.ofNat 64 t.tinfo
        tcap := t.cap
        epc := s.epcs } }

/-- TVEC.OFF: the handler's address (Table 4 of chapter 4). -/
def State.vector (s : State) : Nat := (s.ctx.seq.tvec &&& 0x0000FFFFFFFFFFFC).toNat
/-- TVEC.EN. -/
def State.vectored (s : State) : Bool := s.ctx.seq.tvec.getLsbD 0

/-- What the dispatcher was waiting for, as a trap or a switch parks it: the waits of R138 and a CONTRACT are parked,
a WAIT starts afresh (R141), an END is fetched again (R38). -/
def DispWait.parked : DispWait → DispWait
  | .rdv n => .rdv n
  | .phase n => .phase n
  | .contract a p i => .contract a p i
  | _ => .none

/-- Park the trapped state (R143). -/
def State.park (s : State) : State :=
  { s with
    ctx.parked := some
      { iq := s.ctx.iq, landings := s.ctx.vec.slots, loops := s.ctx.seq.loops, links := s.ctx.seq.links,
        fetch := s.ctx.seq.fetch, adv := s.ctx.seq.adv, wait := s.ctx.seq.wait.parked, bits := s.ctx.seq.bits, hold := s.ctx.hold }
    ctx.iq := [], ctx.vec.slots := [], ctx.seq.loops := [], ctx.seq.links := [], ctx.seq.wait := .none,
    ctx.seq.join := none, ctx.seq.bits := [], ctx.hold := [], ctx.seq.meetBase := s.ctx.seq.nextMeet }

/-- Enter the handler (R142 step 4). -/
def State.enterHandler (s : State) : State :=
  let s := s.park
  { s with ctx.seq.psup := s.ctx.seq.sup, ctx.seq.sup := true, ctx.seq.intrap := true,
           ctx.seq.fetch := s.vector, ctx.seq.adv := false, ctx.seq.xfer := true, ctx.stuck := 0 }

/-- Take a trap once every landing has settled: R142 in its order. A task's PAGE_NONRESIDENT aborts it (R43), and
COMMIT_OVERFLOW terminates it (R42); neither writes a record. -/
def State.trapNow (s : State) (e : Engine) (addr len : Nat) (t : TrapInfo) : State :=
  let s := s.unfetch
  let s := { s with ctx.trapPending := none, ctx.frozen := false }
  if s.ctx.job.task ∧ t.cause = .pageNonresident then
    s.endJob .aborted (.aborted t.cap.asid.toNat t.cap.obj.toNat (t.toff / pageBytes))
  else if t.cause = .commitOverflow then s.endJob .terminated .overflow
  else
    let s := s.recordTrap e addr len t
    if s.ctx.seq.intrap ∨ !s.vectored then s.endJob .terminated (.trapped t.cause.code)
    else s.enterHandler

/-- TAKING A TRAP: the one operation that every trap goes through. The context stops; its record is written once every
pending landing has its data (R34, R142), until when the trap is pending. Uncorrectable sectors are reported to the host
beside it (R458). -/
def State.takeTrap (s : State) (e : Engine) (addr len : Nat) (t : TrapInfo) : State :=
  let s := s.noteBad t
  if s.landingsSettled then s.trapNow e addr len t
  else { s with ctx.trapPending := some ⟨e, addr, len, { t with gts := some s.gts }⟩ }

/-- The instruction at the head of an engine's queue goes, and with it what its hold buffer keeps (R145, R264). -/
def State.dropHead (s : State) (e : Engine) : State := (s.setQueue e (s.queue e).tail).clearHold e

/-- The wait that RFT restores; an expansion goes on only at its own address (R361). -/
def DispWait.resumed (w : DispWait) (same : Bool) : DispWait :=
  match w with
  | .contract a p i => if same then .contract a p i else .none
  | w => w

/-- RFT.skip (R145). A fault of SEQ with LEN 0 is that of a LOOPQ end check: the loop-back is not taken, and the loop
closes, after a QUEUE_PROTOCOL as after a DEADLOCK. After any other fault of SEQ fetch goes on behind the faulting words, of
an expansion that was under way nothing more is steered, and what it reaches it reaches by sequential fetch, so that the
end checks there are made (log 58). -/
def State.skipFaulting (s : State) : State :=
  let r := s.ctx.seq.trap
  let len := bitsOf r.tcause.toNat 19 16
  match Engine.ofCode (bitsOf r.tcause.toNat 10 8) with
  | some .seq =>
    if len = 0 then match s.ctx.seq.loops.find? fun l => l.depth == s.ctx.seq.links.length with
      | some l => if l.kind = .queued then { s with ctx.seq.loops := s.ctx.seq.loops.erase l } else s
      | none => s
    else { s with ctx.seq.fetch := s.ctx.seq.fetch + 4 * len, ctx.seq.adv := true, ctx.seq.bits := []
                  ctx.seq.wait := s.ctx.seq.wait.resumed false }
  | some e => s.dropHead e
  | none => s

/-- RETURN FROM A TRAP (R144, R145): restore the parked state, skip if asked, give the privilege back, resume. Where the
handler has given EPC_SEQ another value, the bits that a BRQ or JMPQ had popped are not another's (R126). -/
def State.returnFromTrap (s : State) (skip : Bool) : State :=
  let p := s.ctx.parked.getD {}
  let back := (s.ctx.seq.trap.epc.get 0 0).toNat
  let s1 : State := { s with
    ctx.iq := p.iq, ctx.vec.slots := p.landings, ctx.seq.loops := p.loops, ctx.seq.links := p.links,
    ctx.seq.wait := p.wait.resumed (decide (back = p.fetch)), ctx.seq.bits := if back = p.fetch then p.bits else [], ctx.hold := p.hold, ctx.parked := none,
    ctx.seq.meetBase := 0, ctx.seq.adv := p.adv && decide (back = p.fetch), ctx.seq.xfer := true,
    ctx.seq.pfx := none, ctx.stuck := 0, ctx.seq.fetch := back }
  let s2 := if skip ∧ !s.ctx.seq.trap.tcause.getLsbD 11 then s1.skipFaulting else s1
  { s2 with ctx.seq.sup := s.ctx.seq.psup, ctx.seq.intrap := false }

end Sys2Proof.Machine
end

