-- ==== Sys2Proof/Machine/Flags.lean ====
section
/-! DEFINITION. Conditions, and results narrowed to a range (R77, R129, R170, R173). The machine has no flag register:
conditions go to predicates, to x registers, to lane masks and to bq. -/
namespace Sys2Proof.Machine

/-- The SAT modes of a prefix (R65). -/
def satFinite : BitVec 2 := 1
def satWrap : BitVec 2 := 2

/-- `sat_int` (R77, R170): the exact integer modulo 2^n, or clamped to the range under saturate to finite. -/
def satInt (sat : BitVec 2) (n : Nat) (signed : Bool) (x : Int) : BitVec n :=
  if sat = satFinite then
    if signed then BitVec.ofInt n (max (-(2 ^ (n - 1) : Int)) (min x (2 ^ (n - 1) - 1)))
    else BitVec.ofInt n (max 0 (min x (2 ^ n - 1)))
  else BitVec.ofInt n x

/-- A 64-bit operand as an exact integer: signed, or unsigned. -/
def operandInt (signed : Bool) (v : DWord) : Int := if signed then v.toInt else v.toNat

/-- The condition codes of CMP and CMPB (R173): `none` for a value not listed. -/
def cmpCond (f : Nat) (a b : DWord) : Option Bool :=
  match f with
  | 0 => some (a == b)
  | 1 => some (a != b)
  | 2 => some (a.slt b)
  | 3 => some (b.sle a)
  | 4 => some (a.ult b)
  | 5 => some (b.ule a)
  | _ => none

/-- The result of PSET (R129, Table 8). -/
def psetCond (s : State) (f a b : Nat) : Bool :=
  match f with
  | 0 => false
  | 1 => true
  | 2 => s.lc a == 0
  | 3 => s.lc a != 0
  | 4 => (s.lc a).setWidth 32 == s.kreg b
  | 5 => (s.lc a).setWidth 32 != s.kreg b
  | 6 => (s.kreg a).slt (s.kreg b)
  | _ => s.kreg a == s.kreg b

/-- The result of PLOG (R129, Table 8). -/
def plogCond (s : State) (f a b : Nat) : Bool :=
  match f with
  | 0 => s.pred a && s.pred b
  | 1 => s.pred a || s.pred b
  | 2 => s.pred a != s.pred b
  | 3 => s.pred a && !s.pred b
  | _ => !s.pred a

/-- The predicate of a BR-form instruction: number c[19:17] in the sense c[16] (R64). -/
def brCond (s : State) (c : BitVec 4) : Bool := s.pred (c.toNat / 2) != c.getLsbD 0

/-- A prefix's predicate in its sense (R65). -/
def pfxCond (s : State) (p : PendingPfx) : Bool := s.pred p.pred.toNat != p.sense.getLsbD 0

end Sys2Proof.Machine
end

