-- ==== Sys2Proof/Machine/Mem.lean ====
section
/-! DEFINITION. Object tables and translation (R157 to R167), reads and writes of objects with the L1 (R91, R92), the
commit buffer (R40, R41), windows (R225) and the scratchpad (R183, R451). -/
namespace Sys2Proof.Machine

/-! ## Checks of a capability (R158, R159) -/

/-- The number of a right in a mask of rights. -/
def rightsOf (l : List Nat) : BitVec 8 := l.foldl (fun m b => m ||| (1#8 <<< b)) 0

/-- TYPE or ASID unusable for this job and instruction (R157, R158). -/
def State.capUnusable (s : State) (c : Cap) (types : List Nat) : Bool :=
  !types.contains c.type.toNat || c.asid != s.ctx.job.code.asid

/-- `cap_check` (R78, R158, R159): what an access of `len` bytes at signed offset `off` raises. -/
def State.capCheck (s : State) (c : Cap) (off : Int) (len : Nat) (types : List Nat) (rights : BitVec 8) :
    Option TrapInfo :=
  let o : Int := c.cursor.toNat + off
  let t := fun cause => ({ cause := cause, toff := o.toNat, tinfo := len, cap := c } : TrapInfo)
  if c = Cap.null ∧ 0 < len then some { cause := .capBounds, toff := 0, tinfo := len, cap := c }
  else if s.capUnusable c types then some (t .capType)
  else if c.rights &&& rights ≠ rights then some (t .capRights)
  else if o < c.lower.toNat ∨ o + len > c.upper.toNat then some (t .capBounds)
  else none

/-- The object offset that an access at signed offset `off` reaches. -/
def capOffset (c : Cap) (off : Int) : Nat := (c.cursor.toNat + off : Int).toNat

/-! ## Physical reads and writes -/

/-- A byte as the L1 of the focus core shows it (R91). -/
def State.l1Byte (s : State) (a : Nat) : Byte :=
  match Sparse.get [] (s.l1.get [] s.cur.core) (a / 128) with
  | [] => s.mem.get a
  | l => l.getD (a % 128) 0

def State.l1Read (s : State) (a : Nat) : Nat → Bytes
  | 0 => []
  | n + 1 => s.l1Byte a :: State.l1Read s (a + 1) n

/-- Lines of an L1 (128 KiB of 128-byte lines, R1, R7). -/
def l1Lines : Nat := 1024

/-- A read that the L1 serves reads the line that it misses, and allocates it while the L1 has room (log 11). -/
def State.l1Fill (s : State) (line : Nat) (uid : Nat := s.ctx.job.uid) : State :=
  let t := s.l1.get [] s.cur.core
  if Sparse.get [] t line = [] then
    let s1 := s.mscTouch (128 * line) 128 false uid
    if t.length < l1Lines then
      { s1 with l1 := s.l1.set [] s.cur.core (Sparse.set [] t line (s.mem.read (128 * line) 128)) }
    else s1
  else s

/-- Allocate every line that a range touches. -/
def State.l1Touch (s : State) (a n : Nat) : State :=
  (List.range ((a + n - 1) / 128 + 1 - a / 128)).foldl (fun s i => s.l1Fill (a / 128 + i)) s

/-- A write of the core updates the line of its own L1 if it is present (R91). -/
def l1Write (t : Sparse Bytes) (a : Nat) (b : Byte) : Sparse Bytes :=
  match Sparse.get [] t (a / 128) with
  | [] => t
  | l => Sparse.set [] t (a / 128) (List.set l (a % 128) b)

/-- Drop the line of the focus core's L1 that holds an address (R231). -/
def State.l1DropLine (s : State) (a : Nat) : State :=
  { s with l1 := s.l1.set [] s.cur.core (Sparse.erase (s.l1.get [] s.cur.core) (a / 128)) }
/-- Drop every line of a core's L1 (R92, R101). -/
def State.l1Drop (s : State) (core : Nat) : State := { s with l1 := s.l1.set [] core [] }

/-- A write by the focus core: memory, and its own L1. -/
def State.coreWrite (s : State) (a : Nat) (b : Bytes) : State :=
  let t := s.l1.get [] s.cur.core
  let t' := ((List.range b.length).zip b).foldl (fun t p => l1Write t (a + p.1) p.2) t
  let s1 := s.mscTouch a b.length true
  { s1 with mem := s1.mem.write a b, l1 := if t' = t then s.l1 else s.l1.set [] s.cur.core t' }

/-- A write by a synchronisation engine into what its SRAM holds (R230). -/
def State.homeWrite (s : State) (a : Nat) (b : Bytes) : State := { s with mem := s.mem.write a b }

/-- A write by any other agent never updates an L1 (R91). -/
def State.agentWrite (s : State) (a : Nat) (b : Bytes) (uid : Nat := 0) : State :=
  let s1 := s.mscTouch a b.length true uid
  { s1 with mem := s1.mem.write a b }

/-- An object-table walk for an offset (R164): the translation, or the cause that the walk finds. -/
def State.walk (s : State) (c : Cap) (o : Nat) : Except Cause Trans :=
  if s.walkBad c.asid.toNat c.obj.toNat (o / pageSize) then .error .eccUncorrectable
  else match s.objEntry c.asid.toNat c.obj.toNat with
  | none => .error .capType
  | some e =>
    if e.type ≠ c.type.toNat then .error .capType
    else if o ≥ e.length then .error .capBounds
    else .ok { obj := c.obj.toNat, page := o / pageSize, entry := s.mem8 (e.entryAddr (o / pageSize)), length := e.length }

/-- Where an offset of an object lies, by its translation (R164, R439). -/
inductive Place where
  | at (a : Nat)
  /-- The page is under migration: the access waits at the port. -/
  | moving
  | fails (c : Cause)
  deriving DecidableEq, Repr

def Trans.place (t : Trans) (o : Nat) : Place :=
  if o ≥ t.length then .fails .capBounds
  else match pageLoc t.entry with
    | 2 => .fails .pageNonresident
    | 3 => .moving
    | _ =>
      let a := pageFrame t.entry * pageSize + o % pageSize
      if decodes a then .at a else .fails .capBounds

/-- A range split at page boundaries (fuel: the number of pieces). -/
def splitPages : Nat → Nat → Nat → List (Nat × Nat)
  | 0, _, _ => []
  | f + 1, o, n =>
    if n = 0 then []
    else
      let k := min n (pageSize - o % pageSize)
      (o, k) :: splitPages f (o + k) (n - k)

/-- The pieces of a range. -/
def pagesOf (o n : Nat) : List (Nat × Nat) := splitPages (n / pageSize + 2) o n

/-- The translations that an access is sent with (R164, R167): those of its pages that are not under migration. -/
def State.sendTrans (s : State) (c : Cap) (o n : Nat) : List Trans :=
  (pagesOf o n).filterMap fun p => match s.walk c p.1 with
    | .ok t => if pageLoc t.entry < 2 then some t else none
    | .error _ => none

/-- Where an offset lies, by a walk of its own. -/
def State.locate (s : State) (c : Cap) (o : Nat) : Place :=
  match s.walk c o with
  | .error e => .fails e
  | .ok t => t.place o

/-- Where an offset lies for an access that was sent with translations. -/
def State.locateBy (s : State) (sent : List Trans) (c : Cap) (o : Nat) : Place :=
  match sent.find? fun t => t.obj == c.obj.toNat && t.page == o / pageSize with
  | some t => t.place o
  | none => s.locate c o


/-! ## Holders (R165, R166) -/

def State.holder (s : State) : HolderId → Holder
  | .stream n => (s.stream n).holder
  | .accessQueue n => s.ctx.acc.aq.get {} n
def State.setHolder (s : State) (i : HolderId) (h : Holder) : State :=
  match i with
  | .stream n => s.setStream n { s.stream n with holder := h }
  | .accessQueue n => { s with ctx.acc.aq := s.ctx.acc.aq.set {} n h }

/-- A translation is one of a page of an object. -/
def Trans.is (t : Trans) (obj page : Nat) : Bool := t.obj == obj && t.page == page

/-- The translation of a page of an object that a holder holds. -/
def Holder.find (h : Holder) (obj page : Nat) : Option Trans := (h.cur.toList ++ h.next.toList).find? (·.is obj page)

/-- A stream's pattern runs downward through memory (R166): its last row lies below its first, also where its strides are of
mixed direction (log 60). -/
def StreamDesc.downward (d : StreamDesc) : Bool :=
  decide ((d.cnt1 - 1 : Int) * d.str1 + (d.cnt2 - 1 : Int) * d.str2 + (d.cnt3 - 1 : Int) * d.str3 < 0)
def State.runsDown (s : State) : HolderId → Bool
  | .stream n => (s.stream n).desc.downward
  | .accessQueue _ => false

/-- The page that the holder asks for next, after it touched bytes `lo` to `hi` of a page (R166). -/
def Holder.nextWanted (h : Holder) (t : Trans) (lo hi : Nat) (down : Bool) : Option (Nat × Nat) :=
  let p := t.page
  if down then
    if p ≠ 0 ∧ lo - p * pageSize ≤ h.pgdist ∧ (h.find t.obj (p - 1)).isNone then some (t.obj, p - 1) else h.want
  else
    if (p + 1) * pageSize - 1 - hi ≤ h.pgdist ∧ (p + 1) * pageSize < t.length ∧ (h.find t.obj (p + 1)).isNone
    then some (t.obj, p + 1) else h.want

/-- The holder after an access to a page: a held next page is promoted, a page not held becomes current. -/
def Holder.touch (h : Holder) (t : Trans) (lo hi : Nat) (down : Bool) : Holder :=
  let h1 : Holder :=
    if h.cur = some t then h
    else if h.next = some t then { h with cur := some t, next := none }
    else { h with cur := some t }
  { h1 with want := h1.nextWanted t lo hi down }

/-- Translate one piece of an access through a holder (R164 to R166). The trap record names the capability, the
offset and the access's length. -/
def translate (i : HolderId) (c : Cap) (o n : Nat) : M Place := do
  let s ← get
  let down := s.runsDown i
  let h := s.holder i
  let key := (c.obj.toNat, o / pageSize)
  let t ← match h.find key.1 key.2 with
    | some t => pure t
    | none =>
      if s.late && !h.walked.contains key then do
        set (s.setHolder i { h with walk := some key })
        wait
      else match s.walk c o with
        | .ok t => pure t
        | .error e => raise { cause := e, toff := o, tinfo := n, cap := c }
  match t.place (o + n - 1) with
  | .fails e => raise { cause := e, toff := o, tinfo := n, cap := c }
  | .moving => set (s.setHolder i (h.touch t o (o + n - 1) down)); pure .moving
  | .at _ => set (s.setHolder i (h.touch t o (o + n - 1) down)); pure (t.place o)

/-- Translate a range, every piece of it. -/
def translateRange (i : HolderId) (c : Cap) (o n : Nat) : M (List (Place × Nat)) :=
  (pagesOf o n).mapM fun p => do
    let q ← translate i c p.1 p.2
    pure (q, p.2)

/-- Translate a range by walks of its own, as the units away from the core do. -/
def State.placeRange (s : State) (c : Cap) (o n : Nat) : List (Place × Nat) :=
  (pagesOf o n).map fun p =>
    match s.locate c (p.1 + p.2 - 1) with
    | .at _ => (s.locate c p.1, p.2)
    | q => (q, p.2)

/-! ## The commit buffer (R40, R41) -/

/-- The entries of a commit buffer (R40). -/
def commitDepth : Nat := 1024

/-- Whether an entry holds the sector of an object that starts at `off`. -/
def CommitEntry.holds (e : CommitEntry) (c : Cap) (off : Nat) : Bool :=
  match e with
  | .sector c' o _ _ => c'.asid == c.asid && c'.obj == c.obj && o == off
  | .deferred _ | .payload _ => false

/-- The bytes that a commit buffer holds of a sector. -/
def sectorData (l : List CommitEntry) (c : Cap) (off : Nat) : List (Option Byte) :=
  match l.find? (·.holds c off) with
  | some (.sector _ _ d _) => d
  | _ => []

/-- The bytes of a range that a commit buffer holds; the empty list where it holds none (R41). -/
def heldIn (l : List CommitEntry) (c : Cap) (o n : Nat) : List (Option Byte) :=
  if l = [] then []
  else (List.range n).map fun i => ((sectorData l c ((o + i) / 32 * 32))[(o + i) % 32]?).getD none

/-- The bytes of a range that the commit buffer of the focus context holds. -/
def State.heldOf (s : State) (c : Cap) (o n : Nat) : List (Option Byte) := heldIn s.ctx.acc.commit c o n

/-- Held bytes over those that have been read. -/
def mergeHeld (held : List (Option Byte)) (b : Bytes) : Bytes :=
  if held = [] then b else (held.zip b).map fun p => p.1.getD p.2

/-- Some byte of `n` from place `i` on is not held, and must be read. -/
def gapIn (held : List (Option Byte)) (i n : Nat) : Bool :=
  held == [] || (List.range n).any fun k => ((held[i + k]?).getD none).isNone

/-- Merge bytes into a sector. -/
def mergeSector (d : List (Option Byte)) (at' : Nat) (b : Bytes) : List (Option Byte) :=
  ((List.range b.length).zip b).foldl (fun d p => d.set (at' + p.1) (some p.2)) d

/-- The entry with bytes merged into it, if it holds the sector. -/
def CommitEntry.merge (e : CommitEntry) (c : Cap) (off at' : Nat) (b : Bytes) : CommitEntry :=
  match e with
  | .sector c' o d w => if e.holds c off then .sector c' o (mergeSector d at' b) w else e
  | .deferred n => .deferred n
  | .payload n => .payload n

/-- Hold a write of one sector: merge it into its entry, or take a new one (R40, R42). A write behind a window takes entries
for the sectors of the window object, not for those of the elements it scatters to (log 59). -/
def holdSector (c : Cap) (o : Nat) (b : Bytes) (window : Bool) : M Unit := do
  let s ← get
  let off := o / 32 * 32
  let l := s.ctx.acc.commit
  if l.any (·.holds c off) then
    set (s.modAcc fun a => { a with commit := l.map fun e => e.merge c off (o % 32) b })
  else if l.length ≥ commitDepth then raise { cause := .commitOverflow }
  else set (s.modAcc fun a => { a with
    commit := l ++ [.sector c off (mergeSector (List.replicate 32 none) (o % 32) b) window] })

/-- The pieces of a range within each 32-byte sector (fuel: the number of sectors). -/
def splitSectors : Nat → Nat → Bytes → List (Nat × Bytes)
  | 0, _, _ => []
  | f + 1, o, b =>
    if b = [] then []
    else
      let k := min b.length (32 - o % 32)
      (o, b.take k) :: splitSectors f (o + k) (b.drop k)

/-- Hold a write in the commit buffer (R40). -/
def holdWrite (c : Cap) (o : Nat) (b : Bytes) (window : Bool := false) : M Unit :=
  (splitSectors (b.length / 32 + 2) o b).forM fun p => holdSector c p.1 p.2 window

/-! ## Reads of physical pieces -/

/-- How an address of another package is reached (R432 to R437). -/
inductive Reach where
  | ok
  /-- Held by FQUIESCE.HOLD. -/
  | held
  /-- No route, or a port that is down. -/
  | broken
  deriving DecidableEq, Repr

/-- The way to a package: its ROUTE byte, and the port it names (R434, R437). -/
def State.reach (s : State) (pkg : Nat) : Reach :=
  if pkg = s.myPkg then .ok
  else
    let r := s.units.link.route.get 0 pkg
    if !r.getLsbD 7 ∨ !(s.units.link.ports.get {} (r.toNat % 16)).up then .broken
    else if s.units.link.hold then .held
    else .ok

/-- What a read answers. -/
inductive Got where
  | bytes (b : Bytes)
  /-- The answer comes later: a page under migration or a waking region. -/
  | later
  /-- A check of the memory port failed, precisely. -/
  | bad (t : TrapInfo)
  /-- The data fails as it arrives (R154): an uncorrectable sector, or a gated quarter. -/
  | dataBad (t : TrapInfo)
  deriving DecidableEq, Repr

/-- One piece at a physical address: gated or waking quarters (R451, R452) and uncorrectable sectors (R447). `o` is
the object offset of the piece; bytes that a commit buffer holds are not read (R41). -/
def State.readPhys (s : State) (c : Cap) (o a n : Nat) (held : List (Option Byte)) (viaL1 : Bool) : Got :=
  let data := fun (t : TrapInfo) => Got.dataBad { t with toff := o, tinfo := n, cap := c, noskip := true }
  if !gapIn held 0 n then .bytes (held.filterMap id)
  else if s.quarterGated a then data { cause := .powerState }
  else if s.memHeld a then .later
  else match s.reach (packageOf a), s.badGap a n held with
    | .broken, _ => .dataBad { cause := .linkError, toff := o, tinfo := packageOf a, cap := c, noskip := true }
    | .held, _ => .later
    | .ok, some e => .dataBad { cause := .eccUncorrectable, toff := o + e - a, tinfo := n, cap := c, noskip := true, bad := .sectors (s.badSectors a n held) }
    | .ok, none => .bytes (mergeHeld held (if viaL1 then s.l1Read a n else s.mem.read a n))

/-- Join the answers of the pieces of a range, in order. -/
def joinGot : List Got → Got
  | [] => .bytes []
  | .bytes b :: r => match joinGot r with
    | .bytes b' => .bytes (b ++ b')
    | g => g
  | g :: _ => g

/-- The part of the held bytes that a piece covers. -/
def heldPart (held : List (Option Byte)) (i n : Nat) : List (Option Byte) := (held.drop i).take n

/-- The pieces of a range, with the places found for them (fuel: the list itself). `i` is the place of the first piece
in the range. -/
def State.readFrom (s : State) (c : Cap) (o : Nat) (held : List (Option Byte)) (viaL1 : Bool) : Nat → List (Place × Nat) → List Got
  | _, [] => []
  | i, p :: r =>
    (match p.1 with
      | .at a => s.readPhys c (o + i) a p.2 (heldPart held i p.2) viaL1
      | .moving => if gapIn (heldPart held i p.2) 0 p.2 then .later else .bytes ((heldPart held i p.2).filterMap id)
      | .fails e => .bad { cause := e, toff := o + i, tinfo := p.2, cap := c }) :: s.readFrom c o held viaL1 (i + p.2) r

/-- The pieces of a range, with the places found for them, and the bytes of it that are held. -/
def State.readPlaces (s : State) (c : Cap) (o : Nat) (l : List (Place × Nat)) (held : List (Option Byte)) (viaL1 : Bool) : Got :=
  joinGot (s.readFrom c o held viaL1 0 l)

/-- Read a range of an object by a walk of its own. -/
def State.readDirect (s : State) (c : Cap) (o n : Nat) : Got := s.readPlaces c o (s.placeRange c o n) [] false

/-- Read a range as the focus context's accesses see it: with what its commit buffer holds (R41). -/
def State.readOwn (s : State) (c : Cap) (o n : Nat) : Got := s.readPlaces c o (s.placeRange c o n) (s.heldOf c o n) false

/-! ## Windows (R225) -/

/-- The binding of a window object. -/
def State.window (s : State) (c : Cap) : Option Window :=
  s.windows.find? fun w => w.asid == c.asid.toNat && w.obj == c.obj.toNat

/-- A capability of a window object. -/
def Cap.isWindow (c : Cap) : Bool := c.type.toNat == tyGwin || c.type.toNat == tySwin

/-- What an access comes to, part by part; or what keeps it from being made. -/
inductive Plan where
  | parts (l : List Part)
  | stop (g : Got)
  deriving DecidableEq, Repr

/-- One element of a window access: what an access at window offset `w` of `n` bytes covers of element `j`. -/
def State.planOne (s : State) (win : Window) (w n j : Nat) : Plan :=
  let size := 2 ^ win.esize
  match s.readOwn win.index (win.index.cursor.toNat + 4 * j) 4 with
  | .bytes ib =>
    let e := bytesToNat ib * size
    let o := win.elem.cursor.toNat + e
    if o < win.elem.lower.toNat ∨ o + size > win.elem.upper.toNat then
      .stop (.bad { cause := .capBounds, toff := e, tinfo := size, cap := win.elem })
    else
      let lo := max w (j * size) - j * size
      .parts [{ cap := win.elem, off := o, len := size, lo := lo, n := min (w + n) ((j + 1) * size) - j * size - lo }]
  | g => .stop g

/-- Join the plans of the elements, in order. -/
def joinPlan : List Plan → Plan
  | [] => .parts []
  | .parts l :: r => match joinPlan r with
    | .parts l' => .parts (l ++ l')
    | g => g
  | g :: _ => g

/-- The elements of a window that an access covers: the first, and how many. -/
def Window.elems (win : Window) (w n : Nat) : Nat × Nat :=
  let size := 2 ^ win.esize
  (w / size, (w + n - 1) / size + 1 - w / size)

/-- What an access of `n` bytes at offset `w` of an object comes to: a window capability's is expanded (R225), and one
with no binding raises CAP_TYPE. -/
def State.plan (s : State) (c : Cap) (w n : Nat) : Plan :=
  if !c.isWindow then .parts [{ cap := c, off := w, len := n, lo := 0, n := n }]
  else match s.objEntry c.asid.toNat c.obj.toNat with
  | none => .stop (.bad { cause := .capType, toff := w, tinfo := n, cap := c })
  | some e =>
    if e.type ≠ c.type.toNat then .stop (.bad { cause := .capType, toff := w, tinfo := n, cap := c })
    else if w + n > e.length then .stop (.bad { cause := .capBounds, toff := w, tinfo := n, cap := c })
    else match s.window c with
      | none => .stop (.bad { cause := .capType, toff := w, tinfo := n, cap := c })
      | some win => joinPlan ((List.range (win.elems w n).2).map fun i => s.planOne win w n ((win.elems w n).1 + i))

/-- The entries of its window's index that an access reads. -/
def State.indexRange (s : State) (c : Cap) (o n : Nat) : Option (Cap × Nat × Nat) :=
  if !c.isWindow then none
  else (s.window c).map fun win => (win.index, win.index.cursor.toNat + 4 * (win.elems o n).1, 4 * (win.elems o n).2)

/-- The ranges of objects that an access touches: its own, and behind a window the index entries and the elements. -/
def State.rangesOf (s : State) (c : Cap) (o n : Nat) : List (Cap × Nat × Nat) :=
  if !c.isWindow then [(c, o, n)]
  else (c, o, n) :: (s.indexRange c o n).toList ++ match s.plan c o n with
    | .parts l => l.map fun p => (p.cap, p.off, p.len)
    | .stop _ => []

/-- Two ranges have a byte in common. -/
def overlap (a b : Cap × Nat × Nat) : Bool :=
  a.1.asid == b.1.asid && a.1.obj == b.1.obj && decide (a.2.1 < b.2.1 + b.2.2) && decide (b.2.1 < a.2.1 + a.2.2)

/-! ## Watermarks (R109) -/

/-- The object of a capability, as a watermark names it. -/
def objOf (c : Cap) : MarkSpace := .obj c.asid.toNat c.obj.toNat

/-- A watermark holds the focus context back from a range. -/
def State.watermarked (s : State) (sp : MarkSpace) (o n : Nat) : Bool :=
  s.marks.any fun m => m.uid == s.ctx.job.uid && m.space == sp && decide (o < m.stop) && decide (o + n > m.low)
    && decide (0 < n)

/-- The stacked clock of the focus die is changing: its cores hold their requests for their scratchpads (R453). -/
def State.crossing (s : State) : Bool := s.dieHeld s.cur.die

/-- An access of the focus context to a range of an object must wait in its engine (R109); an access through a window, for
what it touches (R83). -/
def State.marked (s : State) (c : Cap) (o n : Nat) : Bool :=
  (s.rangesOf c o n).any fun r => s.watermarked (objOf r.1) r.2.1 r.2.2

/-! ## The order of a job's accesses (R89, R94) -/

/-- The bytes that a command's atomics address. -/
def CmdBody.atoms : CmdBody → List (Cap × Nat × Nat)
  | .atom c _ size _ _ _ => [(c, c.cursor.toNat, size)]
  | .atomQ c l => l.map fun p => (c, c.cursor.toNat + 4 * p.1, 4)
  | .mass c l => l.map fun p => (c, p.1, 4)
  | _ => []

/-- The context that a job has or had, resident or spilled. -/
def State.ctxOf (s : State) (uid : Nat) : Option Ctx :=
  if s.ctx.job.uid = uid then some s.ctx
  else match s.banks.find? fun p => p.2.job.uid == uid with
    | some p => some p.2
    | none => (s.units.spilled.find? fun r => r.ctx.job.uid == uid).map (·.ctx)

/-- A load reads some of a range and has not read it yet. -/
def State.loadMeets (s : State) (l : Load) (r : Cap × Nat × Nat) : Bool :=
  match l.src with
  | .mem c a k => (s.rangesOf c a k).any (overlap r)
  | .parts p => p.any fun x => overlap r (x.cap, x.off, x.len)
  | .remap c _ _ _ => overlap r (c, c.cursor.toNat, 2 ^ 48)
  | _ => false

/-- A context's streams have written some of a range before its number `stamp`, and not drained it. -/
def State.bufferMeets (s : State) (c : Ctx) (stamp : Nat) (r : Cap × Nat × Nat) : Bool :=
  c.acc.s.any fun t => t.2.pending.any fun w =>
    decide (w.1 < stamp) && (s.rangesOf w.2.1 w.2.2.1 w.2.2.2.length).any (overlap r)

/-- An access that a job issued before its number `stamp` is still to be performed on bytes of a range: a load, a write
at a port or in a stream's buffer, or an atomic. -/
def State.earlierAt (s : State) (uid stamp : Nat) (r : Cap × Nat × Nat) : Bool :=
  (s.ports.any fun p => p.uid == uid && decide (p.stamp < stamp) && (s.rangesOf p.cap p.off p.data.length).any (overlap r))
  || (s.units.cmds.any fun x => x.uid == uid && !x.held && !x.done && decide (x.stamp < stamp) && x.body.atoms.any (overlap r))
  || match s.ctxOf uid with
    | none => false
    | some c => (c.acc.loads.any fun l => decide (l.n < stamp) && s.loadMeets l r) || s.bufferMeets c stamp r

/-- An earlier access of a job to something that an access touches is still to be performed: the access follows it (R83,
R89, R94, R164, R231, R236). -/
def State.earlier (s : State) (uid stamp : Nat) (c : Cap) (o n : Nat) : Bool :=
  (s.rangesOf c o n).any (s.earlierAt uid stamp)

/-- An access that the focus context issues now follows one of those. -/
def State.follows (s : State) (c : Cap) (o n : Nat) : Bool := s.earlier s.ctx.job.uid s.ctx.acc.nextLoad c o n

/-- What such an access finds in a window's index follows one of those. -/
def State.indexFollows (s : State) (c : Cap) (o n : Nat) : Bool :=
  match s.indexRange c o n with
  | some r => s.earlierAt s.ctx.job.uid s.ctx.acc.nextLoad r
  | none => false

/-! ## Reads of objects -/

/-- Read the parts of an access by walks of their own; `held` are the bytes of the parts, in order, that a commit buffer
holds. -/
def State.readParts (s : State) (viaL1 : Bool) : List (Option Byte) → List Part → List Got
  | _, [] => []
  | held, p :: r =>
    (match s.readPlaces p.cap p.off (s.placeRange p.cap p.off p.len) (held.take p.len) viaL1 with
      | .bytes b => .bytes ((b.drop p.lo).take p.n)
      | g => g) :: s.readParts viaL1 (held.drop p.len) r

/-- The held bytes of the parts of an access. -/
def State.heldParts (s : State) (l : List Part) : List (Option Byte) := l.flatMap fun p => s.heldOf p.cap p.off p.len

/-- The lines of the places of a range that has been read, in the L1 and in the memory-side caches, for a context (R444). -/
def State.touchPlaces (s : State) (l : List (Place × Nat)) (viaL1 : Bool) (uid : Nat := s.ctx.job.uid) : State :=
  l.foldl (fun s p => match p.1 with
    | .at a => if viaL1 then s.l1Touch a p.2 else s.mscTouch a p.2 false uid
    | _ => s) s

/-- A range of an object that a unit has read by a walk of its own. -/
def State.touchRead (s : State) (c : Cap) (o n : Nat) (uid : Nat := s.ctx.job.uid) : State :=
  s.touchPlaces (s.placeRange c o n) false uid

/-- Read `n` bytes at offset `o` of an object through a holder. The checks fault; `later` says that the data comes
later, and so do the data faults (the load then fails as it returns, R154). -/
def readObj (i : HolderId) (c : Cap) (o n : Nat) (viaL1 : Bool) : M Got := do
  if c.type.toNat = tyGwin then
    let s ← get
    match s.plan c o n with
    | .stop (.bad t) => do await (!s.indexFollows c o n); raise t
    | .stop (.dataBad t) => do await (!s.indexFollows c o n); pure (.dataBad t)
    | .stop _ => wait
    | .parts l => do
      await (!s.indexFollows c o n)
      if s.follows c o n then pure .later
      else match joinGot (s.readParts false (s.heldParts l) l) with
        | .bytes b => do
          set (l.foldl (fun s p => s.touchRead p.cap p.off p.len) s)
          pure (.bytes b)
        | .bad t => raise t
        | g => pure g
  else
    let l ← translateRange i c o n
    let s ← get
    let g := if s.follows c o n then .later else s.readPlaces c o l (s.heldOf c o n) viaL1
    match g with
    | .bytes b =>
      set (s.touchPlaces l viaL1)
      pure (.bytes b)
    | .bad t => raise t
    | g => pure g

/-! ## Writes of objects -/

/-- The physical pieces of places, where none of them is under migration. -/
def sentPieces (l : List (Place × Nat)) : Option (List (Nat × Nat)) :=
  l.mapM fun p => match p.1 with
    | .at a => some (a, p.2)
    | _ => none

/-- The place in the commit buffer that a store of a task is made from (R44). -/
def Ctx.commitPlace (c : Ctx) : Option Nat := if c.job.task then some c.acc.commitAt else none

/-- A store that waits at the port: for a page under migration, for a region that wakes, behind an earlier access, or at
a quiesced link (R164, R236, R437, R452). -/
def State.portStore (s : State) (stamp : Nat) (c : Cap) (o : Nat) (p : Place) (b : Bytes) : State :=
  { s with ports := s.ports ++ [{ n := s.nextPort, uid := s.ctx.job.uid, stamp := stamp, cap := c, off := o, data := b, gts := s.gts,
                                  pos := s.ctx.commitPlace, sent := sentPieces [(p, b.length)] }]
           nextPort := s.nextPort + 1 }

/-- Record a failure in the error slot of a class of the focus context, which keeps the lowest number (R213). -/
def Ctx.recordErr (c : Ctx) (cls num : Nat) (t : TrapInfo) : Ctx :=
  match c.units.err.get none cls with
  | some e => if e.num ≤ num then c else { c with units.err := c.units.err.set none cls (some ⟨num, t⟩) }
  | none => { c with units.err := c.units.err.set none cls (some ⟨num, t⟩) }

/-- A failure of what a commit has issued ends the task as failed; the first in buffer order counts (R44). -/
def Ctx.failCommit (c : Ctx) (pos : Nat) (cause : Nat) : Ctx :=
  match c.acc.commitFail with
  | some f => if f.1 ≤ pos then c else { c with acc.commitFail := some (pos, cause) }
  | none => { c with acc.commitFail := some (pos, cause) }

/-- A store that is not made: a task's commit fails (R44); one on its way to another package goes to the tl2 slot (R437);
one to a gated quarter is reported later (Table 6 of chapter 16). -/
def Ctx.failStore (c : Ctx) (pos : Option Nat) (t : TrapInfo) : Ctx :=
  match pos with
  | some p => c.failCommit p t.cause.code
  | none => if t.cause = .linkError then c.recordErr 2 0 t else { c with acc.storeFail := c.acc.storeFail <|> some t }

/-- Write one piece at its place: a store to a gated quarter is not performed. -/
def State.writePlace (s : State) (stamp : Nat) (c : Cap) (o : Nat) (p : Place) (b : Bytes) : State :=
  match p with
  | .at a =>
    if s.quarterGated a then
      s.modCtx fun q => q.failStore q.commitPlace { cause := .powerState, toff := o, tinfo := b.length, cap := c }
    else if s.earlier s.ctx.job.uid stamp c o b.length ∨ s.memHeld a then s.portStore stamp c o p b
    else match s.reach (packageOf a) with
      | .ok => s.coreWrite a b
      | .held => s.portStore stamp c o p b
      | .broken => s.modCtx fun q => q.failStore q.commitPlace { cause := .linkError, toff := o, tinfo := packageOf a, cap := c }
  | _ => s.portStore stamp c o p b

/-- Write the pieces of a range, whose places have been found. -/
def State.writePlaces (s : State) (stamp : Nat) (c : Cap) (o : Nat) (l : List (Place × Nat)) (b : Bytes) : State :=
  (l.foldl (fun (acc : State × Nat × Bytes) p =>
    (acc.1.writePlace stamp c acc.2.1 p.1 (acc.2.2.take p.2), acc.2.1 + p.2, acc.2.2.drop p.2)) (s, o, b)).1

/-- A write to these places leaves the core: one of its pieces is performed, or waits. -/
def State.leaves (s : State) (l : List (Place × Nat)) : Bool :=
  l.any fun p => match p.1 with
    | .at a => !s.quarterGated a && s.reach (packageOf a) != .broken
    | _ => true

/-- The focus context takes the next number for a write, which counts until it is acknowledged (R39). -/
def State.countWrite (s : State) (leaves : Bool) : State :=
  let n := s.ctx.acc.nextLoad
  { s with acks := if leaves then s.acks ++ [{ uid := s.ctx.job.uid, stamp := n }] else s.acks
           ctx.acc.nextLoad := n + 1 }

/-- A plain store of bytes, its places found: the next number of the job, its pieces, and its count. -/
def State.storePlaces (s : State) (c : Cap) (o : Nat) (l : List (Place × Nat)) (b : Bytes) : State :=
  (s.writePlaces s.ctx.acc.nextLoad c o l b).countWrite (s.leaves l)

/-- The bytes of the parts of a write, each with its place. -/
def cutParts : Bytes → List Part → List (Cap × Nat × Bytes)
  | _, [] => []
  | b, p :: r => (p.cap, p.off + p.lo, b.take p.n) :: cutParts (b.drop p.n) r

/-- Write the parts of a scatter in order (R225), under one number. -/
def State.writeParts (s : State) (stamp : Nat) (l : List (Cap × Nat × Bytes)) : State :=
  l.foldl (fun s w => s.writePlaces stamp w.1 w.2.1 (s.placeRange w.1 w.2.1 w.2.2.length) w.2.2) s

/-- The first place of a list that fails. -/
def failOf (l : List (Place × Nat)) : Option Cause :=
  l.findSome? fun p => match p.1 with | .fails e => some e | _ => none

/-- The first part of a scatter whose element cannot be reached (R72, R164). -/
def State.scatterFail (s : State) (l : List Part) : Option TrapInfo :=
  l.findSome? fun p => (failOf (s.placeRange p.cap p.off p.len)).map fun e =>
    { cause := e, toff := p.off, tinfo := p.len, cap := p.cap }

/-- The parts of a write through a window whose checks have passed. -/
def scatterPlan (c : Cap) (o n : Nat) : M (List Part) := do
  let s ← get
  match s.plan c o n with
  | .stop (.bad t) => do await (!s.indexFollows c o n); raise t
  | .stop (.dataBad t) => do await (!s.indexFollows c o n); raise { t with noskip := false }
  | .stop _ => wait
  | .parts l => do
    await (!s.indexFollows c o n)
    check (s.scatterFail l)
    pure l

/-- A plain write of bytes at offset `o` of an object: held in a task's commit buffer (R40, R44), else translated,
performed, and counted in the write-acknowledge count (R39). A block of a stream has its number and its count already. -/
def writeObj (i : HolderId) (c : Cap) (o : Nat) (b : Bytes) (block : Option Nat := none) : M Unit := do
  let s ← get
  let finish := fun (s : State) (leaves : Bool) => if block.isSome then s else s.countWrite leaves
  let stamp := block.getD s.ctx.acc.nextLoad
  if s.ctx.job.task then holdWrite c o b (c.type.toNat == tySwin)
  else if c.type.toNat = tySwin then do
    let l ← scatterPlan c o b.length
    let w := cutParts b l
    modify fun s => finish (s.writeParts stamp w) (w.any fun x => s.leaves (s.placeRange x.1 x.2.1 x.2.2.length))
  else
    let l ← translateRange i c o b.length
    modify fun s => finish (s.writePlaces stamp c o l b) (s.leaves l)

/-- The stores of a job that are not acknowledged (R39). -/
def State.unacked (s : State) (uid : Nat) : Nat := (s.acks.filter fun w => w.uid == uid).length

/-- A write that counts is still to be made: it waits at a port, or in a stream's buffer. -/
def State.unmade (s : State) (w : Ack) : Bool :=
  (s.ports.any fun p => p.uid == w.uid && p.stamp == w.stamp)
  || match s.ctxOf w.uid with
    | none => false
    | some c => c.acc.s.any fun t => t.2.desc.out && !t.2.desc.sp && t.2.buf.any fun b => b.stamp == w.stamp

/-! ## The scratchpad (R84, R183) -/

def padSize : Nat := 0x180000
/-- The scratchpad banks that a range touches, of 0x3_0000 bytes each (R451). -/
def padBanks (o n : Nat) : List Nat := (List.range ((o + n - 1) / 0x30000 + 1 - o / 0x30000)).map (o / 0x30000 + ·)

/-- The checks of a scratchpad access (R183): bounds, then a gated bank. -/
def State.padCheck (s : State) (o : Int) (n : Nat) : Option TrapInfo :=
  if o < 0 ∨ o + n > padSize then some { cause := .capBounds, toff := o.toNat, tinfo := n }
  else if (padBanks o.toNat n).any fun j => s.ctx.padGated.getLsbD j then
    some { cause := .powerState, toff := o.toNat, tinfo := n }
  else none

/-- A scratchpad access must wait: a waking bank (R452), a change of the stacked clock (R453) or a watermark (R109). -/
def State.padWaits (s : State) (o n : Nat) : Bool :=
  ((padBanks o n).any fun j => s.ctx.padWaking.getLsbD j) || s.crossing || s.watermarked .pad o n

/-- An uncorrectable sector of the scratchpad. -/
def State.padBadIn (s : State) (o n : Nat) : Option Nat :=
  (List.range ((o + n + 31) / 32 - o / 32)).findSome? fun i =>
    if s.ctx.padBad.contains (o / 32 + i) then some (32 * (o / 32 + i)) else none

/-- Read the scratchpad (R183). -/
def readPad (o : Int) (n : Nat) : M Bytes := do
  let s ← get
  check (s.padCheck o n)
  await (!s.padWaits o.toNat n)
  match s.padBadIn o.toNat n with
  | some e => raise { cause := .eccUncorrectable, toff := e, tinfo := n, noskip := true, bad := .bank }
  | none => pure (s.ctx.pad.read o.toNat n)

/-- Write the scratchpad (R183). -/
def writePad (o : Int) (b : Bytes) : M Unit := do
  let s ← get
  check (s.padCheck o b.length)
  await (!s.padWaits o.toNat b.length)
  set { s with ctx.pad := s.ctx.pad.write o.toNat b }

end Sys2Proof.Machine
end

