-- ==== Sys2Proof/Decode.lean ====
section
/-! DEFINITION. Decoding of instruction words and, after it, the encoder (R58 to R71, R82). Decoding is structural:
it refuses, by name, exactly the words that Table 5 of R70 makes ILLEGAL whatever their operands are; the checks of
operand values are those of `WellFormed.lean`, made where the word is steered. -/
namespace Sys2Proof

/-- Why a word is no instruction. Each of these raises ILLEGAL (R70). -/
inductive DecodeError where
  /-- ENG is 6 or 7 (R15, R70). -/
  | reservedEngine
  /-- The OP is not assigned for the ENG (R82). -/
  | unassignedOp
  /-- A one-word opcode in a head, or a two-word opcode in a one-word instruction (R59). -/
  | wrongLength
  /-- A head whose next word is not a tail of its ENG (R60). -/
  | noTail
  /-- A tail that no head precedes (R60). -/
  | strayTail
  /-- A prefix word with a non-zero OP, RND 7 or SAT 3 (R65). -/
  | badPfx
  /-- A reserved field is not zero (R62). -/
  | reservedField
  /-- Fewer bytes than the instruction has. -/
  | truncated
  deriving DecidableEq, Repr

/-- What decoding answers: an instruction and its length in words, or the reason that there is none. -/
inductive Decoded where
  | instr (i : Instr) (words : Nat)
  | bad (e : DecodeError)
  deriving DecidableEq, Repr

/-- ENG [31:29] (R58). -/
def wordEng (w : Word) : Nat := (w.extractLsb' 29 3).toNat
/-- KIND [28:27] (R58). -/
def wordKind (w : Word) : Nat := (w.extractLsb' 27 2).toNat
/-- OP [26:20] (R58). -/
def wordOp (w : Word) : Nat := (w.extractLsb' 20 7).toNat
/-- The operand field [19:0] (R61). -/
def wordArg (w : Word) : BitVec 20 := w.extractLsb' 0 20
/-- The payload of a tail [26:0] (R60). -/
def wordPayload (w : Word) : BitVec 27 := w.extractLsb' 0 27

/-- Refuse a non-zero reserved field (R62). -/
def rz (ok : Bool) (i : Instr) (n : Nat := 1) : Decoded := if ok then .instr i n else .bad .reservedField

/-- The fields of form A3 (R61): d[19:15] a[14:10] b[9:5] f[4:0]. -/
def a3 {α : Type} (x : BitVec 20) (k : BitVec 5 → BitVec 5 → BitVec 5 → BitVec 5 → α) : α :=
  k (x.extractLsb' 15 5) (x.extractLsb' 10 5) (x.extractLsb' 5 5) (x.extractLsb' 0 5)

/-- The fields of form AI (R61): d[19:15] a[14:10] imm[9:0]. -/
def ai {α : Type} (x : BitVec 20) (k : BitVec 5 → BitVec 5 → BitVec 10 → α) : α :=
  k (x.extractLsb' 15 5) (x.extractLsb' 10 5) (x.extractLsb' 0 10)

/-- The fields of form BR (R61): c[19:16] w[15:0]. -/
def brf {α : Type} (x : BitVec 20) (k : BitVec 4 → BitVec 16 → α) : α :=
  k (x.extractLsb' 16 4) (x.extractLsb' 0 16)

/-- The fields of form MX (R61): acc[19:18] ring a[17:15] ring b[14:12] flags[11:0]. -/
def mx {α : Type} (x : BitVec 20) (k : BitVec 2 → BitVec 3 → BitVec 3 → BitVec 12 → α) : α :=
  k (x.extractLsb' 18 2) (x.extractLsb' 15 3) (x.extractLsb' 12 3) (x.extractLsb' 0 12)

/-- Bits [4], [3] and [2:0] of f (R168). -/
def fImm (f : BitVec 5) : BitVec 1 := f.extractLsb' 4 1
def fBit3 (f : BitVec 5) : BitVec 1 := f.extractLsb' 3 1
def fBit2 (f : BitVec 5) : BitVec 1 := f.extractLsb' 2 1
def fBit1 (f : BitVec 5) : BitVec 1 := f.extractLsb' 1 1
def fBit0 (f : BitVec 5) : BitVec 1 := f.extractLsb' 0 1
def fLow3 (f : BitVec 5) : BitVec 3 := f.extractLsb' 0 3
def fLow2 (f : BitVec 5) : BitVec 2 := f.extractLsb' 0 2
def fLow4 (f : BitVec 5) : BitVec 4 := f.extractLsb' 0 4

/-- SEQ one-word instructions (R82, Table 13). -/
def decSeq1 (op : Nat) (x : BitVec 20) : Decoded :=
  match op with
  | 0x00 => rz (x == 0) .nop
  | 0x01 => brf x fun c w => .instr (.br c w) 1
  | 0x02 => brf x fun c w => rz (c.extractLsb' 1 3 == 0) (.brq (c.extractLsb' 0 1) w)
  | 0x03 => brf x fun c w => .instr (.call c w) 1
  | 0x04 => rz (x == 0) .ret
  | 0x05 => brf x fun c w => rz (c.extractLsb' 3 1 == 0 && c.extractLsb' 0 1 == 0) (.jmpq (c.extractLsb' 1 2) w)
  | 0x06 => .bad .wrongLength
  | 0x07 => ai x fun d a imm => rz (a == 0) (.loopq d imm)
  | 0x08 => brf x fun c w => rz (w == 0) (.lbrk c)
  | 0x09 => a3 x fun d a b f => .instr (.pset d a b f) 1
  | 0x0A => a3 x fun d a b f => .instr (.plog d a b f) 1
  | 0x0B => a3 x fun d a b f => rz (a == 0 && b == 0) (.ppop ⟨d, f⟩)
  | 0x0C => ai x fun d a imm => .instr (.kld d a imm) 1
  | 0x0D => a3 x fun d a b f => rz (a == 0 && b == 0) (.snq d f)
  | 0x0E => rz (x.extractLsb' 6 14 == 0) (.rdv (x.extractLsb' 0 6))
  | 0x0F => rz (x.extractLsb' 6 14 == 0) (.phase (x.extractLsb' 0 6))
  | 0x10 => .bad .wrongLength
  | 0x11 => rz (x == 0) .yield
  | 0x12 => rz (x == 0) .jobEnd
  | 0x13 => ai x fun d a imm => rz (d == 0 && a == 0) (.trap imm)
  | 0x14 => rz (x.extractLsb' 1 19 == 0) (.rft (x.extractLsb' 0 1))
  | 0x15 => .instr (.csrr (x.extractLsb' 15 5) (x.extractLsb' 3 12) (x.extractLsb' 0 3)) 1
  | 0x16 => .instr (.csrw (x.extractLsb' 15 5) (x.extractLsb' 3 12) (x.extractLsb' 0 3)) 1
  | 0x17 => rz (x.extractLsb' 2 18 == 0) (.ctxsel (x.extractLsb' 0 2))
  | 0x18 => a3 x fun d a b f => rz (a == 0 && b == 0 && f == 0) (.tstamp d)
  | 0x19 => a3 x fun d a b f => .instr (.qcfg d a b f) 1
  | 0x1A => rz (x == 0) .halt
  | 0x20 => a3 x fun d a b f => rz (b == 0 && f == 0) (.spawn d a)
  | 0x21 => a3 x fun d a b f => rz (b == 0 && f.extractLsb' 1 4 == 0) (.tjoin d a (fBit0 f))
  | 0x22 => a3 x fun d a b f => rz (d == 0 && b == 0 && f.extractLsb' 2 3 == 0) (.ruinv a (fLow2 f))
  | 0x23 => a3 x fun d a b f => rz (b == 0 && fImm f == 0) (.rustat d a (fLow4 f))
  | 0x24 => a3 x fun d a b f => rz (b == 0 && f == 0) (.glaunch d a)
  | _ => .bad .unassignedOp

/-- SEQ two-word instructions (R130, R139). -/
def decSeq2 (op : Nat) (x : BitVec 20) (t : BitVec 27) : Decoded :=
  match op with
  | 0x06 => ai x fun d a imm => rz (a == 0) (.loop d imm t) 2
  | 0x10 => rz (x.extractLsb' 5 15 == 0 && t.extractLsb' 21 6 == 0)
      (.wait (x.extractLsb' 4 1) (x.extractLsb' 0 4) (t.extractLsb' 16 5) (t.extractLsb' 0 16)) 2
  | _ => .bad .unassignedOp

/-- ACC one-word instructions (R82, Table 14). -/
def decAcc1 (op : Nat) (x : BitVec 20) : Decoded :=
  match op with
  | 0x00 => a3 x fun d a b f => .instr (.add d a b f) 1
  | 0x01 => a3 x fun d a b f => .instr (.sub d a b f) 1
  | 0x02 => a3 x fun d a b f => .instr (.mul d a b f) 1
  | 0x03 => a3 x fun d a b f => .instr (.mulh d a b f) 1
  | 0x04 => a3 x fun d a b f => .instr (.and d a b f) 1
  | 0x05 => a3 x fun d a b f => .instr (.or d a b f) 1
  | 0x06 => a3 x fun d a b f => .instr (.xor d a b f) 1
  | 0x07 => a3 x fun d a b f => .instr (.shl d a b f) 1
  | 0x08 => a3 x fun d a b f => .instr (.shr d a b f) 1
  | 0x09 => a3 x fun d a b f => .instr (.sra d a b f) 1
  | 0x0A => a3 x fun d a b f => .instr (.min d a b f) 1
  | 0x0B => a3 x fun d a b f => .instr (.max d a b f) 1
  | 0x0C => ai x fun d a imm => .instr (.addi d a imm) 1
  | 0x0D => ai x fun d a imm => .instr (.andi d a imm) 1
  | 0x0E => ai x fun d a imm => .instr (.ori d a imm) 1
  | 0x0F => ai x fun d a imm => rz (imm.extractLsb' 6 4 == 0) (.shli d a (imm.extractLsb' 0 6))
  | 0x10 => ai x fun d a imm => rz (imm.extractLsb' 6 4 == 0) (.shri d a (imm.extractLsb' 0 6))
  | 0x11 => .bad .wrongLength
  | 0x12 => .bad .wrongLength
  | 0x13 => a3 x fun d a b f => .instr (.cmp d a b f) 1
  | 0x14 => a3 x fun d a b f => rz (d == 0) (.cmpb a b f)
  | 0x15 => a3 x fun d a b f => rz (b == 0 && f == 0) (.movq d a)
  | 0x16 => a3 x fun d a b f => rz (b == 0 && f == 0) (.popq d a)
  | 0x17 => a3 x fun d a b f => rz (f == 0) (.divu d a b)
  | 0x18 => a3 x fun d a b f => rz (f == 0) (.remu d a b)
  | 0x19 => a3 x fun d a b f => rz (b == 0) (.clz d a f)
  | 0x1A => a3 x fun d a b f => rz (b == 0) (.popc d a f)
  | 0x20 => a3 x fun d a b f => rz (b == 0 && f == 0) (.cmov d a)
  | 0x21 => a3 x fun d a b f => rz (f == 0) (.cnarrow d a b)
  | 0x22 => a3 x fun d a b f => rz (f == 0) (.crights d a b)
  | 0x23 => a3 x fun d a b f => .instr (.cadd d a b f) 1
  | 0x24 => a3 x fun d a b f => rz (b == 0) (.cget d a f)
  | 0x25 => a3 x fun d a b f => rz (fLow4 f == 0) (.cld d a b (fImm f))
  | 0x26 => a3 x fun d a b f => rz (fLow4 f == 0) (.cst d a b (fImm f))
  | 0x28 => a3 x fun d a b f => rz (fBit2 f == 0) (.ld d a b (fImm f) (fBit3 f) (fLow2 f))
  | 0x29 => a3 x fun d a b f => rz (f.extractLsb' 2 2 == 0) (.st d a b (fImm f) (fLow2 f))
  | 0x2A => a3 x fun d a b f => rz (fBit2 f == 0) (.lds d a b (fImm f) (fBit3 f) (fLow2 f))
  | 0x2B => a3 x fun d a b f => rz (f.extractLsb' 2 2 == 0) (.sts d a b (fImm f) (fLow2 f))
  | 0x2C => a3 x fun d a b f => .instr (.ldq d a b (fImm f) (fBit3 f) (fLow3 f)) 1
  | 0x2D => a3 x fun d a b f => .instr (.stq d a b (fImm f) (fBit3 f) (fLow3 f)) 1
  | 0x2E => a3 x fun d a b f => rz (d == 0 && f.extractLsb' 2 2 == 0) (.prf a b (fImm f) (fLow2 f))
  | 0x2F => a3 x fun d a b f => rz (d == 0 && a == 0 && b == 0 && f.extractLsb' 3 2 == 0) (.fence (fLow3 f))
  | 0x30 => a3 x fun d a b f => rz (b == 0) (.sbind d a f)
  | 0x31 => a3 x fun d a b f => rz (fLow3 f == 0) (.sset d a b (fImm f) (fBit3 f))
  | 0x32 => a3 x fun d a b f => rz (b == 0 && f == 0) (.sring d a)
  | 0x33 => a3 x fun d a b f => rz (a == 0 && b == 0 && f == 0) (.sstop d)
  | 0x34 => a3 x fun d a b f => rz (b == 0) (.sstat d a f)
  | 0x35 => a3 x fun d a b f => rz (b == 0 && f == 0) (.sout d a)
  | 0x36 => a3 x fun d a b f => rz (b == 0 && f.extractLsb' 1 4 == 0) (.pgdist d a (fBit0 f))
  | 0x40 => a3 x fun d a b f => rz (f.extractLsb' 2 3 == 0) (.cpy d a b (fBit1 f) (fBit0 f))
  | 0x41 => a3 x fun d a b f => rz (f.extractLsb' 2 3 == 0) (.cpy2 d a b (fBit1 f) (fBit0 f))
  | 0x42 => a3 x fun d a b f => rz (f.extractLsb' 2 3 == 0) (.cpyl2 d a b (fBit1 f) (fBit0 f))
  | 0x43 => a3 x fun d a b f => rz (f == 0) (.chain d a b)
  | 0x44 => a3 x fun d a b f => rz (f.extractLsb' 1 4 == 0) (.mcast d a b (fBit0 f))
  | 0x45 => a3 x fun d a b f => rz (fImm f == 0) (.gwin d a b (fLow4 f))
  | 0x46 => a3 x fun d a b f => rz (f == 0) (.scrub d a b)
  | 0x47 => rz (x == 0) .wmark
  | 0x48 => a3 x fun d a b f => rz (d == 0 && b == 0 && f.extractLsb' 1 4 == 0) (.swarm a (fBit0 f))
  | 0x49 => a3 x fun d a b f => rz (d == 0 && f == 0) (.migr a b)
  | 0x50 => a3 x fun d a b f => .instr (.atom d a b (fImm f) (fBit3 f) (fLow3 f)) 1
  | 0x51 => a3 x fun d a b f =>
      if fBit3 f == 0 then rz (fLow3 f == 0) (.atomf d a b (fImm f))
      else rz (d == 0 && fImm f == 0 && fLow3 f == 0) (.atomfQ a b)
  | 0x52 => a3 x fun d a b f => rz (fImm f == 0) (.bind d a b (fBit3 f) (fLow3 f))
  | 0x53 => a3 x fun d a b f => rz (d == 0 && b == 0 && f.extractLsb' 1 4 == 0) (.acq a (fBit0 f))
  | 0x54 => a3 x fun d a b f => rz (d == 0 && b == 0 && f == 0) (.rel a)
  | 0x55 => a3 x fun d a b f => rz (b == 0 && f.extractLsb' 1 4 == 0) (.tryacq d a (fBit0 f))
  | 0x56 => a3 x fun d a b f => rz (a == 0 && b == 0 && f.extractLsb' 3 2 == 0) (.tlget d (fBit2 f) (fLow2 f))
  | 0x57 => a3 x fun d a b f => rz (f.extractLsb' 3 2 == 0) (.tlarm d a b (fLow3 f))
  | 0x60 => a3 x fun d a b f => rz (f.extractLsb' 1 4 == 0) (.lsend d a b (fBit0 f))
  | 0x61 => a3 x fun d a b f => rz (f.extractLsb' 1 4 == 0) (.lrecv d a b (fBit0 f))
  | 0x62 => a3 x fun d a b f => rz (f == 0) (.lradd d a b)
  | 0x63 => a3 x fun d a b f => rz (f.extractLsb' 1 4 == 0) (.lslot d a b (fBit0 f))
  | 0x68 => a3 x fun d a b f => rz (f.extractLsb' 1 4 == 0) (.evict d a b (fBit0 f))
  | 0x69 => a3 x fun d a b f => rz (f.extractLsb' 1 4 == 0) (.rmap d a b (fBit0 f))
  | 0x6A => a3 x fun d a b f => rz (f.extractLsb' 1 4 == 0) (.eqpost d a b (fBit0 f))
  | 0x6B => a3 x fun d a b f => rz (f == 0) (.eqpeek d a b)
  | 0x6C => a3 x fun d a b f => rz (d == 0 && f == 0) (.eqrel a b)
  | 0x6D => a3 x fun d a b f => rz (d == 0 && f == 0) (.eqcut a b)
  | 0x70 => a3 x fun d a b f => rz (d == 0 && f == 0) (.spill a b)
  | 0x71 => a3 x fun d a b f => rz (d == 0 && f == 0) (.fill a b)
  | _ => .bad .unassignedOp

/-- ACC two-word instructions (R172). -/
def decAcc2 (op : Nat) (x : BitVec 20) (t : BitVec 27) : Decoded :=
  match op with
  | 0x11 => ai x fun d a imm => rz (a == 0) (.li d imm t) 2
  | 0x12 => ai x fun d a imm => rz (a == 0 && imm == 0) (.lih d t) 2
  | _ => .bad .unassignedOp

/-- The fields of a VB head and tail (R61). -/
def vbOf (x : BitVec 20) (t : BitVec 27) : VB :=
  { d := x.extractLsb' 14 6, a := x.extractLsb' 8 6, b := x.extractLsb' 2 6,
    h := t.extractLsb' 24 3, w := t.extractLsb' 21 3, ka := t.extractLsb' 19 2, kb := t.extractLsb' 17 2,
    kd := t.extractLsb' 15 2, c := t.extractLsb' 9 6, kc := t.extractLsb' 7 2, m := t.extractLsb' 4 3,
    fn := t.extractLsb' 0 4 }

/-- The fields of LOP3 (R294). -/
def lop3Of (x : BitVec 20) (t : BitVec 27) : Lop3 :=
  { d := x.extractLsb' 14 6, a := x.extractLsb' 8 6, b := x.extractLsb' 2 6,
    h := t.extractLsb' 24 3, w := t.extractLsb' 21 3, ka := t.extractLsb' 19 2, kb := t.extractLsb' 17 2,
    kd := t.extractLsb' 15 2, c := t.extractLsb' 9 6, tt := t.extractLsb' 0 8 }

/-- The fields of LDT (R303). -/
def ldtOf (x : BitVec 20) (t : BitVec 27) : Ldt :=
  { d := x.extractLsb' 14 6, a := x.extractLsb' 8 6, b := x.extractLsb' 2 6,
    h := t.extractLsb' 24 3, w := t.extractLsb' 21 3, ka := t.extractLsb' 19 2, kb := t.extractLsb' 17 2,
    kd := t.extractLsb' 15 2, dly := t.extractLsb' 7 8, m := t.extractLsb' 4 3, fn := t.extractLsb' 0 4 }

/-- VEC instructions, all of two words (R82, Table 15; R287). -/
def decVec2 (op : Nat) (x : BitVec 20) (t : BitVec 27) : Decoded :=
  let z := x.extractLsb' 0 2 == 0
  let o := vbOf x t
  match op with
  | 0x00 => rz z (.fadd o) 2
  | 0x01 => rz z (.fsub o) 2
  | 0x02 => rz z (.fmul o) 2
  | 0x03 => rz z (.ffma o) 2
  | 0x04 => rz z (.fmin o) 2
  | 0x05 => rz z (.fmax o) 2
  | 0x06 => rz z (.fabs o) 2
  | 0x07 => rz z (.fneg o) 2
  | 0x08 => rz z (.frcp o) 2
  | 0x09 => rz z (.frsq o) 2
  | 0x0A => rz z (.fexp2 o) 2
  | 0x0B => rz z (.flog2 o) 2
  | 0x0C => rz z (.ftanh o) 2
  | 0x0D => rz z (.fcmp o) 2
  | 0x10 => rz z (.iadd o) 2
  | 0x11 => rz z (.isub o) 2
  | 0x12 => rz z (.imul o) 2
  | 0x13 => rz z (.imad o) 2
  | 0x14 => rz z (.imin o) 2
  | 0x15 => rz z (.imax o) 2
  | 0x16 => rz z (.vecAnd o) 2
  | 0x17 => rz z (.vecOr o) 2
  | 0x18 => rz z (.vecXor o) 2
  | 0x19 => rz (z && t.extractLsb' 8 1 == 0) (.lop3 (lop3Of x t)) 2
  | 0x1A => rz z (.vecShl o) 2
  | 0x1B => rz z (.vecShr o) 2
  | 0x1C => rz z (.vecSra o) 2
  | 0x1D => rz z (.fshl o) 2
  | 0x1E => rz z (.fshr o) 2
  | 0x1F => rz z (.vecPopc o) 2
  | 0x20 => rz z (.vecClz o) 2
  | 0x21 => rz z (.icmp o) 2
  | 0x28 => rz z (.mov o) 2
  | 0x29 => rz z (.sel o) 2
  | 0x2A => rz z (.bcst o) 2
  | 0x2B => rz z (.perm o) 2
  | 0x2C => rz z (.rot o) 2
  | 0x2D => rz z (.cvt o) 2
  | 0x30 => rz z (.rsum o) 2
  | 0x31 => rz z (.rmax o) 2
  | 0x32 => rz z (.rmin o) 2
  | 0x33 => rz z (.scan o) 2
  | 0x38 => rz z (.vcmpb o) 2
  | 0x39 => rz z (.ldt (ldtOf x t)) 2
  | 0x3A => rz z (.mset o) 2
  | _ => .bad .unassignedOp

/-- MAT one-word instructions (R82, Table 16). -/
def decMat1 (op : Nat) (x : BitVec 20) : Decoded :=
  match op with
  | 0x02 => mx x fun c a b f => rz (a == 0 && b == 0 && f == 0) (.mzero c)
  | 0x03 => mx x fun c a b f => rz (f.extractLsb' 3 9 == 0)
      (.mma c a b (f.extractLsb' 2 1) (f.extractLsb' 1 1) (f.extractLsb' 0 1))
  | 0x04 => mx x fun c a b f => rz (f.extractLsb' 3 9 == 0)
      (.mmat c a b (f.extractLsb' 2 1) (f.extractLsb' 1 1) (f.extractLsb' 0 1))
  | 0x05 => mx x fun c a b f => rz (a == 0 && b == 0 && f.extractLsb' 5 7 == 0)
      (.mscl c (f.extractLsb' 4 1) (f.extractLsb' 0 4))
  | 0x06 => mx x fun c a b f => rz (a == 0 && b == 0 && f.extractLsb' 8 4 == 0)
      (.mdrain c (f.extractLsb' 7 1) (f.extractLsb' 5 2) (f.extractLsb' 0 5))
  | 0x07 => mx x fun c a b f => rz (b == 0 && f.extractLsb' 1 11 == 0) (.madd c a (f.extractLsb' 0 1))
  | 0x08 => mx x fun c a b f => rz (c == 0 && b == 0 && f.extractLsb' 5 7 == 0) (.rskip a (f.extractLsb' 0 5))
  | 0x0C => mx x fun c a b f => rz (c == 0 && a == 0 && b == 0 && f.extractLsb' 6 6 == 0)
      (.mstat (f.extractLsb' 5 1) (f.extractLsb' 0 5))
  | 0x0D => mx x fun c a b f => rz (b == 0 && f.extractLsb' 7 5 == 0)
      (.rowst c a (f.extractLsb' 6 1) (f.extractLsb' 5 1) (f.extractLsb' 0 5))
  | 0x00 | 0x01 | 0x09 | 0x0A | 0x0B => .bad .wrongLength
  | _ => .bad .unassignedOp

/-- MAT two-word instructions (R310, R313, R332 to R334). -/
def decMat2 (op : Nat) (x : BitVec 20) (t : BitVec 27) : Decoded :=
  match op with
  | 0x00 => mx x fun c a b f => rz (a == 0 && b == 0 && f.extractLsb' 9 3 == 0 && t.extractLsb' 0 2 == 0)
      (.shape c (f.extractLsb' 8 1) (f.extractLsb' 4 4) (f.extractLsb' 0 4) (t.extractLsb' 20 7) (t.extractLsb' 13 7)
        (t.extractLsb' 10 3) (t.extractLsb' 6 4) (t.extractLsb' 2 4)) 2
  | 0x01 => mx x fun c a b f => rz (c == 0 && b == 0 && f.extractLsb' 5 7 == 0 && t.extractLsb' 0 1 == 0)
      (.ringdef a (f.extractLsb' 4 1) (f.extractLsb' 0 4) (t.extractLsb' 17 10) (t.extractLsb' 12 5)
        (t.extractLsb' 4 8) (t.extractLsb' 1 3)) 2
  | 0x09 => mx x fun c a b f => rz (f.extractLsb' 3 9 == 0 && t.extractLsb' 0 19 == 0)
      (.atts c a b (f.extractLsb' 2 1) (f.extractLsb' 1 1) (f.extractLsb' 0 1) (t.extractLsb' 23 4) (t.extractLsb' 19 4)) 2
  | 0x0A => mx x fun c a b f => rz (a == 0 && f.extractLsb' 2 10 == 0 && f.extractLsb' 0 1 == 0
        && t.extractLsb' 0 19 == 0 && t.extractLsb' 23 4 == 0)
      (.attv c b (f.extractLsb' 1 1) (t.extractLsb' 19 4)) 2
  | 0x0B => mx x fun c a b f => rz (f.extractLsb' 2 10 == 0 && t.extractLsb' 0 19 == 0)
      (.attm c a b (f.extractLsb' 1 1) (f.extractLsb' 0 1) (t.extractLsb' 23 4) (t.extractLsb' 19 4)) 2
  | _ => .bad .unassignedOp

/-- IDX instructions, all of one word (R82, Table 17; R342). -/
def decIdx1 (op : Nat) (x : BitVec 20) : Decoded :=
  match op with
  | 0x00 => a3 x fun d a b f => rz (fImm b == 0) (.sigcfg (fImm d) (fLow4 d) a (fLow4 b) f)
  | 0x01 => a3 x fun d a b f => rz (d == 0 && b == 0) (.sigh a f)
  | 0x02 => rz (x == 0) .bkt
  | 0x03 => a3 x fun d a b f => rz (d == 0 && b == 0 && f.extractLsb' 2 3 == 0) (.repsel a (fLow2 f))
  | 0x04 => a3 x fun d a b f => rz (a == 0 && b == 0 && f == 0) (.repgat d)
  | 0x05 => a3 x fun d a b f => rz (b == 0) (.repscat d a (fImm f) (fLow4 f))
  | 0x06 => a3 x fun d a b f => rz (b == 0 && f.extractLsb' 2 3 == 0) (.memb d a (fLow2 f))
  | 0x07 => a3 x fun d a b f => rz (b == 0) (.memba d a (fImm f) (fLow4 f))
  | 0x08 => a3 x fun d a b f => rz (f == 0) (.bmand d a b)
  | 0x09 => a3 x fun d a b f => rz (f == 0) (.bmor d a b)
  | 0x0A => a3 x fun d a b f => rz (b == 0 && f == 0) (.bmpfx d a)
  | 0x0B => a3 x fun d a b f => rz (f == 0) (.isect d a b)
  | 0x0C => a3 x fun d a b f => rz (f == 0) (.union d a b)
  | 0x0D => a3 x fun d a b f => rz (f.extractLsb' 2 3 == 0) (.spdot d a b (fLow2 f))
  | 0x0E => a3 x fun d a b f => rz (d == 0 && b == 0 && f == 0) (.contract a)
  | 0x0F => a3 x fun d a b f => rz (b == 0 && f == 0) (.ixld d a)
  | 0x10 => a3 x fun d a b f => rz (b == 0 && f == 0) (.ixst d a)
  | 0x11 => a3 x fun d a b f => rz (b == 0 && f.extractLsb' 2 3 == 0) (.ixmov d a (fLow2 f))
  | 0x12 => a3 x fun d a b f => rz (b == 0 && f.extractLsb' 2 3 == 0) (.ixcnt d a (fLow2 f))
  | _ => .bad .unassignedOp

/-- QNT one-word instructions (R82, Table 18). -/
def decQnt1 (op : Nat) (x : BitVec 20) : Decoded :=
  match op with
  | 0x00 => a3 x fun d a b f => rz (b == 0 && f.extractLsb' 1 4 == 0) (.had d a (fBit0 f))
  | 0x03 => rz (x.extractLsb' 14 6 == 0 && x.extractLsb' 0 5 == 0) (.qsel (x.extractLsb' 13 1) (x.extractLsb' 5 8))
  | 0x04 => a3 x fun d a b f => rz (a == 0 && f == 0) (.ctbl d b)
  | 0x06 => a3 x fun d a b f => rz (b == 0 && f.extractLsb' 3 2 == 0) (.cvtx d a (fBit2 f) (fLow2 f))
  | 0x07 => a3 x fun d a b f => rz (f.extractLsb' 3 2 == 0) (.cvtn d a b (fLow3 f))
  | 0x08 => a3 x fun d a b f => rz (b == 0 && f.extractLsb' 1 4 == 0) (.qhdr d a (fBit0 f))
  | 0x09 => a3 x fun d a b f => rz (f.extractLsb' 2 3 == 0) (.qerr d a b (fLow2 f))
  | 0x0A => a3 x fun d a b f => rz (a == 0 && b == 0 && f.extractLsb' 1 4 == 0) (.qstat d (fBit0 f))
  | 0x0B => a3 x fun d a b f => rz (b == 0 && f.extractLsb' 1 4 == 0) (.hadw d a (fBit0 f))
  | 0x01 | 0x02 | 0x05 => .bad .wrongLength
  | _ => .bad .unassignedOp

/-- QNT two-word instructions (R267, R274). -/
def decQnt2 (op : Nat) (x : BitVec 20) (t : BitVec 27) : Decoded :=
  match op with
  | 0x01 => a3 x fun d a b f => rz (f == 0 && t.extractLsb' 0 16 == 0)
      (.qst d a b (t.extractLsb' 20 7) (t.extractLsb' 18 2) (t.extractLsb' 16 2)) 2
  | 0x02 => a3 x fun d a b f => rz (f == 0 && t.extractLsb' 0 13 == 0)
      (.qstm d a b (t.extractLsb' 20 7) (t.extractLsb' 18 2) (t.extractLsb' 16 2) (t.extractLsb' 13 3)) 2
  | 0x05 => a3 x fun d a b f => rz (f == 0 && t.extractLsb' 0 18 == 0) (.deq d a b (t.extractLsb' 20 7) (t.extractLsb' 18 2)) 2
  | _ => .bad .unassignedOp

/-- A one-word instruction (KIND 0b00) of an engine. -/
def decOne (eng op : Nat) (x : BitVec 20) : Decoded :=
  match eng with
  | 0 => decSeq1 op x
  | 1 => decAcc1 op x
  | 2 => match decVec2 op 0 0 with
    | .bad .unassignedOp => .bad .unassignedOp
    | _ => .bad .wrongLength
  | 3 => decMat1 op x
  | 4 => decIdx1 op x
  | 5 => decQnt1 op x
  | _ => .bad .reservedEngine

/-- A two-word instruction (KIND 0b01) of an engine. -/
def decTwo (eng op : Nat) (x : BitVec 20) (t : BitVec 27) : Decoded :=
  match eng with
  | 0 => decSeq2 op x t
  | 1 => decAcc2 op x t
  | 2 => decVec2 op x t
  | 3 => decMat2 op x t
  | 4 => .bad .unassignedOp
  | 5 => decQnt2 op x t
  | _ => .bad .reservedEngine

/-- Whether an opcode is one of the two-word opcodes of its engine (R59). -/
def isTwoWord (eng op : Nat) : Bool :=
  match eng with
  | 0 => op == 0x06 || op == 0x10
  | 1 => op == 0x11 || op == 0x12
  | 2 => decVec2 op 0 0 != .bad .unassignedOp
  | 3 => op == 0x00 || op == 0x01 || op == 0x09 || op == 0x0A || op == 0x0B
  | 5 => op == 0x01 || op == 0x02 || op == 0x05
  | _ => false

/-- A prefix word (R65). -/
def decPfx (eng op : Nat) (x : BitVec 20) : Decoded :=
  let rnd := x.extractLsb' 17 3
  let sat := x.extractLsb' 15 2
  if op != 0 || rnd == 7 || sat == 3 then .bad .badPfx
  else rz (x.extractLsb' 0 11 == 0) (.pfx (BitVec.ofNat 3 eng) rnd sat (x.extractLsb' 12 3) (x.extractLsb' 11 1))

/-- Decode one instruction from its first word and the word after it, if there is one (R58 to R60, R70). -/
def decodeWords (w : Word) (next : Option Word) : Decoded :=
  if wordEng w ≥ 6 then .bad .reservedEngine else
  match wordKind w with
  | 0 => decOne (wordEng w) (wordOp w) (wordArg w)
  | 1 =>
    if isTwoWord (wordEng w) (wordOp w) then
      match next with
      | none => .bad .truncated
      | some t =>
        if wordKind t = 3 ∧ wordEng t = wordEng w then decTwo (wordEng w) (wordOp w) (wordArg w) (wordPayload t)
        else .bad .noTail
    else match decOne (wordEng w) (wordOp w) (wordArg w) with
      | .bad .unassignedOp => .bad .unassignedOp
      | _ => .bad .wrongLength
  | 2 => decPfx (wordEng w) (wordOp w) (wordArg w)
  | _ => .bad .strayTail

/-- A word from its four bytes, the lowest address first (R79, R253: little-endian). -/
def leWord (b0 b1 b2 b3 : Byte) : Word := b3 ++ b2 ++ b1 ++ b0

/-- The four bytes of a word, the lowest address first. -/
def wordBytes (w : Word) : List Byte :=
  [w.extractLsb' 0 8, w.extractLsb' 8 8, w.extractLsb' 16 8, w.extractLsb' 24 8]

/-- Decode the instruction at the head of a list of bytes: total on any bytes. -/
def decodeBytes : List Byte → Decoded
  | b0 :: b1 :: b2 :: b3 :: b4 :: b5 :: b6 :: b7 :: _ => decodeWords (leWord b0 b1 b2 b3) (some (leWord b4 b5 b6 b7))
  | b0 :: b1 :: b2 :: b3 :: _ => decodeWords (leWord b0 b1 b2 b3) none
  | _ => .bad .truncated

/-- The instruction that the decoder reads from words numbered as the opcode table numbers them: bit 0 of the first
word is bit 0, the second word is bits 63 to 32, and every bit above `nbits` is 0. -/
def decodeTableWord (nbits w : Nat) : Option Instr :=
  let v := w % 2 ^ nbits
  let w0 := BitVec.ofNat 32 v
  let w1 := BitVec.ofNat 32 (v / 2 ^ 32)
  match decodeBytes (wordBytes w0 ++ wordBytes w1) with
  | .instr i _ => some i
  | .bad _ => none

/-! ## The encoder -/

/-- A word of an engine: header and operand field (R58). -/
def mkWord (eng kind op : Nat) (x : BitVec 20) : Word :=
  BitVec.ofNat 3 eng ++ BitVec.ofNat 2 kind ++ BitVec.ofNat 7 op ++ x

/-- A one-word instruction. -/
def enc1 (eng op : Nat) (x : BitVec 20) : List Word := [mkWord eng 0 op x]

/-- A tail word (R60). -/
def mkTail (eng : Nat) (t : BitVec 27) : Word := BitVec.ofNat 3 eng ++ (3#2 ++ t)

/-- A two-word instruction: head and tail. -/
def enc2 (eng op : Nat) (x : BitVec 20) (t : BitVec 27) : List Word := [mkWord eng 1 op x, mkTail eng t]

/-- Form A3. -/
def eA3 (d a b f : BitVec 5) : BitVec 20 := d ++ a ++ b ++ f
/-- Form AI. -/
def eAI (d a : BitVec 5) (imm : BitVec 10) : BitVec 20 := d ++ a ++ imm
/-- Form BR. -/
def eBR (c : BitVec 4) (w : BitVec 16) : BitVec 20 := c ++ w
/-- Form MX. -/
def eMX (c : BitVec 2) (a b : BitVec 3) (f : BitVec 12) : BitVec 20 := c ++ a ++ b ++ f

/-- A VEC instruction in form VB. -/
def encVB (op : Nat) (o : VB) : List Word :=
  enc2 2 op (o.d ++ o.a ++ o.b ++ 0#2) (o.h ++ o.w ++ o.ka ++ o.kb ++ o.kd ++ o.c ++ o.kc ++ o.m ++ o.fn)

/-- The words of an instruction; the rows of the table that have no encoding have none. -/
def encode : Instr → List Word
  | .fetchWord => []
  | .faultMarker => []
  | .trapTaken => []
  | .deadlock => []
  | .landing => []
  | .landingDataArrival => []
  | .earlyLanding => []
  | .queueUnblock => []
  | .contextSwitch => []
  | .timesliceExpiry => []
  | .contextAging => []
  | .contextReady => []
  | .rdvMarker => []
  | .phaseMarker => []
  | .phaseFlagSet => []
  | .endOfPhaseBundle => []
  | .fabricPhaseTimeout => []
  | .writeAck => []
  | .loadReturn => []
  | .translationWalk => []
  | .nextPageWalk => []
  | .portMigrationWaitEnd => []
  | .streamFill => []
  | .outputDrain => []
  | .pumpSlotFill => []
  | .jobEndCheck => []
  | .jobEndComplete => []
  | .taskCompletionReport => []
  | .asyncCommandComplete => []
  | .copyDispatch => []
  | .syncWordCount => []
  | .watermarkAdvance => []
  | .chainRecord => []
  | .mcastGroupChange => []
  | .atomicAtHome => []
  | .atomicLineWriteback => []
  | .bindApply => []
  | .holdGrant => []
  | .holdRelease => []
  | .waitSatisfied => []
  | .waitTimeout => []
  | .evictApply => []
  | .eqpostArrival => []
  | .eqTag => []
  | .eqrelArrival => []
  | .eqcutArrival => []
  | .eqpeekArrival => []
  | .egressDelivery => []
  | .eqdeliv => []
  | .eqack => []
  | .eqreset => []
  | .workQueueDoorbell => []
  | .launchRecordBegin => []
  | .indirectCountRead => []
  | .stepInstantiate => []
  | .nodeReady => []
  | .bushelProbe => []
  | .skipCopy => []
  | .bushelFill => []
  | .nodeDispatch => []
  | .nodeAging => []
  | .taskRequeue => []
  | .launchComplete => []
  | .furlongAccessResume => []
  | .pageFaultService => []
  | .hwSpill => []
  | .hwFill => []
  | .spillApply => []
  | .fillApply => []
  | .scheduleTick => []
  | .linkLandingDrain => []
  | .unscheduledRequest => []
  | .flitReplay => []
  | .portDown => []
  | .unscheduledTimeout => []
  | .portRetrain => []
  | .fquiesceHold => []
  | .memoryReadArrival => []
  | .refreshDue => []
  | .groupInactive => []
  | .forcedRefreshStart => []
  | .refreshEnd => []
  | .refcfgAlign => []
  | .mscflushSlice => []
  | .mscflushFrame => []
  | .mscflushDone => []
  | .mscpinPin => []
  | .mscpinUnpin => []
  | .mscpinDone => []
  | .waygate => []
  | .pwrreqGateScratchpad => []
  | .pwrreqWakeScratchpad => []
  | .pwrreqGateQuarter => []
  | .pwrreqWakeQuarter => []
  | .pwrreqGateBank => []
  | .pwrreqWakeBank => []
  | .regionAwake => []
  | .xclk => []
  | .crossingDrainDone => []
  | .relockDone => []
  | .otinv => []
  | .otinvDone => []
  | .bankfree => []
  | .semRead => []
  | .semWrite => []
  | .freelistTailWrite => []
  | .savePoolTailWrite => []
  | .eventPost => []
  | .evheadWrite => []
  | .dmembWrite => []
  | .rngseedWrite => []
  | .registerWrite => []
  | .hostAccess => []
  | .powerOn => []
  | .bootStepComplete => []
  | .powerStepDown => []
  | .powerStepUp => []
  | .thermalShutdown => []
  | .pfx eng rnd sat pred sense => [BitVec.setWidth 32 (eng ++ 2#2 ++ 0#7 ++ rnd ++ sat ++ pred ++ sense ++ 0#11)]
  | .nop => enc1 0 0x0 0
  | .br c w => enc1 0 0x1 (eBR c w)
  | .brq z w => enc1 0 0x2 (eBR (0#3 ++ z) w)
  | .call c w => enc1 0 0x3 (eBR c w)
  | .ret => enc1 0 0x4 0
  | .jmpq n w => enc1 0 0x5 (eBR (0#1 ++ n ++ 0#1) w)
  | .loop d len count => enc2 0 0x06 (eAI d 0 len) count
  | .loopq d len => enc1 0 0x7 (eAI d 0 len)
  | .lbrk c => enc1 0 0x8 (eBR c 0)
  | .pset d a b f => enc1 0 0x9 (eA3 d a b f)
  | .plog d a b f => enc1 0 0xa (eA3 d a b f)
  | .ppop p => enc1 0 0xb (eA3 p.d 0 0 p.f)
  | .kld d a imm => enc1 0 0xc (eAI d a imm)
  | .snq d f => enc1 0 0xd (eA3 d 0 0 f)
  | .rdv mask => enc1 0 0xe (0#14 ++ mask)
  | .phase mask => enc1 0 0xf (0#14 ++ mask)
  | .wait all mask exp mant => enc2 0 0x10 (0#15 ++ all ++ mask) (0#6 ++ exp ++ mant)
  | .yield => enc1 0 0x11 0
  | .jobEnd => enc1 0 0x12 0
  | .trap imm => enc1 0 0x13 (eAI 0 0 imm)
  | .rft skip => enc1 0 0x14 (0#19 ++ skip)
  | .csrr d r f => enc1 0 0x15 (d ++ r ++ f)
  | .csrw d r f => enc1 0 0x16 (d ++ r ++ f)
  | .ctxsel n => enc1 0 0x17 (0#18 ++ n)
  | .tstamp d => enc1 0 0x18 (eA3 d 0 0 0)
  | .qcfg d a b f => enc1 0 0x19 (eA3 d a b f)
  | .halt => enc1 0 0x1a 0
  | .spawn d a => enc1 0 0x20 (eA3 d a 0 0)
  | .tjoin d a poll => enc1 0 0x21 (eA3 d a 0 (0#4 ++ poll))
  | .ruinv a f => enc1 0 0x22 (eA3 0 a 0 (0#3 ++ f))
  | .rustat d a f => enc1 0 0x23 (eA3 d a 0 (0#1 ++ f))
  | .glaunch d a => enc1 0 0x24 (eA3 d a 0 0)
  | .add d a b f => enc1 1 0x0 (eA3 d a b f)
  | .sub d a b f => enc1 1 0x1 (eA3 d a b f)
  | .mul d a b f => enc1 1 0x2 (eA3 d a b f)
  | .mulh d a b f => enc1 1 0x3 (eA3 d a b f)
  | .and d a b f => enc1 1 0x4 (eA3 d a b f)
  | .or d a b f => enc1 1 0x5 (eA3 d a b f)
  | .xor d a b f => enc1 1 0x6 (eA3 d a b f)
  | .shl d a b f => enc1 1 0x7 (eA3 d a b f)
  | .shr d a b f => enc1 1 0x8 (eA3 d a b f)
  | .sra d a b f => enc1 1 0x9 (eA3 d a b f)
  | .min d a b f => enc1 1 0xa (eA3 d a b f)
  | .max d a b f => enc1 1 0xb (eA3 d a b f)
  | .addi d a imm => enc1 1 0xc (eAI d a imm)
  | .andi d a imm => enc1 1 0xd (eAI d a imm)
  | .ori d a imm => enc1 1 0xe (eAI d a imm)
  | .shli d a s => enc1 1 0xf (eAI d a (0#4 ++ s))
  | .shri d a s => enc1 1 0x10 (eAI d a (0#4 ++ s))
  | .li d hi lo => enc2 1 0x11 (eAI d 0 hi) lo
  | .lih d u => enc2 1 0x12 (eAI d 0 0) u
  | .cmp d a b f => enc1 1 0x13 (eA3 d a b f)
  | .cmpb a b f => enc1 1 0x14 (eA3 0 a b f)
  | .movq d a => enc1 1 0x15 (eA3 d a 0 0)
  | .popq d a => enc1 1 0x16 (eA3 d a 0 0)
  | .divu d a b => enc1 1 0x17 (eA3 d a b 0)
  | .remu d a b => enc1 1 0x18 (eA3 d a b 0)
  | .clz d a f => enc1 1 0x19 (eA3 d a 0 f)
  | .popc d a f => enc1 1 0x1a (eA3 d a 0 f)
  | .cmov d a => enc1 1 0x20 (eA3 d a 0 0)
  | .cnarrow d a b => enc1 1 0x21 (eA3 d a b 0)
  | .crights d a b => enc1 1 0x22 (eA3 d a b 0)
  | .cadd d a b f => enc1 1 0x23 (eA3 d a b f)
  | .cget d a f => enc1 1 0x24 (eA3 d a 0 f)
  | .cld d a b im => enc1 1 0x25 (eA3 d a b (im ++ 0#4))
  | .cst d a b im => enc1 1 0x26 (eA3 d a b (im ++ 0#4))
  | .ld d a b im sx size => enc1 1 0x28 (eA3 d a b (im ++ sx ++ 0#1 ++ size))
  | .st d a b im size => enc1 1 0x29 (eA3 d a b (im ++ 0#2 ++ size))
  | .lds d a b im sx size => enc1 1 0x2a (eA3 d a b (im ++ sx ++ 0#1 ++ size))
  | .sts d a b im size => enc1 1 0x2b (eA3 d a b (im ++ 0#2 ++ size))
  | .ldq d a b im sp len => enc1 1 0x2c (eA3 d a b (im ++ sp ++ len))
  | .stq d a b im sp len => enc1 1 0x2d (eA3 d a b (im ++ sp ++ len))
  | .prf a b im lvl => enc1 1 0x2e (eA3 0 a b (im ++ 0#2 ++ lvl))
  | .fence scope => enc1 1 0x2f (eA3 0 0 0 (0#2 ++ scope))
  | .sbind d a f => enc1 1 0x30 (eA3 d a 0 f)
  | .sset d a b im sp => enc1 1 0x31 (eA3 d a b (im ++ sp ++ 0#3))
  | .sring d a => enc1 1 0x32 (eA3 d a 0 0)
  | .sstop d => enc1 1 0x33 (eA3 d 0 0 0)
  | .sstat d a f => enc1 1 0x34 (eA3 d a 0 f)
  | .sout d a => enc1 1 0x35 (eA3 d a 0 0)
  | .pgdist d a f => enc1 1 0x36 (eA3 d a 0 (0#4 ++ f))
  | .cpy d a b dsp ssp => enc1 1 0x40 (eA3 d a b (0#3 ++ dsp ++ ssp))
  | .cpy2 d a b dsp ssp => enc1 1 0x41 (eA3 d a b (0#3 ++ dsp ++ ssp))
  | .cpyl2 d a b osp dir => enc1 1 0x42 (eA3 d a b (0#3 ++ osp ++ dir))
  | .chain d a b => enc1 1 0x43 (eA3 d a b 0)
  | .mcast d a b ssp => enc1 1 0x44 (eA3 d a b (0#4 ++ ssp))
  | .gwin d a b f => enc1 1 0x45 (eA3 d a b (0#1 ++ f))
  | .scrub d a b => enc1 1 0x46 (eA3 d a b 0)
  | .wmark => enc1 1 0x47 0
  | .swarm a clr => enc1 1 0x48 (eA3 0 a 0 (0#4 ++ clr))
  | .migr a b => enc1 1 0x49 (eA3 0 a b 0)
  | .atom d a b ret size op => enc1 1 0x50 (eA3 d a b (ret ++ size ++ op))
  | .atomf d a b ret => enc1 1 0x51 (eA3 d a b (ret ++ 0#4))
  | .atomfQ a b => enc1 1 0x51 (eA3 0 a b 8)
  | .bind d a b rep scope => enc1 1 0x52 (eA3 d a b (0#1 ++ rep ++ scope))
  | .acq a sh => enc1 1 0x53 (eA3 0 a 0 (0#4 ++ sh))
  | .rel a => enc1 1 0x54 (eA3 0 a 0 0)
  | .tryacq d a sh => enc1 1 0x55 (eA3 d a 0 (0#4 ++ sh))
  | .tlget d iss cls => enc1 1 0x56 (eA3 d 0 0 (0#2 ++ iss ++ cls))
  | .tlarm d a b kind => enc1 1 0x57 (eA3 d a b (0#2 ++ kind))
  | .lsend d a b ssp => enc1 1 0x60 (eA3 d a b (0#4 ++ ssp))
  | .lrecv d a b dsp => enc1 1 0x61 (eA3 d a b (0#4 ++ dsp))
  | .lradd d a b => enc1 1 0x62 (eA3 d a b 0)
  | .lslot d a b off => enc1 1 0x63 (eA3 d a b (0#4 ++ off))
  | .evict d a b mode => enc1 1 0x68 (eA3 d a b (0#4 ++ mode))
  | .rmap d a b form => enc1 1 0x69 (eA3 d a b (0#4 ++ form))
  | .eqpost d a b arm => enc1 1 0x6a (eA3 d a b (0#4 ++ arm))
  | .eqpeek d a b => enc1 1 0x6b (eA3 d a b 0)
  | .eqrel a b => enc1 1 0x6c (eA3 0 a b 0)
  | .eqcut a b => enc1 1 0x6d (eA3 0 a b 0)
  | .spill a b => enc1 1 0x70 (eA3 0 a b 0)
  | .fill a b => enc1 1 0x71 (eA3 0 a b 0)
  | .fadd o => encVB 0x0 o
  | .fsub o => encVB 0x1 o
  | .fmul o => encVB 0x2 o
  | .ffma o => encVB 0x3 o
  | .fmin o => encVB 0x4 o
  | .fmax o => encVB 0x5 o
  | .fabs o => encVB 0x6 o
  | .fneg o => encVB 0x7 o
  | .frcp o => encVB 0x8 o
  | .frsq o => encVB 0x9 o
  | .fexp2 o => encVB 0xa o
  | .flog2 o => encVB 0xb o
  | .ftanh o => encVB 0xc o
  | .fcmp o => encVB 0xd o
  | .iadd o => encVB 0x10 o
  | .isub o => encVB 0x11 o
  | .imul o => encVB 0x12 o
  | .imad o => encVB 0x13 o
  | .imin o => encVB 0x14 o
  | .imax o => encVB 0x15 o
  | .vecAnd o => encVB 0x16 o
  | .vecOr o => encVB 0x17 o
  | .vecXor o => encVB 0x18 o
  | .lop3 o => enc2 2 0x19 (o.d ++ o.a ++ o.b ++ 0#2) (o.h ++ o.w ++ o.ka ++ o.kb ++ o.kd ++ o.c ++ 0#1 ++ o.tt)
  | .vecShl o => encVB 0x1a o
  | .vecShr o => encVB 0x1b o
  | .vecSra o => encVB 0x1c o
  | .fshl o => encVB 0x1d o
  | .fshr o => encVB 0x1e o
  | .vecPopc o => encVB 0x1f o
  | .vecClz o => encVB 0x20 o
  | .icmp o => encVB 0x21 o
  | .mov o => encVB 0x28 o
  | .sel o => encVB 0x29 o
  | .bcst o => encVB 0x2a o
  | .perm o => encVB 0x2b o
  | .rot o => encVB 0x2c o
  | .cvt o => encVB 0x2d o
  | .rsum o => encVB 0x30 o
  | .rmax o => encVB 0x31 o
  | .rmin o => encVB 0x32 o
  | .scan o => encVB 0x33 o
  | .vcmpb o => encVB 0x38 o
  | .ldt o => enc2 2 0x39 (o.d ++ o.a ++ o.b ++ 0#2) (o.h ++ o.w ++ o.ka ++ o.kb ++ o.kd ++ o.dly ++ o.m ++ o.fn)
  | .mset o => encVB 0x3a o
  | .shape acc smode fb fa m n kb kta ktb => enc2 3 0x00 (eMX acc 0 0 (0#3 ++ smode ++ fb ++ fa)) (m ++ n ++ kb ++ kta ++ ktb ++ 0#2)
  | .ringdef ring off fmt base slots rows kb => enc2 3 0x01 (eMX 0 ring 0 (0#7 ++ off ++ fmt)) (base ++ slots ++ rows ++ kb ++ 0#1)
  | .mzero acc => enc1 3 0x02 (eMX acc 0 0 0)
  | .mma acc ra rb zero keepb keepa => enc1 3 0x03 (eMX acc ra rb (0#9 ++ zero ++ keepb ++ keepa))
  | .mmat acc ra rb zero keepb keepa => enc1 3 0x04 (eMX acc ra rb (0#9 ++ zero ++ keepb ++ keepa))
  | .mscl acc norm k => enc1 3 0x05 (eMX acc 0 0 (0#7 ++ norm ++ k))
  | .mdrain acc clr ofmt d => enc1 3 0x06 (eMX acc 0 0 (0#4 ++ clr ++ ofmt ++ d))
  | .madd acc ra keepa => enc1 3 0x07 (eMX acc ra 0 (0#11 ++ keepa))
  | .rskip ra n => enc1 3 0x08 (eMX 0 ra 0 (0#7 ++ n))
  | .atts acc ra rb nov keepb keepa ks kh => enc2 3 0x09 (eMX acc ra rb (0#9 ++ nov ++ keepb ++ keepa)) (ks ++ kh ++ 0#19)
  | .attv acc rb keepb kh => enc2 3 0x0a (eMX acc 0 rb (0#10 ++ keepb ++ 0#1)) (0#4 ++ kh ++ 0#19)
  | .attm acc ra rb keepb keepa ks kh => enc2 3 0x0b (eMX acc ra rb (0#10 ++ keepb ++ keepa)) (ks ++ kh ++ 0#19)
  | .mstat clr d => enc1 3 0x0c (eMX 0 0 0 (0#6 ++ clr ++ d))
  | .rowst acc ra keepa load d => enc1 3 0x0d (eMX acc ra 0 (0#5 ++ keepa ++ load ++ d))
  | .sigcfg rowf nh a w bwid => enc1 4 0x00 (eA3 (rowf ++ nh) a (0#1 ++ w) bwid)
  | .sigh a n => enc1 4 0x01 (eA3 0 a 0 n)
  | .bkt => enc1 4 0x02 0
  | .repsel a rule => enc1 4 0x03 (eA3 0 a 0 (0#3 ++ rule))
  | .repgat d => enc1 4 0x04 (eA3 d 0 0 0)
  | .repscat d a rfmt rw => enc1 4 0x05 (eA3 d a 0 (rfmt ++ rw))
  | .memb d a form => enc1 4 0x06 (eA3 d a 0 (0#3 ++ form))
  | .memba d a rfmt rw => enc1 4 0x07 (eA3 d a 0 (rfmt ++ rw))
  | .bmand d a b => enc1 4 0x8 (eA3 d a b 0)
  | .bmor d a b => enc1 4 0x9 (eA3 d a b 0)
  | .bmpfx d a => enc1 4 0x0a (eA3 d a 0 0)
  | .isect d a b => enc1 4 0xb (eA3 d a b 0)
  | .union d a b => enc1 4 0xc (eA3 d a b 0)
  | .spdot d a b vfmt => enc1 4 0x0d (eA3 d a b (0#3 ++ vfmt))
  | .contract a => enc1 4 0x0e (eA3 0 a 0 0)
  | .ixld d a => enc1 4 0x0f (eA3 d a 0 0)
  | .ixst d a => enc1 4 0x10 (eA3 d a 0 0)
  | .ixmov d a form => enc1 4 0x11 (eA3 d a 0 (0#3 ++ form))
  | .ixcnt d a form => enc1 4 0x12 (eA3 d a 0 (0#3 ++ form))
  | .had d a n => enc1 5 0x0 (eA3 d a 0 (0#4 ++ n))
  | .qst d a b blk ifmt hadn => enc2 5 0x01 (eA3 d a b 0) (blk ++ ifmt ++ hadn ++ 0#16)
  | .qstm d a b blk ifmt hadn sel => enc2 5 0x02 (eA3 d a b 0) (blk ++ ifmt ++ hadn ++ sel ++ 0#13)
  | .qsel hmode mask => enc1 5 0x03 (0#6 ++ hmode ++ mask ++ 0#5)
  | .ctbl d b => enc1 5 0x04 (eA3 d 0 b 0)
  | .deq d a b blk ofmt => enc2 5 0x05 (eA3 d a b 0) (blk ++ ofmt ++ 0#18)
  | .cvtx d a clr pf => enc1 5 0x06 (eA3 d a 0 (0#2 ++ clr ++ pf))
  | .cvtn d a b ofmt => enc1 5 0x07 (eA3 d a b (0#2 ++ ofmt))
  | .qhdr d a flt => enc1 5 0x08 (eA3 d a 0 (0#4 ++ flt))
  | .qerr d a b ifmt => enc1 5 0x09 (eA3 d a b (0#3 ++ ifmt))
  | .qstat d clr => enc1 5 0x0a (eA3 d 0 0 (0#4 ++ clr))
  | .hadw d a n => enc1 5 0xb (eA3 d a 0 (0#4 ++ n))
  | .secondTierRefresh => []
  | .firmwareScrub => []
  | .powerManagerRequest => []
  | .portTrainingDone => []
  | .regionGated => []
  | .islandLevelChangeDone => []

end Sys2Proof
end

