-- ==== Sys2Proof/Machine/WordFault.lean ====
section
/-! DEFINITION. The word-level faults that depend on operand values (R62, R63, R66, R70, R72 step 1). -/
namespace Sys2Proof
open Machine

/-- The first cause of a list of conditions that must not hold. -/
def firstCause : List (Bool × Cause) → Option Cause
  | [] => none
  | (b, c) :: r => if b then some c else firstCause r

/-- ILLEGAL_OPERAND where a condition holds. -/
def opnd (b : Bool) : Option Cause := if b then some .illegalOperand else none

/-- A field that names a capability register, a stream register, a loop register or an index register: 16 to 31 name
none (R62). -/
def bad16 (r : BitVec 5) : Bool := decide (16 ≤ r.toNat)
/-- A field that names a queue, a ring or a predicate: 8 to 31 name none. -/
def bad8 (r : BitVec 5) : Bool := decide (8 ≤ r.toNat)
/-- A field that names a loop counter: 4 to 31 name none. -/
def bad4 (r : BitVec 5) : Bool := decide (4 ≤ r.toNat)

/-- The system registers that a chapter assigns (R75, R124, R392, R454, R456). -/
def csrAssigned (n : Nat) : Bool :=
  (n ≤ 0x003) || (0x010 ≤ n && n ≤ 0x014) || (0x018 ≤ n && n ≤ 0x01B) || (0x020 ≤ n && n ≤ 0x024)
  || (0x028 ≤ n && n ≤ 0x02B) || (0x030 ≤ n && n ≤ 0x035)
  || (0x100 ≤ n && n ≤ 0x103) || n == 0x110 || n == 0x111 || (0x118 ≤ n && n ≤ 0x127)
  || (0x130 ≤ n && n ≤ 0x132) || n == 0x138
  || (0x200 ≤ n && n ≤ 0x208) || (0x210 ≤ n && n ≤ 0x219)
  || n == 0x300 || n == 0x308 || (0x340 ≤ n && n ≤ 0x37F)

/-- PSET (R129, Table 8). -/
def psetFault (d a b f : BitVec 5) : Option Cause :=
  let f := f.toNat
  if 8 ≤ f then some .illegalOperand
  else firstCause
    [(decide (f < 2) && (a != 0 || b != 0), .illegal),
     ((f == 2 || f == 3) && b != 0, .illegal),
     (bad8 d, .illegalOperand),
     (decide (2 ≤ f) && decide (f < 6) && bad4 a, .illegalOperand),
     (decide (6 ≤ f) && bad16 a, .illegalOperand),
     (decide (4 ≤ f) && bad16 b, .illegalOperand)]

/-- PLOG (R129, Table 8). -/
def plogFault (d a b f : BitVec 5) : Option Cause :=
  if 5 ≤ f.toNat then some .illegalOperand
  else firstCause
    [(f.toNat == 4 && b != 0, .illegal),
     (bad8 d || bad8 a || (f.toNat != 4 && bad8 b), .illegalOperand)]

/-- QCFG (R150). -/
def qcfgFault (d a b f : BitVec 5) : Option Cause :=
  let bad := decide (9 ≤ d.toNat) || decide (2 ≤ f.toNat)
    || (f.toNat == 1 && (a != 0 || b != 0))
    || (f.toNat == 0 && d.toNat != 8 &&
        (decide (a.toNat < 1) || decide (5 < a.toNat) || decide (b.toNat < 1) || decide (5 < b.toNat) || a == b))
    || (f.toNat == 0 && d.toNat == 8 && (!(a.toNat == 1 || a.toNat == 2 || a.toNat == 4) || b.toNat != 0))
  opnd bad

/-- Block `i` with extent h × w on the 8 × 8 grid (R63). -/
def onGrid (i h w : Nat) : Bool := decide (i / 8 + h ≤ 8) && decide (i % 8 + w ≤ 8)

/-- A VB source operand of a kind (R63, Table 3): off the grid, or above its file. -/
def vbSrcBad (kind : BitVec 2) (r : BitVec 6) (h w : Nat) : Bool :=
  match kind.toNat with
  | 0 => !onGrid r.toNat h w
  | 1 => decide (16 ≤ r.toNat)
  | 2 => decide (8 ≤ r.toNat)
  | _ => decide (16 ≤ r.toNat)

/-- A VB destination operand (R63): a broadcast as d is ILLEGAL_OPERAND. -/
def vbDstBad (kind : BitVec 2) (r : BitVec 6) (h w : Nat) : Bool := kind.toNat == 3 || vbSrcBad kind r h w

/-- The extents of a VB instruction. -/
def VB.rows (o : VB) : Nat := o.h.toNat + 1
def VB.cols (o : VB) : Nat := o.w.toNat + 1

/-! ## VEC (R62, R63, R285, R287) -/

/-- What an instruction takes an operand field of form VB for (Table 1 of chapter 9). -/
inductive VUse where
  /-- Not used: the field and its kind are zero. -/
  | no
  /-- A source of any kind. -/
  | src
  /-- A lane mask. -/
  | mask
  /-- A loop register. -/
  | kreg
  deriving DecidableEq, Repr

/-- A field that is not used and is not zero (R62). -/
def VUse.reserved (u : VUse) (kind : BitVec 2) (r : BitVec 6) : Bool :=
  match u with
  | .no => kind != 0 || r != 0
  | _ => false

/-- A field that names nothing its instruction takes there (R287). -/
def VUse.bad (u : VUse) (kind : BitVec 2) (r : BitVec 6) (h w : Nat) : Bool :=
  match u with
  | .no => false
  | .src => vbSrcBad kind r h w
  | .mask => kind != 0 || decide (8 ≤ r.toNat)
  | .kreg => kind != 3 || decide (16 ≤ r.toNat)

/-- A destination that is not a lane mask as R285 wants it. -/
def VB.maskDstBad (o : VB) : Bool := o.kd != 0 || o.d == 0 || decide (8 ≤ o.d.toNat) || o.h != 0 || o.w != 0

/-- The word-level faults of a VB instruction: a function value that its entry does not list, fields it does not use,
operands that name nothing. `fns` says which functions are listed. -/
def vbFault (ua ub uc : VUse) (fns : Nat → Bool) (dstBad : Bool) (o : VB) : Option Cause :=
  if !fns o.fn.toNat then some .illegalOperand
  else firstCause
    [(ua.reserved o.ka o.a || ub.reserved o.kb o.b || uc.reserved o.kc o.c, .illegal),
     (ua.bad o.ka o.a o.rows o.cols || ub.bad o.kb o.b o.rows o.cols || uc.bad o.kc o.c o.rows o.cols || dstBad,
      .illegalOperand)]

/-- An ordinary destination (R63). -/
def VB.dstBad (o : VB) : Bool := vbDstBad o.kd o.d o.rows o.cols

/-- One, two or three sources and a lane type or another function below `n`. -/
def vb1Fault (n : Nat) (o : VB) : Option Cause := vbFault .src .no .no (fun f => decide (f < n)) o.dstBad o
def vb2Fault (n : Nat) (o : VB) : Option Cause := vbFault .src .src .no (fun f => decide (f < n)) o.dstBad o
def vb3Fault (n : Nat) (o : VB) : Option Cause := vbFault .src .src .src (fun f => decide (f < n)) o.dstBad o

/-- FCMP and ICMP (R291, R295): bit 3 chooses lanes or a mask. -/
def cmpFault (n : Nat) (o : VB) : Option Cause :=
  vbFault .src .src .no (fun f => decide (f % 8 < n)) (if 8 ≤ o.fn.toNat then o.dstBad else o.maskDstBad) o

/-- CVT (R297): the packing forms take b. -/
def cvtFault (o : VB) : Option Cause :=
  vbFault .src (if o.fn.toNat = 4 ∨ o.fn.toNat = 5 then .src else .no) .no (fun f => decide (f < 10)) o.dstBad o

/-- RSUM, RMAX, RMIN and SCAN (R298 to R300). RSUM's function bits above TYPE are reserved. -/
def reduceFault (fns : Nat → Bool) (o : VB) : Option Cause := vbFault .src .no .mask fns o.dstBad o
def rsumFault (o : VB) : Option Cause := if 2 ≤ o.fn.toNat then some .illegal else reduceFault (fun _ => true) o
def rmaxFault (o : VB) : Option Cause := reduceFault (fun f => f == 0 || f == 1 || f == 3) o
def scanFault (o : VB) : Option Cause := reduceFault (fun f => decide (f < 4)) o

/-- SEL, BCST and ROT (R296). -/
def selFault (o : VB) : Option Cause := vbFault .src .src .mask (· == 0) o.dstBad o
def bcstFault (o : VB) : Option Cause := vbFault .src .no .kreg (· == 0) o.dstBad o

/-- VCMPB (R302). -/
def vcmpbFault (o : VB) : Option Cause :=
  if o.d ≠ 0 ∨ o.kd ≠ 0 then some .illegal
  else vbFault .mask .no .no (fun f => decide (f < 3)) (o.h != 0 || o.w != 0) o

/-- MSET (R301). -/
def msetFault (o : VB) : Option Cause :=
  match o.fn.toNat with
  | 0 => vbFault .src .no .no (fun _ => true) o.maskDstBad o
  | 1 | 2 | 3 | 4 => vbFault .mask .mask .no (fun _ => true) o.maskDstBad o
  | 5 => vbFault .mask .no .no (fun _ => true) o.maskDstBad o
  | 6 => vbFault .no .no .kreg (fun _ => true) o.maskDstBad o
  | _ => some .illegalOperand

/-- LOP3 (R294): c is a register block. -/
def lop3Fault (o : Lop3) : Option Cause :=
  let h := o.h.toNat + 1
  let w := o.w.toNat + 1
  opnd (vbSrcBad o.ka o.a h w || vbSrcBad o.kb o.b h w || vbSrcBad 0 o.c h w || vbDstBad o.kd o.d h w)

/-- LDT (R303). -/
def ldtFault (o : Ldt) : Option Cause :=
  let h := o.h.toNat + 1
  let w := o.w.toNat + 1
  let space := o.fn.toNat % 4
  let kindBad := match space with
    | 0 => o.ka.toNat < 2
    | 1 => o.ka.toNat < 2 || (o.ka == 3 && decide (14 < o.a.toNat))
    | 2 => o.ka != 1
    | _ => true
  firstCause
    [(decide (4 ≤ o.fn.toNat) || o.b != 0 || o.kb != 0, .illegal),
     (decide (o.dly.toNat < 4) || decide (8 < h * w) || o.kd != 0 || kindBad || vbSrcBad o.ka o.a 1 1
       || !onGrid o.d.toNat h w, .illegalOperand)]

/-! ## QNT (R262, R265 to R279) -/

/-- A data operand of QNT: 24 to 31 are reserved (R262). -/
def qopBad (r : BitVec 5) : Bool := decide (24 ≤ r.toNat)

/-- HAD and HADW (R265). -/
def hadFault (d a : BitVec 5) : Option Cause := opnd (qopBad d || qopBad a)
/-- QSEL (R266). -/
def qselFault (mask : BitVec 8) : Option Cause := opnd (mask == 0 || mask.getLsbD 3)
/-- QST and QSTM (R267): a destination stream, a k register, listed formats; selector 3 is reserved. -/
def qstFault (d a b : BitVec 5) (ifmt hadn : BitVec 2) (sel : Nat) : Option Cause :=
  opnd (bad16 d || qopBad a || bad16 b || ifmt == 3 || hadn == 3 || sel == 3)
/-- CTBL (R271). -/
def ctblFault (d b : BitVec 5) : Option Cause := opnd (decide (3 < d.toNat) || decide (12 < b.toNat))
/-- DEQ (R274). -/
def deqFault (d a b : BitVec 5) (ofmt : BitVec 2) : Option Cause := opnd (qopBad d || bad16 a || bad16 b || ofmt == 3)
/-- CVTX (R275). -/
def cvtxFault (d a : BitVec 5) (pf : BitVec 2) : Option Cause := opnd (qopBad d || qopBad a || pf == 3)
/-- CVTN (R276). -/
def cvtnFault (d a b : BitVec 5) (ofmt : BitVec 3) : Option Cause :=
  opnd (qopBad d || qopBad a || bad16 b || ofmt == 0 || ofmt == 7)
/-- QHDR (R277). -/
def qhdrFault (d a : BitVec 5) : Option Cause := opnd (qopBad d || bad16 a)
/-- QERR (R278). -/
def qerrFault (d a b : BitVec 5) (ifmt : BitVec 2) : Option Cause := opnd (qopBad d || qopBad a || bad16 b || ifmt == 3)
/-- QSTAT (R279). -/
def qstatFault (d : BitVec 5) : Option Cause := opnd (qopBad d)

/-! ## MAT (R311, R313, R325 to R335) -/

/-- Formats that an operand of a product takes (R311). -/
def matFmt (f : Nat) : Bool := (1 ≤ f && f ≤ 6) || f == 8 || f == 9
/-- INT8 and UINT8. -/
def intFmt (f : Nat) : Bool := f == 5 || f == 6

/-- SHAPE (R311). -/
def shapeFault (fa fb : BitVec 4) : Option Cause :=
  let a := fa.toNat
  let b := fb.toNat
  opnd (!matFmt a || !matFmt b || intFmt a != intFmt b || ((decide (a < 3) || decide (b < 3)) && a != b))

/-- Bytes of a ring's payload (R312): ROWS × K elements. -/
def tilePayload (fmt rows kb : Nat) : Nat :=
  let n := rows * (32 * kb)
  if fmt = 8 ∨ fmt = 9 then n / 2 else if fmt = 0 then 4 * n else if fmt < 3 then 2 * n else n
/-- Where the headers stand in a slot. -/
def tileHeaders (fmt rows kb : Nat) : Nat := (tilePayload fmt rows kb + 63) / 64 * 64
/-- Bytes of a slot (R312). -/
def tileBytes (fmt rows kb : Nat) : Nat :=
  let hb := if fmt = 8 then 1 else if fmt = 9 then 2 else 0
  ((if hb = 0 then tilePayload fmt rows kb else tileHeaders fmt rows kb + rows * kb * hb) + 2047) / 2048 * 2048

/-- RINGDEF (R313). -/
def ringdefFault (off : BitVec 1) (fmt : BitVec 4) (base : BitVec 10) (slots : BitVec 5) (rows : BitVec 8)
    (kb : BitVec 3) : Option Cause :=
  if off = 1 then (if fmt != 0 || base != 0 || slots != 0 || rows != 0 || kb != 0 then some .illegal else none)
  else opnd (fmt == 7 || decide (9 < fmt.toNat)
    || decide (0x180000 < 2048 * base.toNat + (slots.toNat + 1) * tileBytes fmt.toNat (rows.toNat + 1) (kb.toNat + 1)))

/-- MSCL (R325): k is zero with NORM. -/
def msclFault (norm : BitVec 1) (k : BitVec 4) : Option Cause := if norm == 1 && k != 0 then some .illegal else none
/-- The attention instructions (R330): kH and kH + 1 are loop registers. -/
def attFault (kh : BitVec 4) : Option Cause := opnd (kh == 15)
/-- ROWST (R335): each form leaves the other's fields zero. -/
def rowstFault (ra : BitVec 3) (keepa load : BitVec 1) (d : BitVec 5) : Option Cause :=
  if load = 1 then (if d != 0 then some .illegal else none)
  else firstCause [(ra != 0 || keepa != 0, .illegal), (qopBad d, .illegalOperand)]

/-! ## IDX (R340, R347 to R361) -/

/-- REPSEL (R347). -/
def repselFault (rule : BitVec 2) : Option Cause := opnd (rule == 3)
/-- MEMB (R350): the unused field of each form is reserved. -/
def membFault (d a : BitVec 5) (form : BitVec 2) : Option Cause :=
  firstCause [(form == 3, .illegalOperand), ((if form = 2 then d else a) != 0, .illegal)]
/-- ISECT and UNION (R359): queues and streams, and two sources. -/
def mergeFault (d a b : BitVec 5) : Option Cause :=
  opnd (decide (d.toNat < 16) || decide (a.toNat < 16) || decide (b.toNat < 16) || a == b)
/-- SPDOT (R357). -/
def spdotFault (a b : BitVec 5) (vfmt : BitVec 2) : Option Cause :=
  opnd (decide (13 < a.toNat) || decide (13 < b.toNat) || vfmt == 3)
/-- IXLD and IXST (R352): a y register, and a queue or a stream. -/
def ixldFault (d a : BitVec 5) : Option Cause := opnd (bad16 d || !bad16 a)
def ixstFault (d a : BitVec 5) : Option Cause := opnd (!bad16 d || bad16 a)
/-- IXMOV (R352). -/
def ixmovFault (d a : BitVec 5) (form : BitVec 2) : Option Cause :=
  firstCause [(form == 3, .illegalOperand), (form != 0 && a != 0, .illegal), (bad16 d || bad16 a, .illegalOperand)]
/-- IXCNT (R353): fields that a form does not use are zero. -/
def ixcntFault (d a : BitVec 5) (form : BitVec 2) : Option Cause :=
  match form.toNat with
  | 0 => none
  | 1 => if a != 0 then some .illegal else none
  | 2 => firstCause [(d != 0, .illegal), (bad16 a, .illegalOperand)]
  | _ => if d != 0 then some .illegal else none
/-- CONTRACT (R361). -/
def contractFault (a : BitVec 5) : Option Cause := opnd (decide (8 < a.toNat))

/-! ## SEQ and ACC -/

/-- SX is reserved for SIZE 3 (R182). -/
def sxFault (size : BitVec 2) (sx : BitVec 1) : Option Cause := if size = 3 ∧ sx = 1 then some .illegal else none

/-- The first of two faults. -/
def orFault (a b : Option Cause) : Option Cause := match a with | some c => some c | none => b

/-- Word-level limits of LDQ and STQ (R184). -/
def ldqFault (d a : BitVec 5) (sp : BitVec 1) (len : BitVec 3) : Option Cause :=
  opnd (decide (6 ≤ len.toNat) || bad8 d || (sp == 0 && bad16 a))

/-- Word-level limit of RUINV (R390). -/
def ruinvFault (f : BitVec 2) : Option Cause := opnd (f == 3)

/-- Word-level limits of CPY and CPY2 (R205, R62). -/
def copyFault (d a : BitVec 5) (dsp ssp : BitVec 1) : Option Cause := opnd ((dsp == 0 && bad16 d) || (ssp == 0 && bad16 a))

/-- A c field above 15 (R387). -/
def spawnFault (a : BitVec 5) : Option Cause := opnd (bad16 a)

/-- Word-level limit of RUSTAT (R391). -/
def rustatFault (f : BitVec 4) : Option Cause := opnd (decide (10 ≤ f.toNat))

/-- Word-level limits of the link commands. -/
def linkFault (d a : BitVec 5) (sp : BitVec 1) : Option Cause := opnd (bad16 d || (sp == 0 && bad16 a))

/-- Word-level limits of LOOP and LOOPQ (Table 9 of chapter 4). -/
def loopFault (d : BitVec 5) (len : BitVec 10) : Option Cause := opnd (bad4 d || len == 0)

/-- Word-level limits of KLD (R135). -/
def kldFault (d a : BitVec 5) (imm : BitVec 10) : Option Cause :=
  opnd (bad16 d || decide (4 ≤ a.toNat) || (decide (2 ≤ a.toNat) && decide (16 ≤ imm.toNat)))

/-- Word-level limit of RDV (R137). -/
def rdvFault (mask : BitVec 6) : Option Cause := opnd (mask == 0)

/-- A system register number that no chapter assigns, or an f beyond `last`, is a word-level fault (R75, R148). -/
def csrFault (r : BitVec 12) (f : BitVec 3) (last : Nat) : Option Cause := opnd (!csrAssigned r.toNat || decide (last < f.toNat))

/-- Word-level faults of the atomics (R62, R233). -/
def atomFault (d a : BitVec 5) (ret : BitVec 1) (cas : Bool) : Option Cause :=
  firstCause [(ret == 0 && !cas && d != 0, .illegal), (bad16 a, .illegalOperand)]

/-- Word-level limits of TLARM (R250). -/
def tlarmFault (d a b : BitVec 5) (kind : BitVec 3) : Option Cause :=
  opnd (bad4 d || decide (5 ≤ kind.toNat) || (kind == 0 && bad4 b)
    || ((kind == 2 || kind == 3 || kind == 4) && b != 0) || (kind == 4 && a != 0))

/-- A function value above the listed ones (R169). -/
def fAbove (n : Nat) (f : BitVec 5) : Option Cause := opnd (decide (n < f.toNat))

/-- SWARM (R214): the clearing form takes no register. -/
def swarmFault (a : BitVec 5) (clr : BitVec 1) : Option Cause := if clr = 1 ∧ a ≠ 0 then some .illegal else none

/-- PFX (R65, R66): an engine that has prefixes, and no reserved mode. -/
def pfxWordFault (eng rnd : BitVec 3) (sat : BitVec 2) : Option Cause :=
  firstCause [(decide (6 ≤ eng.toNat) || rnd == 7 || sat == 3, .illegal), (eng == 0, .orphanPrefix)]

/-- The word-level fault of an instruction (R72 step 1): the conditions that its own fields decide. The rows of the
table that have no word have none. -/
def wordFault : Instr → Option Cause
  | .pfx eng rnd sat _ _ => pfxWordFault eng rnd sat
  | .contract a => contractFault a
  | .loop d len _ => loopFault d len
  | .loopq d len => loopFault d len
  | .pset d a b f => psetFault d a b f
  | .plog d a b f => plogFault d a b f
  | .ppop p => opnd (bad8 p.d || p.f != 0)
  | .kld d a imm => kldFault d a imm
  | .snq d f => opnd (bad16 d || decide (3 ≤ f.toNat))
  | .rdv mask => rdvFault mask
  | .wait _ mask _ _ => opnd (mask == 0)
  | .csrr _ r f => csrFault r f 0
  | .csrw _ r f => csrFault r f 2
  | .qcfg d a b f => qcfgFault d a b f
  | .spawn _ a => spawnFault a
  | .ruinv _ f => ruinvFault f
  | .rustat _ _ f => rustatFault f
  | .glaunch _ a => spawnFault a
  | .add _ _ _ f => fAbove 1 f
  | .sub _ _ _ f => fAbove 1 f
  | .mul _ _ _ f => fAbove 1 f
  | .mulh _ _ _ f => fAbove 2 f
  | .and _ _ _ f => fAbove 0 f
  | .or _ _ _ f => fAbove 0 f
  | .xor _ _ _ f => fAbove 0 f
  | .shl _ _ _ f => fAbove 0 f
  | .shr _ _ _ f => fAbove 0 f
  | .sra _ _ _ f => fAbove 0 f
  | .min _ _ _ f => fAbove 1 f
  | .max _ _ _ f => fAbove 1 f
  | .cmp _ _ _ f => fAbove 5 f
  | .cmpb _ _ f => fAbove 5 f
  | .movq d _ => opnd (bad8 d)
  | .popq _ a => opnd (bad8 a)
  | .clz _ _ f => fAbove 0 f
  | .popc _ _ f => fAbove 0 f
  | .cmov d a => opnd (bad16 d || bad16 a)
  | .cnarrow d a _ => opnd (bad16 d || bad16 a)
  | .crights d a _ => opnd (bad16 d || bad16 a)
  | .cadd d a _ f => opnd (bad16 d || bad16 a || decide (1 < f.toNat))
  | .cget _ a f => opnd (bad16 a || decide (7 < f.toNat))
  | .cld d a _ _ => opnd (bad16 d || bad16 a)
  | .cst d a _ _ => opnd (bad16 d || bad16 a)
  | .ld _ a _ _ sx size => orFault (sxFault size sx) (opnd (bad16 a))
  | .st _ a _ _ _ => opnd (bad16 a)
  | .lds _ _ _ _ sx size => sxFault size sx
  | .ldq d a _ _ sp len => ldqFault d a sp len
  | .stq d a _ _ sp len => ldqFault d a sp len
  | .prf a _ _ lvl => opnd (bad16 a || decide (2 ≤ lvl.toNat))
  | .fence scope => opnd (decide (5 ≤ scope.toNat))
  | .sbind d a f => opnd (bad16 d || bad16 a || decide (1 < f.toNat))
  | .sset d a _ _ sp => opnd (bad16 d || (sp == 0 && bad16 a))
  | .sring d a => opnd (bad8 d || bad16 a)
  | .sstop d => opnd (bad16 d)
  | .sstat _ a f => opnd (bad16 a || decide (3 < f.toNat))
  | .sout d a => opnd (bad16 d || bad8 a)
  | .pgdist d _ _ => opnd (bad16 d)
  | .cpy d a _ dsp ssp => copyFault d a dsp ssp
  | .cpy2 d a _ dsp ssp => copyFault d a dsp ssp
  | .cpyl2 _ a _ osp _ => opnd (osp == 0 && bad16 a)
  | .chain d a b => opnd (bad16 d || bad16 a || bad16 b)
  | .mcast _ a _ ssp => opnd (ssp == 0 && bad16 a)
  | .gwin d a _ _ => opnd (bad16 d || bad16 a)
  | .scrub _ a _ => opnd (bad16 a)
  | .swarm a clr => swarmFault a clr
  | .migr a _ => opnd (bad16 a)
  | .atom d a _ ret _ op => atomFault d a ret (op == 7)
  | .atomf d a _ ret => atomFault d a ret false
  | .atomfQ a b => opnd (bad16 a || bad8 b)
  | .bind _ a _ _ scope => opnd (bad16 a || decide (5 ≤ scope.toNat))
  | .tlarm d a b kind => tlarmFault d a b kind
  | .lsend d a _ ssp => linkFault d a ssp
  | .lrecv d a _ dsp => linkFault d a dsp
  | .lradd d _ _ => opnd (bad16 d)
  | .lslot d a b off => firstCause [(off == 1 && (a != 0 || b != 0), .illegal), (bad16 d, .illegalOperand)]
  | .evict d a _ _ => opnd (bad16 d || bad16 a)
  | .rmap _ a _ _ => opnd (bad16 a)
  | .eqpost d a _ arm => firstCause [(arm == 0 && d != 0, .illegal), (bad16 a, .illegalOperand)]
  | .eqpeek _ a _ => opnd (bad16 a)
  | .eqrel a _ => opnd (bad16 a)
  | .eqcut a _ => opnd (bad16 a)
  | .spill a _ => opnd (bad16 a)
  | .fill a _ => opnd (bad16 a)
  | .fadd o => vb2Fault 3 o
  | .fsub o => vb2Fault 3 o
  | .fmul o => vb2Fault 3 o
  | .ffma o => vb3Fault 3 o
  | .fmin o => vb2Fault 3 o
  | .fmax o => vb2Fault 3 o
  | .fabs o => vb1Fault 3 o
  | .fneg o => vb1Fault 3 o
  | .frcp o => vb1Fault 3 o
  | .frsq o => vb1Fault 3 o
  | .fexp2 o => vb1Fault 3 o
  | .flog2 o => vb1Fault 3 o
  | .ftanh o => vb1Fault 3 o
  | .fcmp o => cmpFault 8 o
  | .iadd o => vb2Fault 2 o
  | .isub o => vb2Fault 2 o
  | .imul o => vb2Fault 4 o
  | .imad o => vb3Fault 2 o
  | .imin o => vb2Fault 2 o
  | .imax o => vb2Fault 2 o
  | .vecAnd o => vb2Fault 1 o
  | .vecOr o => vb2Fault 1 o
  | .vecXor o => vb2Fault 1 o
  | .lop3 o => lop3Fault o
  | .vecShl o => vb2Fault 1 o
  | .vecShr o => vb2Fault 1 o
  | .vecSra o => vb2Fault 1 o
  | .fshl o => vb3Fault 1 o
  | .fshr o => vb3Fault 1 o
  | .vecPopc o => vb1Fault 1 o
  | .vecClz o => vb1Fault 1 o
  | .icmp o => cmpFault 6 o
  | .mov o => vb1Fault 1 o
  | .sel o => selFault o
  | .bcst o => bcstFault o
  | .perm o => vb2Fault 1 o
  | .rot o => bcstFault o
  | .cvt o => cvtFault o
  | .rsum o => rsumFault o
  | .rmax o => rmaxFault o
  | .rmin o => rmaxFault o
  | .scan o => scanFault o
  | .vcmpb o => vcmpbFault o
  | .ldt o => ldtFault o
  | .mset o => msetFault o
  | .shape _ _ fb fa _ _ _ _ _ => shapeFault fa fb
  | .ringdef _ off fmt base slots rows kb => ringdefFault off fmt base slots rows kb
  | .mscl _ norm k => msclFault norm k
  | .mdrain _ _ _ d => opnd (qopBad d)
  | .atts _ _ _ _ _ _ _ kh => attFault kh
  | .attv _ _ _ kh => attFault kh
  | .attm _ _ _ _ _ _ kh => attFault kh
  | .mstat _ d => opnd (qopBad d)
  | .rowst _ ra keepa load d => rowstFault ra keepa load d
  | .repsel _ rule => repselFault rule
  | .memb d a form => membFault d a form
  | .isect d a b => mergeFault d a b
  | .union d a b => mergeFault d a b
  | .spdot _ a b vfmt => spdotFault a b vfmt
  | .ixld d a => ixldFault d a
  | .ixst d a => ixstFault d a
  | .ixmov d a form => ixmovFault d a form
  | .ixcnt d a form => ixcntFault d a form
  | .had d a _ => hadFault d a
  | .qst d a b _ ifmt hadn => qstFault d a b ifmt hadn 0
  | .qstm d a b _ ifmt hadn sel => qstFault d a b ifmt hadn sel.toNat
  | .qsel _ mask => qselFault mask
  | .ctbl d b => ctblFault d b
  | .deq d a b _ ofmt => deqFault d a b ofmt
  | .cvtx d a _ pf => cvtxFault d a pf
  | .cvtn d a b ofmt => cvtnFault d a b ofmt
  | .qhdr d a _ => qhdrFault d a
  | .qerr d a b ifmt => qerrFault d a b ifmt
  | .qstat d _ => qstatFault d
  | .hadw d a _ => hadFault d a
  | .nop | .br .. | .brq .. | .call .. | .ret | .jmpq .. | .lbrk .. | .phase .. | .yield | .jobEnd | .trap ..
  | .rft .. | .ctxsel .. | .tstamp .. | .halt | .tjoin .. | .addi .. | .andi .. | .ori .. | .shli .. | .shri ..
  | .li .. | .lih .. | .divu .. | .remu .. | .sts .. | .wmark | .acq .. | .rel .. | .tryacq .. | .tlget ..
  | .mzero .. | .mma .. | .mmat .. | .madd .. | .rskip .. | .sigcfg .. | .sigh .. | .bkt | .repgat ..
  | .repscat .. | .memba .. | .bmand .. | .bmor .. | .bmpfx .. | .fetchWord | .faultMarker | .trapTaken
  | .deadlock | .landing | .landingDataArrival | .earlyLanding | .queueUnblock | .contextSwitch
  | .timesliceExpiry | .contextAging | .contextReady | .rdvMarker | .phaseMarker | .phaseFlagSet
  | .endOfPhaseBundle | .fabricPhaseTimeout | .writeAck | .loadReturn | .translationWalk | .nextPageWalk
  | .portMigrationWaitEnd | .streamFill | .outputDrain | .pumpSlotFill | .jobEndCheck | .jobEndComplete
  | .taskCompletionReport | .asyncCommandComplete | .copyDispatch | .syncWordCount | .watermarkAdvance
  | .chainRecord | .mcastGroupChange | .atomicAtHome | .atomicLineWriteback | .bindApply | .holdGrant
  | .holdRelease | .waitSatisfied | .waitTimeout | .evictApply | .eqpostArrival | .eqTag | .eqrelArrival
  | .eqcutArrival | .eqpeekArrival | .egressDelivery | .eqdeliv | .eqack | .eqreset | .workQueueDoorbell
  | .launchRecordBegin | .indirectCountRead | .stepInstantiate | .nodeReady | .bushelProbe | .skipCopy
  | .bushelFill | .nodeDispatch | .nodeAging | .taskRequeue | .launchComplete | .furlongAccessResume
  | .pageFaultService | .hwSpill | .hwFill | .spillApply | .fillApply | .scheduleTick | .linkLandingDrain
  | .unscheduledRequest | .flitReplay | .portDown | .unscheduledTimeout | .portRetrain | .fquiesceHold
  | .memoryReadArrival | .refreshDue | .groupInactive | .forcedRefreshStart | .refreshEnd | .refcfgAlign
  | .mscflushSlice | .mscflushFrame | .mscflushDone | .mscpinPin | .mscpinUnpin | .mscpinDone | .waygate
  | .pwrreqGateScratchpad | .pwrreqWakeScratchpad | .pwrreqGateQuarter | .pwrreqWakeQuarter | .pwrreqGateBank
  | .pwrreqWakeBank | .regionAwake | .xclk | .crossingDrainDone | .relockDone | .otinv | .otinvDone | .bankfree
  | .semRead | .semWrite | .freelistTailWrite | .savePoolTailWrite | .eventPost | .evheadWrite | .dmembWrite
  | .rngseedWrite | .registerWrite | .hostAccess | .powerOn | .bootStepComplete | .powerStepDown | .powerStepUp
  | .thermalShutdown | .secondTierRefresh | .firmwareScrub | .powerManagerRequest | .portTrainingDone
  | .regionGated | .islandLevelChangeDone => none

end Sys2Proof
end

