-- ==== Sys2Proof/Machine/Operands.lean ====
section
/-! DEFINITION. The operand forms (R61, R63, R168): displacements, memory operands, and register blocks. -/
namespace Sys2Proof.Machine

/-- The target of a BR-form transfer: the address of the word plus 4 × w, formed exactly (R64). -/
def brTarget (addr : Nat) (w : BitVec 16) : Int := addr + 4 * w.toInt

/-- The byte offset of a memory operand (R168): an index register read as a signed value, or b × scale. -/
def memOff (im : BitVec 1) (b : BitVec 5) (scale : Nat) : M Int := do
  if im = 1 then pure (Int.ofNat (b.toNat * scale))
  else do
    let v ← rdX b
    pure v.toInt

/-- The scratchpad offset of a memory operand whose a field names an x register (R183): x[a] unsigned plus the
offset, formed exactly. -/
def padOff (a : BitVec 5) (im : BitVec 1) (b : BitVec 5) (scale : Nat) : M Int := do
  let base ← rdX a
  let off ← memOff im b scale
  pure (base.toNat + off)

/-- The length of an access of SIZE (R182). -/
def sizeLen (size : BitVec 2) : Nat := 2 ^ size.toNat

/-- A loaded value extended to 64 bits (R182). -/
def extend (len : Nat) (sx : Bool) (b : Bytes) : DWord :=
  if sx then (BitVec.ofNat (8 * len) (bytesToNat b)).signExtend 64 else BitVec.ofNat 64 (bytesToNat b)

/-- The registers of a block at index i with extent h × w, row-major (R63). -/
def blockRegs (i h w : Nat) : List Nat :=
  (List.range h).flatMap fun r => (List.range w).map fun c => 8 * (i / 8 + r) + (i % 8 + c)

/-- The queue-entry length of LDQ and STQ (R184). -/
def ldqLen (len : BitVec 3) : Nat := 64 * 2 ^ len.toNat

end Sys2Proof.Machine
end

