-- ==== Sys2Proof/Machine/Queues.lean ====
section
/-! DEFINITION. Data queues and bq (R21 to R25), stream fills, pops, writes and drains (R188 to R197), and the hold
buffers through which an instruction takes its source blocks (R264, R286). -/
namespace Sys2Proof.Machine

/-! ## Data queues -/

/-- Entries of a data queue, and of bq (R21). -/
def queueEntries : Nat := 4
def branchEntries : Nat := 16

/-- An entry of a queue has 2,048 bytes; a shorter push is filled with zeros (R24). -/
def entry (b : Bytes) : Bytes := padTo 2048 0 b

/-- QUEUE_PROTOCOL unless engine `e` is the queue's bound producer (R23). -/
def needProducer (e : Engine) (q : Nat) : M Unit := do
  let s ← get
  match (s.dataQ q).bind with
  | some (p, _) => need (p == e) .queueProtocol
  | none => fault .queueProtocol

/-- QUEUE_PROTOCOL unless engine `e` is the queue's bound consumer (R23). -/
def needConsumer (e : Engine) (q : Nat) : M Unit := do
  let s ← get
  match (s.dataQ q).bind with
  | some (_, c) => need (c == e) .queueProtocol
  | none => fault .queueProtocol

/-- A queue has an entry free and unreserved. -/
def DataQ.hasRoom (d : DataQ) : Bool := decide (d.entries.length + d.reserved.length < queueEntries)

/-- Put one entry at the tail; behind reserved entries it waits its turn (R184). -/
def DataQ.put (d : DataQ) (b : Bytes) : DataQ :=
  if d.reserved = [] then { d with entries := d.entries ++ [entry b] }
  else { d with reserved := d.reserved ++ [(0, some (entry b))] }

/-- Entries whose data has returned leave the reserved list in order (R184). -/
def DataQ.settle : Nat → DataQ → DataQ
  | 0, d => d
  | f + 1, d => match d.reserved with
    | (_, some b) :: r => DataQ.settle f { d with entries := d.entries ++ [b], reserved := r }
    | _ => d

/-- Push one entry (R23 to R25). -/
def pushQ (e : Engine) (q : Nat) (b : Bytes) : M Unit := do
  needProducer e q
  let s ← get
  await (s.dataQ q).hasRoom
  set (s.setDataQ q ((s.dataQ q).put b))

/-- Pop one entry (R23 to R25). -/
def popQ (e : Engine) (q : Nat) : M Bytes := do
  needConsumer e q
  let s ← get
  match (s.dataQ q).entries with
  | [] => wait
  | b :: r => do
    set (s.setDataQ q { s.dataQ q with entries := r })
    pure b

/-- Push one bit to bq (R23, R25). -/
def pushBq (e : Engine) (b : Bool) : M Unit := do
  let s ← get
  need (s.ctx.bq.producer == some e) .queueProtocol
  await (decide (s.ctx.bq.bits.length < branchEntries))
  set { s with ctx.bq.bits := s.ctx.bq.bits ++ [b] }

/-- Pop one bit of bq, as SEQ does at fetch (R25, R126). -/
def popBq : M Bool := do
  let s ← get
  need s.ctx.bq.producer.isSome .queueProtocol
  match s.ctx.bq.bits with
  | [] => wait
  | b :: r => do
    set { s with ctx.bq.bits := r }
    pure b

/-! ## Fills (R195, R196) -/

/-- A failure's record names a capability (R196). -/
def withCap {α : Type} (c : Cap) (x : M α) : M α := fun s =>
  match x s with
  | .error (.trap t) s' => .error (.trap { t with cap := c }) s'
  | r => r

/-- Read one piece of a stream: from the scratchpad, or from memory through the stream's holder. L1 serves the fills
of VEC, IDX and QNT from DATA objects (R91). -/
def readPiece (i : Nat) (t : Stream) (c : Cap) (o n : Nat) : M Bytes := do
  if t.desc.sp then withCap c (readPad o n)
  else do
    let s ← get
    await (!s.marked c o n)
    let g ← readObj (.stream i) c o n (t.desc.engn != 3 && c.type.toNat == tyData)
    match g with
    | .bytes b => pure b
    | .later => wait
    | .bad t => raise t
    | .dataBad t => raise { t with noskip := false }

/-- Read block `k` of a run, with its headers. -/
def readBlock (i : Nat) (t : Stream) (k : Nat) : M Block := do
  let d := t.desc
  let parts ← (d.pieces k).mapM fun p => readPiece i t t.ldcap (addOff t.dcur p.1) p.2
  let hb := hdrBytes d.fmt
  let n := if hb = 0 then 0 else d.present k / 32
  let hs ← (List.range n).mapM fun j =>
    readPiece i t t.lhcap (addOff t.hcur (d.header t.dcur (k * (blockElems d.fmt / 32) + j))) hb
  let absent := if hb = 0 then [] else (List.replicate (blockElems d.fmt / 32 - n) (emptyHdr d.fmt)).flatten
  pure { bytes := entry parts.flatten, hdrs := hs.flatten ++ absent }

/-- Blocks that a stream buffers (R188). -/
def streamBuffer : Nat := 4

/-- The trap record of a stream's fault (R196): the stream in TINFO[3:0] and the block's index in TINFO[47:8]. -/
def streamTrap (i k : Nat) (t : TrapInfo) : TrapInfo := { t with tinfo := i + 256 * (k % 2 ^ 40), noskip := false }

/-- The access that a stream's walks were for is over. -/
def State.doneWalks (s : State) (i : Nat) : State :=
  if (s.stream i).holder.walked = [] then s
  else s.setStream i { s.stream i with holder := { (s.stream i).holder with walked := [] } }

/-- Fill the next block of an input stream into its buffer; a failing fill puts the stream into FAULT (R196). Answers
whether a block or a fault is now there; `false` says that the data comes later. -/
def State.fillStream (s : State) (i : Nat) : State × Bool :=
  let t := s.stream i
  let k := t.done + t.buf.length
  match readBlock i t k s with
  | .ok b s' => ((s'.setStream i { s'.stream i with buf := t.buf ++ [b] }).doneWalks i, true)
  | .error (.trap e) s' =>
    ((s'.noteBad e).setStream i { s'.stream i with
      st := .fault, fillFault := some { streamTrap i k e with bad := .told }, reported := false }, true)
  | .error _ s' => (s', false)

/-- A stream is running with a block still to fill and room for it. -/
def Stream.fillable (t : Stream) : Bool :=
  t.st == .run && !t.desc.out && decide (t.buf.length < streamBuffer) && decide (t.done + t.buf.length < t.desc.blocks)

/-- Take the oldest filled block (R194). -/
def State.takeBlock (s : State) (i : Nat) : State :=
  let t := s.stream i
  let last := t.done + 1 == t.desc.blocks
  s.setStream i { t with buf := t.buf.tail, done := t.done + 1, st := if last then .ended else t.st }

/-- An input stream that an engine names (R194, R263, R282): once it has a run, its DIR, its ENGN and its format must
fit. -/
def checkIn (e : Engine) (i : Nat) (fmts : List Nat) : M Unit := do
  let s ← get
  let t := s.stream i
  if t.st ≠ .idle then
    need (!t.desc.out && t.desc.engn == e.code && fmts.contains t.desc.fmt) .illegalOperand

/-- An output stream that an engine names (R194). -/
def checkOut (e : Engine) (i : Nat) (fmts : List Nat) : M Unit := do
  let s ← get
  let t := s.stream i
  if t.st ≠ .idle then
    need (t.desc.out && t.desc.engn == e.code && fmts.contains t.desc.fmt) .illegalOperand

/-- Every stream format. -/
def anyFmt : List Nat := List.range 10

/-- Pop the next block of a stream, for an instruction that accepts `fmts` (R194 to R196). -/
def popStream (e : Engine) (i : Nat) (fmts : List Nat := anyFmt) : M Block := do
  checkIn e i fmts
  let s ← get
  let t := s.stream i
  let ready ← match t.st with
    | .idle | .ended => wait
    | .run => pure true
    | .fault => match t.buf, t.fillFault, t.reported with
      | [], some f, false => do
        set (s.setStream i { t with reported := true })
        raise f
      | [], _, _ => do
        set (s.setStream i { t with st := .run, fillFault := none, reported := false })
        pure true
      | _ :: _, _, _ => pure true
  await ready
  let s ← get
  let s1 := if (s.stream i).buf = [] then (s.fillStream i).1 else s
  set s1
  match (s1.stream i).buf, (s1.stream i).fillFault with
  | b :: _, _ => do
    set (s1.takeBlock i)
    pure b
  | [], some f => do
    set (s1.setStream i { s1.stream i with reported := true })
    raise f
  | [], none => wait

/-! ## Output (R197) -/

/-- A write of a drain to a gated quarter fails, and is not put off as a store is (R197). -/
def drainGated (c : Cap) (o n : Nat) : M Unit := do
  let s ← get
  let gated := (s.placeRange c o n).any fun p => match p.1 with | .at a => s.quarterGated a | _ => false
  if gated then raise { cause := .powerState, toff := o, tinfo := n, cap := c }

/-- Write one piece of a block to its place, under the number that the block has. -/
def writePiece (i : Nat) (t : Stream) (c : Cap) (o : Nat) (b : Bytes) (stamp : Nat) : M Unit := do
  if t.desc.sp then withCap c (writePad o b)
  else do
    let s ← get
    await (!s.marked c o b.length)
    if !s.ctx.job.task then (s.rangesOf c o b.length).forM fun r => drainGated r.1 r.2.1 r.2.2
    writeObj (.stream i) c o b (some stamp)

/-- Send a written block to its destination. -/
def drainBlock (i : Nat) (t : Stream) (k : Nat) (b : Block) : M Unit := do
  (t.desc.writes t.dcur t.hcur k b).forM fun w => writePiece i t (if w.1 then t.lhcap else t.ldcap) w.2.1 w.2.2 b.stamp

/-- A block's writes count no longer (R39). -/
def State.dropAck (s : State) (stamp : Nat) : State :=
  { s with acks := s.acks.filter fun w => !(w.uid == s.ctx.job.uid && w.stamp == stamp) }

/-- Drain the oldest written block of an output stream. Its writes have counted in the write-acknowledge count since
the block was written. Where they fail, the block leaves the buffer and the count, and the stream keeps its first failure
for the next write or END. Answers false where nothing can drain now. -/
def State.drainStream (s : State) (i : Nat) : State × Bool :=
  let t := s.stream i
  match t.buf with
  | [] => (s, false)
  | b :: r =>
    let k := t.done - t.buf.length
    match drainBlock i t k b s with
    | .ok _ s' => ((s'.setStream i { s'.stream i with buf := r }).doneWalks i, true)
    | .error (.trap e) _ =>
      let fault := t.drainFault <|> some { streamTrap i k e with bad := .told }
      (((s.noteBad e).dropAck b.stamp).setStream i { t with buf := r, drainFault := fault }, true)
    | .error _ _ => (s, false)

/-- Write the next block of an output stream (R194, R197); a block to the scratchpad is written there at once. -/
def writeStream (e : Engine) (i : Nat) (b : Block) (fmts : List Nat := anyFmt) : M Unit := do
  checkOut e i fmts
  let s ← get
  let t := s.stream i
  await (t.st == .run)
  match t.drainFault with
  | some f => do
    set (s.setStream i { t with drainFault := none })
    raise f
  | none => do
    await (decide (t.buf.length < streamBuffer))
    let last := t.done + 1 == t.desc.blocks
    let t' := { t with buf := t.buf ++ [{ b with stamp := s.ctx.acc.nextLoad }], done := t.done + 1
                       st := if last then StreamState.ended else t.st }
    let s' := s.setStream i t'
    if t.desc.sp then set (s'.drainStream i).1
    else if s.ctx.job.task then do
      drainBlock i t t.done b
      modify fun s => s.setStream i { t' with buf := t.buf, holder := (s.stream i).holder }
    else set (if s.late then s'.countWrite true else ((s'.countWrite true).drainStream i).1)

/-! ## Source and destination blocks through the hold buffer (R264, R286) -/

/-- Take the next source block: one that an earlier attempt has popped, or a fresh one, which the hold buffer keeps
until the instruction retires. -/
def takeSource (e : Engine) (pop : M Block) : M Block := do
  let s ← get
  let h := s.hold e
  match h.blocks[h.pos]? with
  | some b => do
    set (s.setHold e { h with pos := h.pos + 1 })
    pure b
  | none => do
    let b ← pop
    let s ← get
    let h := s.hold e
    set (s.setHold e { h with blocks := h.blocks ++ [b], pos := h.pos + 1 })
    pure b

/-- Of sources in pop order, each with the blocks that it wants, those that an instruction still looks at, where the
hold buffer has `h` blocks: a source whose blocks are all held is neither awaited nor checked again (R264, R286). -/
def unheld {α : Type} : Nat → List (α × Nat) → List α
  | _, [] => []
  | h, (x, n) :: r => if 0 < n ∧ n ≤ h then unheld (h - n) r else x :: unheld (h - n) r

/-- The blocks in an engine's hold buffer. -/
def State.heldBlocks (s : State) (e : Engine) : Nat := (s.hold e).blocks.length

/-- A source block from a stream or a queue. -/
def sourceStream (e : Engine) (i : Nat) (fmts : List Nat := anyFmt) : M Block := takeSource e (popStream e i fmts)
def sourceQueue (e : Engine) (q : Nat) : M Block := takeSource e (do let b ← popQ e q; pure { bytes := b })

/-- Push one output block. -/
def pushOut (e : Engine) (o : OutItem) : M Unit :=
  match o.dest with
  | .stream i => writeStream e i o.block o.fmts
  | .queue q => pushQ e q o.block.bytes
  | .branch => pushBq e o.bit

/-- Push what an instruction has formed, in order; what is not yet pushed stays in the hold buffer. -/
def pushAll (e : Engine) : List OutItem → M Unit
  | [] => pure ()
  | o :: r => do
    modify fun s => s.setHold e { s.hold e with out := some (o :: r) }
    pushOut e o
    pushAll e r

/-- Every element zero. -/
def MatAcc.zeroed (v : MatAcc) : MatAcc := { v with elems := List.replicate (v.m * v.n) 0 }

/-- What follows an instruction's last write. -/
def After.run (a : After) (c : Ctx) : Ctx :=
  match a with
  | .nothing => c
  | .zeroAcc n => { c with mat.acc := c.mat.acc.set {} n (c.mat.acc.get {} n).zeroed }
  | .clearMat => { c with mat := { c.mat with macs := 0, rwait := 0, hwait := 0 } }
  | .spdw v => { c with idx.spdw := v }

/-- Push what is left of an instruction's output, and do what follows it. -/
def finishOut (e : Engine) (l : List OutItem) : M Unit := do
  pushAll e l
  modify fun s => s.modCtx (s.hold e).after.run

/-- The output of an instruction, and what follows its last write. -/
def emit (e : Engine) (l : List OutItem) (after : After := .nothing) : M Unit := do
  if after ≠ .nothing then modify fun s => s.setHold e { s.hold e with after := after }
  if l = [] then modCtx after.run else finishOut e l

end Sys2Proof.Machine
end

