-- ==== Sys2Proof/Machine/Landing.lean ====
section
/-! DEFINITION. VEC's issue cycles and pending landings (R27 to R34), and the writes of vector registers under a lane
mask (R284). -/
namespace Sys2Proof.Machine

/-! ## Vector registers -/

def State.vreg (s : State) (r : Nat) : VReg := s.ctx.vec.v.get VReg.zero r
/-- A lane mask; m0 reads as all ones (R281). -/
def State.mreg (s : State) (n : Nat) : BitVec 512 := if n = 0 then BitVec.allOnes 512 else s.ctx.vec.m.get 0 n

/-- Lanes from a list, where the mask's bit is 1. -/
def mergeFrom (m : BitVec 512) : Nat → VReg → VReg → VReg
  | i, o :: old, n :: new => (if m.getLsbD i then n else o) :: mergeFrom m (i + 1) old new
  | _, _, _ => []
def mergeLanes (m : BitVec 512) (old new : VReg) : VReg :=
  if m = BitVec.allOnes 512 then new else mergeFrom m 0 old new

/-- Write a register in the lanes of a mask; a write of every lane also replaces an uncorrectable one. -/
def State.setVreg (s : State) (r : Nat) (m : BitVec 512) (v : VReg) : State :=
  { s with ctx.vec.v := s.ctx.vec.v.set VReg.zero r (mergeLanes m (s.vreg r) v)
           ctx.vec.bad := if m = BitVec.allOnes 512 then s.ctx.vec.bad.filter (· != r) else s.ctx.vec.bad }

/-- Write the registers of a block, row-major (R63). -/
def State.setBlock (s : State) (i h w : Nat) (m : BitVec 512) (vs : List VReg) : State :=
  ((blockRegs i h w).zip vs).foldl (fun s p => s.setVreg p.1 m p.2) s

/-! ## Issue cycles (R27) -/

/-- The issue cycles of a VEC instruction: one for each register of its destination block, and at least one. -/
def vecCycles : Instr → Nat
  | .fadd o | .fsub o | .fmul o | .ffma o | .fmin o | .fmax o | .fabs o | .fneg o | .frcp o | .frsq o | .fexp2 o
  | .flog2 o | .ftanh o | .fcmp o | .iadd o | .isub o | .imul o | .imad o | .imin o | .imax o | .vecAnd o | .vecOr o
  | .vecXor o | .vecShl o | .vecShr o | .vecSra o | .fshl o | .fshr o | .vecPopc o | .vecClz o | .icmp o | .mov o
  | .sel o | .bcst o | .perm o | .rot o | .cvt o | .rsum o | .rmax o | .rmin o | .scan o => o.rows * o.cols
  | .lop3 o => (o.h.toNat + 1) * (o.w.toNat + 1)
  | .ldt o => (o.h.toNat + 1) * (o.w.toNat + 1)
  | _ => 1

/-! ## Landings (R28, R30, R33) -/

/-- Order by what remains; ties stay in program order. -/
def insertLanding (l : Landing) : List Landing → List Landing
  | [] => [l]
  | k :: r => if k.rem < l.rem then k :: insertLanding l r else l :: k :: r
def sortLandings (l : List Landing) : List Landing := l.foldr insertLanding []

/-- Write a landing's registers. -/
def State.land (s : State) (l : Landing) (d : List VReg) : State := s.setBlock l.base l.h l.w l.mask d

/-- A landing after `n` issue cycles. -/
def Landing.pass (l : Landing) (n : Nat) : Landing := { l with rem := l.rem - n }

/-- The landings due in the next `n` issue cycles are written in order; one whose data is absent holds back those
after it, one whose data has failed writes nothing and stays. -/
def landDue (n : Nat) : List Landing → State → State × List Landing
  | [], s => (s, [])
  | l :: r, s =>
    if n < l.rem then (s, (l :: r).map (·.pass n))
    else match l.data with
      | some d => landDue n r (s.land l d)
      | none =>
        if l.failed.isSome then
          let x := landDue n r s
          (x.1, l.pass n :: x.2)
        else (s, (l :: r).map (·.pass n))

/-- A landing is due that has not been written (R30, R55): the core stands still, unless its data has failed. -/
def overdue (l : List Landing) : Bool := l.any fun x => x.rem == 0 && x.failed.isNone

/-- The failure of a landing that is due (R33). -/
def landingTrap (l : Landing) (t : TrapInfo) : TrapInfo := { t with taddr := some l.addr, noskip := true }

/-- Raise the first due failure, where no absent landing stands before it. -/
def raiseDue : M Unit := do
  let s ← get
  match s.ctx.vec.slots with
  | [] => pure ()
  | l :: r => match l.failed with
    | some t =>
      if l.rem = 0 then do
        set ({ s with ctx.vec.slots := r } : State)
        raise (landingTrap l t)
      else pure ()
    | none => pure ()

/-- `n` issue cycles pass: the instruction's results have been written, the landings follow (R28, R30). -/
def elapse (n : Nat) : M Unit := do
  let s ← get
  if s.ctx.vec.slots = [] then pure ()
  else
    let x := landDue n (sortLandings s.ctx.vec.slots) s
    set ({ x.1 with ctx.vec.slots := x.2, ctx.frozen := overdue x.2 } : State)
    raiseDue

/-- Before its first issue cycle, an instruction of `n` cycles finds every earlier landing written. One that falls due
before its last cycle must have its data: the core stands still until then (log 16). -/
def landingGate (n : Nat) : M Unit := do
  let s ← get
  if s.ctx.vec.slots.any fun l => l.rem == 0 then wait
  else if s.ctx.vec.slots.any fun l => decide (l.rem < n) && !l.settled then do
    set ({ s with ctx.frozen := true } : State)
    wait
  else pure ()

/-- The landings due before the last of an instruction's `n` cycles are written before its results. -/
def landBefore (n : Nat) : M Unit := do
  let s ← get
  let early := (sortLandings s.ctx.vec.slots).filter fun l => decide (l.rem < n) && l.data.isSome
  if early = [] then pure ()
  else
    let s1 := early.foldl (fun s l => s.land l (l.data.getD [])) s
    set ({ s1 with ctx.vec.slots := s.ctx.vec.slots.filter fun l => !(decide (l.rem < n) && l.data.isSome) } : State)

/-- What the retirement of an instruction brings with it: VEC's issue cycles pass, whether its predicate held or not
(R67). -/
def retire (e : Engine) (i : Instr) : M Unit := if e = .vec then elapse (vecCycles i) else pure ()

end Sys2Proof.Machine
end

