-- ==== Sys2Proof/Machine/Issue.lean ====
section
/-! DEFINITION. How the dispatcher hands a word to its engine, and how an engine runs the head of its queue (R10 to
R20, R48, R66 to R69, R122, R123, R137). -/
namespace Sys2Proof.Machine

/-- What an instruction of an engine finds with it in its queue (R65, R122). -/
structure Env where
  rnd : BitVec 3 := 0
  sat : BitVec 2 := 0
  k : Sparse Word := []
  addr : Nat := 0
  deriving DecidableEq, Repr

/-- The outcome type of a step. -/
abbrev Out := Host.Outcome State Fault Refusal

/-- A step that is not due. -/
def notDue (row : String) : Out := .fault (.notDue row)

/-- Answer a step whose condition holds, or say that it is not due. -/
def whenDue (row : String) (due : Bool) (s : State) : Out := if due then .next s else notDue row

/-! ## What a prefix may set (R66, R82) -/

/-- Whether an instruction honours RND, saturate to finite, and wrap. -/
def honours : Instr → Bool × Bool × Bool
  | .add .. | .sub .. | .mul .. | .addi .. => (false, true, true)
  | .fadd _ | .fsub _ | .fmul _ | .ffma _ | .frcp _ | .frsq _ | .fexp2 _ | .flog2 _ | .ftanh _ => (true, true, false)
  | .iadd _ | .isub _ | .imad _ => (false, true, true)
  | .imul o => (false, decide (o.fn.toNat < 2), decide (o.fn.toNat < 2))
  | .cvt o => (true, decide (o.fn.toNat < 2) || o.fn == 4 || o.fn == 5, o.fn == 2 || o.fn == 3)
  | .rsum o | .scan o => (!o.fn.getLsbD 0, false, false)
  | .mma .. | .mmat .. | .mscl .. | .mdrain .. | .madd .. => (true, true, false)
  | .had .. | .hadw .. => (true, false, false)
  | .deq .. => (true, true, false)
  | .cvtn .. => (true, true, true)
  | _ => (false, false, false)

/-- ILLEGAL_OPERAND where a prefix sets what its instruction does not honour (R66). -/
def pfxFault (i : Instr) (rnd : BitVec 3) (sat : BitVec 2) : Bool :=
  let h := honours i
  (rnd != 0 && !h.1) || (sat == satFinite && !h.2.1) || (sat == satWrap && !h.2.2)

/-! ## Waiting and retiring -/

/-- The core is stopped: by a landing whose data is absent (R30), or by a level change of its islands (R465). -/
def State.coreFrozen (s : State) : Bool :=
  s.ctx.frozen || s.power.changing.any fun i => i / 3 == s.cur.core && i % 3 != 2

/-- One more in a saturating 64-bit counter. -/
def satInc (v : DWord) : DWord := if v = BitVec.allOnes 64 then v else v + 1

/-- The context waits in WAIT or in TJOIN, or is not live: such cycles do not count under R35 and R389. -/
def State.uncounted (s : State) : Bool :=
  s.ctx.status != .live || s.ctx.seq.join.isSome || match s.ctx.seq.wait with | .waiting .. => true | _ => false

/-- An object that a running input stream of a context reads. -/
def Ctx.streamReads (c : Ctx) (cap : Cap) : Bool :=
  c.acc.s.any fun p => p.2.st == .run && !p.2.desc.out && !p.2.desc.sp
    && ((p.2.ldcap.asid == cap.asid && p.2.ldcap.obj == cap.obj) || (p.2.lhcap.asid == cap.asid && p.2.lhcap.obj == cap.obj))

/-- A side in a context's scratchpad. -/
def State.padSide (s : State) (x : Side) (c : Ctx) : Bool :=
  match x with
  | .pad u _ => u == c.job.uid
  | .group t e _ dom => c.group == dom && s.units.mcast.any fun m => m.table == t && m.entry == e && m.ranks.contains c.rank
  | .mem .. | .gone _ | .l2 .. => false

/-- A side of a command's bytes for a context: its scratchpad, with its rings, or what its streams read (R35). -/
def State.sideFeeds (s : State) (x : Side) (c : Ctx) : Bool :=
  s.padSide x c || match x with
    | .mem cap _ => c.streamReads cap
    | .pad .. | .group .. | .gone _ | .l2 .. => false

/-- A command whose bytes for a context are in flight (R35), or one of its link commands (R428). -/
def State.feeds (s : State) (d : Cmd) (c : Ctx) : Bool :=
  !d.held && match d.body with
  | .copy x => s.sideFeeds x.dst c
  | .chain dst _ _ _ => c.streamReads dst
  | .lrecv _ _ dst .. => s.sideFeeds dst c || d.uid == c.job.uid
  | .lradd .. | .eqpeek .. | .scrub .. | .lsend .. => d.uid == c.job.uid
  | .atom cap .. | .atomQ cap _ | .mass cap _ => c.streamReads cap
  | .evict e => c.streamReads e.pages || c.streamReads e.remap
  | .migr .. | .gwin .. | .bind .. | .rel .. | .eqpost .. | .eqrel .. | .eqcut .. => false
  | .spill .. | .fill .. => false

/-- What stands at the head of ACC's queue waits for an answer: an LSLOT, a TRYACQ, or an SSET whose descriptor is read
(R35). -/
def State.accAsks (s : State) : Bool :=
  match s.queue .acc with
  | .instr (.lslot ..) .. :: _ | .instr (.tryacq ..) .. :: _ => true
  | .instr (.sset d a b im sp) .. :: _ =>
    let t := s.stream d.toNat
    let c := s.c a.toNat
    let o := capOffset c (if im = 1 then Int.ofNat (b.toNat * 64) else (s.x b).toInt)
    sp == 0 && t.st != .run && !(t.desc.out && !t.buf.isEmpty) && !s.marked c o 64
  | _ => false

/-- The context waits for an answer, or bytes for it are in flight: the count of R35 does not run. -/
def State.outstanding (s : State) : Bool :=
  s.crossing || !s.ctx.acc.loads.isEmpty || (s.ctx.units.asks.any fun a => !a.done) || !s.ctx.vec.slots.isEmpty
    || (s.ctx.acc.s.any fun p => p.2.fillable && !p.2.desc.sp) || s.accAsks || s.units.cmds.any fun d => s.feeds d s.ctx

/-- A core cycle in which the dispatcher fetches nothing: a frozen one counts in FREEZE_CYC (R31, R52), another counts
towards DEADLOCK unless the context is in WAIT or waits for an answer (R35). -/
def State.stall (s : State) : State :=
  if s.coreFrozen then { s with ctx.seq.freezeCyc := satInc s.ctx.seq.freezeCyc, ctx.stuck := 0 }
  else if s.uncounted || s.outstanding then { s with ctx.stuck := 0 }
  else { s with ctx.stuck := s.ctx.stuck + 1 }

/-- Run an instruction of an engine, or go on with the output of one that has been run (R264). -/
def attempt (e : Engine) (eff : M Unit) : M Unit := do
  let s ← get
  match (s.hold e).out with
  | some l => finishOut e l
  | none => eff

/-- A marker of a meeting retires: its engine's bit leaves the pending mask. -/
def Meeting.arrive (m : Meeting) (n : Nat) (e : Engine) : Meeting :=
  if m.n = n then { m with pending := m.pending &&& ~~~(1#6 <<< e.code) } else m

/-- An RDV whose markers have all retired is over (R137). -/
def State.arriveRdv (s : State) (n : Nat) (e : Engine) : State :=
  s.modSeq fun q => { q with rdvs := (q.rdvs.map (·.arrive n e)).filter fun m => m.pending != 0 }

/-- A PHASE marker retires (R48); the phase stays until its bundle. -/
def State.arrivePhase (s : State) (n : Nat) (e : Engine) : State :=
  s.modSeq fun q => { q with phases := q.phases.map (·.arrive n e) }

/-- What an engine does with the item at the head of its queue; an instruction whose predicate does not hold only
retires (R67). -/
def runItem (e : Engine) (it : Item) (eff : M Unit) : M Unit :=
  match it with
  | .instr i _ _ _ _ _ on => do
    if on then attempt e eff
    retire e i
  | .marker c _ _ => fault c
  | .rdv n _ => modify fun s => s.arriveRdv n e
  | .phase n _ => modify fun s => s.arrivePhase n e
  | .deliver d v _ => do freeX d; wrX d v
  | .seed v _ => modify fun s => { s with ctx.gen := s.ctx.gen.set 0 e.code v }

/-- What becomes of an item that an engine has run: it retires, or stays at the head, or traps there (R17). `queued`
says whether it stands in the queue already. A fault that leaves no unretired instruction (NOSKIP) retires it. -/
def conclude (e : Engine) (it : Item) (queued : Bool) (r : EStateM.Result Stop State Unit) : Out :=
  match r with
  | .ok _ s =>
    let s := { s with ctx.stuck := 0 }
    .next (if queued then s.dropHead e else s.clearHold e)
  | .error .wait s => .next ((if queued then s else s.enqueue e it).rewindHold e)
  | .error (.trap t) s =>
    if t.noskip then .next ((if queued then s.dropHead e else s.clearHold e).takeTrap e it.addr it.len t)
    else .next (((if queued then s else s.enqueue e it).rewindHold e).takeTrap e it.addr it.len t)
  | .error (.bad f) _ => .fault f

/-- The engine takes an item at once, if nothing stands before it and nothing holds it; otherwise the item is queued. -/
def steer (e : Engine) (it : Item) (eff : M Unit) (s : State) : Out :=
  if s.queue e = [] ∧ !s.heldBy e ∧ !inMask s.lag e then conclude e it false (runItem e it eff s)
  else .next (s.enqueue e it)

/-- Whether an instruction queue takes `n` words more (R11). -/
def State.room (s : State) (e : Engine) (n : Nat) : Bool := decide (queueWords (s.queue e) + n ≤ queueDepth)

/-- An engine that the launch's MASK leaves out (R368). -/
def State.masked (s : State) (e : Engine) : Bool := s.ctx.job.mask != 0 && !inMask s.ctx.job.mask e

/-- A pending prefix is orphaned (R68, R69): its marker goes to the queue of its own ENG, and fetch stops before the
word that orphaned it. -/
def orphan (p : PendingPfx) (s : State) : Out :=
  match Engine.ofCode p.eng.toNat with
  | none => .next s.stall
  | some e =>
    if s.room e 1 then
      steer e (.marker .orphanPrefix p.addr 1) (pure ())
        { s with ctx.seq.pfx := none, ctx.seq.wait := .orphan, ctx.stuck := 0 }
    else .next s.stall

/-- The item that a word and its pending prefix become when they are steered: a fault marker where a word-level fault
is found (R15, R66, R72, R368), else the instruction with its predicate and loop registers as they stand (R122, R123). -/
def State.itemOf (s : State) (e : Engine) (i : Instr) (n : Nat) (wf : Option Cause) : Item :=
  let addr := s.fetchPoint
  match s.ctx.seq.pfx with
  | none =>
    match wf with
    | some c => .marker c addr 1
    | none => if s.masked e then .marker .illegalOperand addr 1
      else .instr i addr n 0 0 s.ctx.seq.k true
  | some p =>
    match wf with
    | some c => .marker c addr 1
    | none => if pfxFault i p.rnd p.sat || s.masked e then .marker .illegalOperand addr 1
      else .instr i addr (n + 1) p.rnd p.sat s.ctx.seq.k (pfxCond s p)

/-- What an instruction finds with it in its queue. -/
def Item.env : Item → Env
  | .instr _ a _ r t k _ => { rnd := r, sat := t, k := k, addr := a }
  | it => { addr := it.addr }

/-- HAND A WORD TO ITS ENGINE (R10, R11, R15, R16, R67, R68): the dispatcher steers the instruction, with its prefix,
and goes on. -/
def issue (e : Engine) (i : Instr) (n : Nat) (wf : Option Cause) (eff : Env → M Unit) (s : State) : Out :=
  match s.ctx.seq.pfx with
  | some p =>
    if p.eng.toNat ≠ e.code then orphan p s
    else
      let it := s.itemOf e i n wf
      if s.room e it.words then steer e it (eff it.env) (s.advance n) else .next s.stall
  | none =>
    let it := s.itemOf e i n wf
    if s.room e it.words then steer e it (eff it.env) (s.advance n) else .next s.stall

/-- A SEQ word, executed by the dispatcher as it is fetched (R10): a pending prefix is orphaned, a word-level fault is
raised at once (R15), a wait holds fetch at the word. -/
def seqWord (n : Nat) (wf : Option Cause) (act : M Unit) (s : State) : Out :=
  match s.ctx.seq.pfx with
  | some p => orphan p s
  | none =>
    match wf with
    | some c => .next (s.takeTrap .seq s.ctx.seq.fetch n { cause := c })
    | none =>
      if s.masked .seq then .next (s.takeTrap .seq s.ctx.seq.fetch n { cause := .illegalOperand })
      else match act s with
        | .ok _ s' => .next s'
        | .error .wait s' => .next s'.stall
        | .error (.trap t) s' => .next (s'.takeTrap .seq s.ctx.seq.fetch n t)
        | .error (.bad f) _ => .fault f

/-! ## The head of a queue -/

/-- An engine may start what stands at the head of its queue: nothing holds it, and its context runs. -/
def State.mayRun (s : State) (e : Engine) : Bool := !s.heldBy e

/-- Run the head of an engine's queue with its meaning. -/
def runHead (e : Engine) (meaning : Instr → Env → M Unit) (s : State) : Out :=
  match s.queue e with
  | [] => .next s
  | it :: _ =>
    let i := match it with | .instr i .. => i | _ => .nop
    conclude e it true (runItem e it (meaning i it.env) s)

end Sys2Proof.Machine
end

