-- ==== Sys2Proof/Machine/Acc.lean ====
section
/-! DEFINITION. ACC's integer and capability instructions (R168 to R181). Each instruction has its effect on the
state, which its queue runs, and its meaning, which hands it to the queue. -/
namespace Sys2Proof.Machine

/-- Hand an instruction to ACC. -/
def issueAcc (i : Instr) (n : Nat) (wf : Option Cause) (eff : Env → M Unit) (s : State) : Out :=
  issue .acc i n wf eff s

/-- Read two x registers and write a third. -/
def binX (d a b : BitVec 5) (g : DWord → DWord → DWord) : M Unit := do
  let x ← rdX a
  let y ← rdX b
  freeX d
  wrX d (g x y)

/-- Read one x register and write another. -/
def unX (d a : BitVec 5) (g : DWord → DWord) : M Unit := do
  let x ← rdX a
  freeX d
  wrX d (g x)

/-! ## Three-register operations (R169, R170, Table 8) -/

def effAdd (d a b f : BitVec 5) (e : Env) : M Unit :=
  binX d a b fun x y => satInt e.sat 64 (f == 0) (operandInt (f == 0) x + operandInt (f == 0) y)
/-- ADD (R169, R170). -/
def execAdd (d a b f : BitVec 5) (s : State) : Out := issueAcc (.add d a b f) 1 (fAbove 1 f) (effAdd d a b f) s

def effSub (d a b f : BitVec 5) (e : Env) : M Unit :=
  binX d a b fun x y => satInt e.sat 64 (f == 0) (operandInt (f == 0) x - operandInt (f == 0) y)
/-- SUB (R169, R170). -/
def execSub (d a b f : BitVec 5) (s : State) : Out := issueAcc (.sub d a b f) 1 (fAbove 1 f) (effSub d a b f) s

def effMul (d a b f : BitVec 5) (e : Env) : M Unit :=
  binX d a b fun x y => satInt e.sat 64 (f == 0) (operandInt (f == 0) x * operandInt (f == 0) y)
/-- MUL (R169, R170). -/
def execMul (d a b f : BitVec 5) (s : State) : Out := issueAcc (.mul d a b f) 1 (fAbove 1 f) (effMul d a b f) s

/-- Bits [127:64] of the exact product (R169). -/
def mulHigh (sa sb : Bool) (x y : DWord) : DWord :=
  (BitVec.ofInt 128 (operandInt sa x * operandInt sb y)).extractLsb' 64 64

def effMulh (d a b f : BitVec 5) (_ : Env) : M Unit :=
  binX d a b fun x y => mulHigh (f != 1) (f == 0) x y
/-- MULH (R169). -/
def execMulh (d a b f : BitVec 5) (s : State) : Out := issueAcc (.mulh d a b f) 1 (fAbove 2 f) (effMulh d a b f) s

def effAnd (d a b : BitVec 5) (_ : Env) : M Unit := binX d a b fun x y => x &&& y
/-- AND of ACC (R169). -/
def execAnd (d a b f : BitVec 5) (s : State) : Out := issueAcc (.and d a b f) 1 (fAbove 0 f) (effAnd d a b) s

def effOr (d a b : BitVec 5) (_ : Env) : M Unit := binX d a b fun x y => x ||| y
/-- OR of ACC (R169). -/
def execOr (d a b f : BitVec 5) (s : State) : Out := issueAcc (.or d a b f) 1 (fAbove 0 f) (effOr d a b) s

def effXor (d a b : BitVec 5) (_ : Env) : M Unit := binX d a b fun x y => x ^^^ y
/-- XOR of ACC (R169). -/
def execXor (d a b f : BitVec 5) (s : State) : Out := issueAcc (.xor d a b f) 1 (fAbove 0 f) (effXor d a b) s

/-- A shift count: x[b][5:0] (R169). -/
def shiftCount (y : DWord) : Nat := y.toNat % 64

def effShl (d a b : BitVec 5) (_ : Env) : M Unit := binX d a b fun x y => x <<< shiftCount y
/-- SHL of ACC (R169). -/
def execShl (d a b f : BitVec 5) (s : State) : Out := issueAcc (.shl d a b f) 1 (fAbove 0 f) (effShl d a b) s

def effShr (d a b : BitVec 5) (_ : Env) : M Unit := binX d a b fun x y => x >>> shiftCount y
/-- SHR of ACC (R169). -/
def execShr (d a b f : BitVec 5) (s : State) : Out := issueAcc (.shr d a b f) 1 (fAbove 0 f) (effShr d a b) s

def effSra (d a b : BitVec 5) (_ : Env) : M Unit := binX d a b fun x y => x.sshiftRight (shiftCount y)
/-- SRA of ACC (R169). -/
def execSra (d a b f : BitVec 5) (s : State) : Out := issueAcc (.sra d a b f) 1 (fAbove 0 f) (effSra d a b) s

/-- x is less than y, as signed (f = 0) or unsigned values. -/
def lessBy (f : BitVec 5) (x y : DWord) : Bool := if f = 0 then x.slt y else x.ult y

def effMin (d a b f : BitVec 5) (_ : Env) : M Unit := binX d a b fun x y => if lessBy f x y then x else y
/-- MIN (R169). -/
def execMin (d a b f : BitVec 5) (s : State) : Out := issueAcc (.min d a b f) 1 (fAbove 1 f) (effMin d a b f) s

def effMax (d a b f : BitVec 5) (_ : Env) : M Unit := binX d a b fun x y => if lessBy f x y then y else x
/-- MAX (R169). -/
def execMax (d a b f : BitVec 5) (s : State) : Out := issueAcc (.max d a b f) 1 (fAbove 1 f) (effMax d a b f) s

/-- Leading zero bits of an n-bit value. -/
def leadingZeros {n : Nat} (x : BitVec n) : Nat := if x = 0 then n else n - 1 - x.toNat.log2

/-- One bits of a value. -/
def oneBits {n : Nat} (x : BitVec n) : Nat := (List.range n).foldl (fun k i => k + bit (x.getLsbD i)) 0

def effClz (d a : BitVec 5) (_ : Env) : M Unit := unX d a fun x => BitVec.ofNat 64 (leadingZeros x)
/-- CLZ of ACC (R169). -/
def execClz (d a f : BitVec 5) (s : State) : Out := issueAcc (.clz d a f) 1 (fAbove 0 f) (effClz d a) s

def effPopc (d a : BitVec 5) (_ : Env) : M Unit := unX d a fun x => BitVec.ofNat 64 (oneBits x)
/-- POPC of ACC (R169). -/
def execPopc (d a f : BitVec 5) (s : State) : Out := issueAcc (.popc d a f) 1 (fAbove 0 f) (effPopc d a) s

/-! ## Immediates (R171, R172) -/

def effAddi (d a : BitVec 5) (imm : BitVec 10) (e : Env) : M Unit :=
  unX d a fun x => satInt e.sat 64 true (x.toInt + imm.toInt)
/-- ADDI (R170, R171). -/
def execAddi (d a : BitVec 5) (imm : BitVec 10) (s : State) : Out := issueAcc (.addi d a imm) 1 none (effAddi d a imm) s

def effAndi (d a : BitVec 5) (imm : BitVec 10) (_ : Env) : M Unit := unX d a fun x => x &&& imm.signExtend 64
/-- ANDI (R171). -/
def execAndi (d a : BitVec 5) (imm : BitVec 10) (s : State) : Out := issueAcc (.andi d a imm) 1 none (effAndi d a imm) s

def effOri (d a : BitVec 5) (imm : BitVec 10) (_ : Env) : M Unit := unX d a fun x => x ||| imm.setWidth 64
/-- ORI (R171). -/
def execOri (d a : BitVec 5) (imm : BitVec 10) (s : State) : Out := issueAcc (.ori d a imm) 1 none (effOri d a imm) s

def effShli (d a : BitVec 5) (n : BitVec 6) (_ : Env) : M Unit := unX d a fun x => x <<< n.toNat
/-- SHLI (R171). -/
def execShli (d a : BitVec 5) (n : BitVec 6) (s : State) : Out := issueAcc (.shli d a n) 1 none (effShli d a n) s

def effShri (d a : BitVec 5) (n : BitVec 6) (_ : Env) : M Unit := unX d a fun x => x >>> n.toNat
/-- SHRI (R171). -/
def execShri (d a : BitVec 5) (n : BitVec 6) (s : State) : Out := issueAcc (.shri d a n) 1 none (effShri d a n) s

def effLi (d : BitVec 5) (hi : BitVec 10) (lo : BitVec 27) (_ : Env) : M Unit := do
  freeX d
  wrX d ((hi ++ lo).signExtend 64)
/-- LI (R172). -/
def execLi (d : BitVec 5) (hi : BitVec 10) (lo : BitVec 27) (s : State) : Out :=
  issueAcc (.li d hi lo) 2 none (effLi d hi lo) s

def effLih (d : BitVec 5) (u : BitVec 27) (_ : Env) : M Unit := unX d d fun x => u ++ x.extractLsb' 0 37
/-- LIH (R172). -/
def execLih (d : BitVec 5) (u : BitVec 27) (s : State) : Out := issueAcc (.lih d u) 2 none (effLih d u) s

/-! ## Comparisons, queue moves, division (R173 to R175) -/

def effCmp (d a b f : BitVec 5) (_ : Env) : M Unit :=
  binX d a b fun x y => if (cmpCond f.toNat x y).getD false then 1 else 0
/-- CMP (R173). -/
def execCmp (d a b f : BitVec 5) (s : State) : Out := issueAcc (.cmp d a b f) 1 (fAbove 5 f) (effCmp d a b f) s

def effCmpb (a b f : BitVec 5) (_ : Env) : M Unit := do
  let x ← rdX a
  let y ← rdX b
  pushBq .acc ((cmpCond f.toNat x y).getD false)
/-- CMPB (R173). -/
def execCmpb (a b f : BitVec 5) (s : State) : Out := issueAcc (.cmpb a b f) 1 (fAbove 5 f) (effCmpb a b f) s

def effMovq (d a : BitVec 5) (_ : Env) : M Unit := do
  let x ← rdX a
  pushQ .acc d.toNat (natToBytes 8 x.toNat)
/-- MOVQ (R174). -/
def execMovq (d a : BitVec 5) (s : State) : Out := issueAcc (.movq d a) 1 (opnd (bad8 d)) (effMovq d a) s

def effPopq (d a : BitVec 5) (_ : Env) : M Unit := do
  freeX d
  let b ← popQ .acc a.toNat
  wrX d (BitVec.ofNat 64 (bytesToNat (b.take 8)))
/-- POPQ (R174). -/
def execPopq (d a : BitVec 5) (s : State) : Out := issueAcc (.popq d a) 1 (opnd (bad8 a)) (effPopq d a) s

/-- DIVIDE_BY_ZERO before writing, with TINFO = x[a] (R175). -/
def divX (d a b : BitVec 5) (g : DWord → DWord → DWord) : M Unit := do
  let x ← rdX a
  let y ← rdX b
  freeX d
  if y = 0 then raise { cause := .divideByZero, tinfo := x.toNat } else wrX d (g x y)

def effDivu (d a b : BitVec 5) (_ : Env) : M Unit := divX d a b fun x y => x / y
/-- DIVU (R175). -/
def execDivu (d a b : BitVec 5) (s : State) : Out := issueAcc (.divu d a b) 1 none (effDivu d a b) s

def effRemu (d a b : BitVec 5) (_ : Env) : M Unit := divX d a b fun x y => x % y
/-- REMU (R175). -/
def execRemu (d a b : BitVec 5) (s : State) : Out := issueAcc (.remu d a b) 1 none (effRemu d a b) s

/-! ## Capabilities (R176 to R180) -/

def effCmov (d a : BitVec 5) (_ : Env) : M Unit := do
  let c ← rdC a
  freeC d
  wrC d c
/-- CMOV (R176). -/
def execCmov (d a : BitVec 5) (s : State) : Out := issueAcc (.cmov d a) 1 (opnd (bad16 d || bad16 a)) (effCmov d a) s

/-- TYPE or ASID unusable on every use (R157, R158). -/
def State.capDead (s : State) (c : Cap) : Bool := decide (7 ≤ c.type.toNat) || c.asid != s.ctx.job.code.asid

def effCnarrow (d a b : BitVec 5) (_ : Env) : M Unit := do
  let c ← rdC a
  let x ← rdX b
  freeC d
  let s ← get
  let n := x.toNat
  let t := fun cause => ({ cause := cause, toff := c.cursor.toNat, tinfo := n, cap := c } : TrapInfo)
  if s.capDead c then raise (t .capType)
  else if c.cursor.toNat < c.lower.toNat ∨ c.cursor.toNat + n > c.upper.toNat then raise (t .capBounds)
  else wrC d { c with lower := c.cursor.setWidth 48, upper := BitVec.ofNat 48 (c.cursor.toNat + n) }
/-- CNARROW (R177). -/
def execCnarrow (d a b : BitVec 5) (s : State) : Out :=
  issueAcc (.cnarrow d a b) 1 (opnd (bad16 d || bad16 a)) (effCnarrow d a b) s

def effCrights (d a b : BitVec 5) (_ : Env) : M Unit := do
  let c ← rdC a
  let x ← rdX b
  freeC d
  wrC d { c with rights := c.rights &&& x.setWidth 8 }
/-- CRIGHTS (R178). -/
def execCrights (d a b : BitVec 5) (s : State) : Out :=
  issueAcc (.crights d a b) 1 (opnd (bad16 d || bad16 a)) (effCrights d a b) s

def effCadd (d a b f : BitVec 5) (_ : Env) : M Unit := do
  let c ← rdC a
  let x ← rdX b
  freeC d
  wrC d { c with cursor := if f = 0 then c.cursor + x else x }
/-- CADD (R179). -/
def execCadd (d a b f : BitVec 5) (s : State) : Out :=
  issueAcc (.cadd d a b f) 1 (opnd (bad16 d || bad16 a || decide (1 < f.toNat))) (effCadd d a b f) s

/-- The field that CGET reads (R180). -/
def cgetField (f : Nat) (c : Cap) : DWord :=
  match f with
  | 0 => c.cursor
  | 1 => c.lower.setWidth 64
  | 2 => c.upper.setWidth 64
  | 3 => c.rights.setWidth 64
  | 4 => c.obj.setWidth 64
  | 5 => c.asid.setWidth 64
  | 6 => c.type.setWidth 64
  | _ => BitVec.ofNat 64 (c.upper.toNat - c.lower.toNat)

def effCget (d a f : BitVec 5) (_ : Env) : M Unit := do
  let c ← rdC a
  freeX d
  wrX d (cgetField f.toNat c)
/-- CGET (R180). -/
def execCget (d a f : BitVec 5) (s : State) : Out :=
  issueAcc (.cget d a f) 1 (opnd (bad16 a || decide (7 < f.toNat))) (effCget d a f) s

end Sys2Proof.Machine
end

