-- ==== Sys2Proof/Machine/Sched.lean ====
section
/-! DEFINITION. The banks of a core: which context runs (R36, R37). -/
namespace Sys2Proof.Machine

/-- A bank of the package, the focus included. -/
def State.bankCtx (s : State) (k : BankKey) : Ctx := if k = s.cur then s.ctx else s.banks.get {} k

/-- Change a bank of the package. -/
def State.setBank (s : State) (k : BankKey) (c : Ctx) : State :=
  if k = s.cur then { s with ctx := c } else { s with banks := s.banks.set {} k c }

/-- Put a bank into the focus. -/
def State.focus (s : State) (k : BankKey) : State :=
  if k = s.cur then s
  else { s with cur := k, ctx := s.banks.get {} k, banks := (s.banks.erase k).set {} s.cur s.ctx }

/-- A context that occupies its bank (R411). -/
def Ctx.resident (c : Ctx) : Bool := c.status == .live || c.status == .halted

/-- The bank of a core whose context runs, or ran last (R36). -/
def State.runningBank (s : State) (core : Nat) : BankKey := 4 * core + s.running.get 0 core % 4

/-- The running bank of its core: a context that is filled into the bank that ran last does not run there yet (R416). -/
def State.runsBank (s : State) (k : BankKey) : Bool := s.running.get 0 k.core == k.bank

/-- A switch stops the old context as a trap does, without a record: what is unsteered is fetched again, a WAIT starts
afresh (R16, R37, R141). -/
def State.stopContext (s : State) : State :=
  let s := { s.unfetch with ctx.readySince := s.gts }
  match s.ctx.seq.wait with
  | .waiting .. => { s with ctx.seq.wait := .none, ctx.waited := s.ctx.seq.wait }
  | _ => s

/-- Make a bank the running context of its core, and bring it into the focus. -/
def State.switchTo (s : State) (k : BankKey) : State :=
  let s := s.stopContext
  let s := ({ s with running := s.running.set 0 k.core k.bank }).focus k
  { s with ctx.waited := .none, ctx.blockedAt := none, ctx.stuck := 0, ctx.prio := s.ctx.basePrio, ctx.runSince := s.gts, ctx.readySince := s.gts }

/-- Do something in a bank, and come back to the focus. -/
def State.inBank (s : State) (k : BankKey) (f : State → State) : State := (f (s.focus k)).focus s.cur

end Sys2Proof.Machine
end

