-- ==== Sys2Proof/Machine/Async.lean ====
section
/-! DEFINITION. What every asynchronous command shares (R103, R206 to R218, R223, R400): finding a context, reading and
writing a side, moving bytes, counting at a sync word, failing and completing. -/
namespace Sys2Proof.Machine

/-! ## Contexts by their jobs -/

/-- Where the context of a job is. -/
inductive CtxPlace where
  | bank (k : BankKey)
  | spilled (id : Nat)
  | gone
  deriving DecidableEq, Repr

/-- Find the context of a job that has not ended. -/
def State.placeOf (s : State) (uid : Nat) : CtxPlace :=
  if s.ctx.job.uid = uid ∧ s.ctx.status = .live then .bank s.cur
  else match s.banks.find? fun p => p.2.job.uid == uid && p.2.status == .live with
    | some p => .bank p.1
    | none => match s.units.spilled.find? fun r => r.ctx.job.uid == uid with
      | some r => .spilled r.id
      | none => .gone

/-- The spill record with a change to its context. -/
def SpillRec.modIf (r : SpillRec) (id : Nat) (f : Ctx → Ctx) : SpillRec := if r.id = id then { r with ctx := f r.ctx } else r

/-- Change the context of a job, resident or spilled; a job that has ended has none. -/
def State.modJob (s : State) (uid : Nat) (f : Ctx → Ctx) : State :=
  match s.placeOf uid with
  | .bank k => s.setBank k (f (s.bankCtx k))
  | .spilled id => { s with units.spilled := s.units.spilled.map (·.modIf id f) }
  | .gone => s

/-- The context of a job. -/
def State.jobCtx (s : State) (uid : Nat) : Option Ctx :=
  match s.placeOf uid with
  | .bank k => some (s.bankCtx k)
  | .spilled id => (s.units.spilled.find? (·.id == id)).map (·.ctx)
  | .gone => none

/-- Every live context of the package: the focus, the other banks, and the spilled ones. -/
def State.contexts (s : State) : List Ctx :=
  ((s.ctx :: s.banks.map (·.2)) ++ s.units.spilled.map (·.ctx)).filter fun c => c.status == .live

/-- The member of a group that holds a rank; a rank that several contexts hold reaches one of them (R473). -/
def State.member (s : State) (group : Nat × Nat) (rank : Nat) : Option Ctx :=
  s.contexts.find? fun c => c.group == group && c.rank == rank

/-! ## Sides of a copy (R208 to R212, R223) -/

/-- What an attempt at a unit comes to. -/
inductive Did (α : Type) where
  | ok (a : α)
  /-- It waits: a page under migration, a waking region, a spilled peer. -/
  | later
  | fails (t : TrapInfo)
  deriving DecidableEq, Repr

/-- Scratchpad banks that a range touches. -/
def touchesBank (m : BitVec 8) (o n : Nat) : Bool := (padBanks o n).any fun j => m.getLsbD j

/-- An uncorrectable sector of a context's scratchpad in a range. -/
def Ctx.badAt (c : Ctx) (o n : Nat) : Option Nat :=
  (List.range ((o + n + 31) / 32 - o / 32)).findSome? fun i =>
    if c.padBad.contains (o / 32 + i) then some (32 * (o / 32 + i)) else none

/-- Read bytes of a context's scratchpad for a unit. -/
def Ctx.padGot (c : Ctx) (o n : Nat) : Did Bytes :=
  if touchesBank c.padGated o n then .fails { cause := .powerState, toff := o, tinfo := n }
  else if touchesBank c.padWaking o n then .later
  else match c.badAt o n with
    | some e => .fails { cause := .eccUncorrectable, toff := e, tinfo := n, bad := .bank }
    | none => .ok (c.pad.read o n)

/-- The multicast entry of a table. -/
def State.mcEntry (s : State) (table entry : Nat) : Option McEntry :=
  s.units.mcast.find? fun m => m.table == table && m.entry == entry

/-- Who acts for a job: the job, and the number of the command among its accesses, which follows the earlier ones to the
same bytes (R93, R102). -/
structure Who where
  uid : Nat
  stamp : Nat
  deriving DecidableEq, Repr

def Cmd.who (c : Cmd) : Who := { uid := c.uid, stamp := c.stamp }

/-- What a read answers a unit. -/
def Got.did : Got → Did Bytes
  | .bytes b => .ok b
  | .later => .later
  | .bad t => .fails t
  | .dataBad t => .fails { t with noskip := false }

/-- Read a range of an object for a command. -/
def State.readFor (s : State) (who : Who) (c : Cap) (o n : Nat) : Did Bytes :=
  if s.earlier who.uid who.stamp c o n then .later else (s.readDirect c o n).did

/-- Read `n` bytes of a side. -/
def State.readSide (s : State) (who : Who) (side : Side) (rel : Int) (n : Nat) : Did Bytes :=
  match side with
  | .mem c base => s.readFor who c (base + rel : Int).toNat n
  | .pad uid base => match s.placeOf uid, s.jobCtx uid with
    | .bank k, some c => if s.dieHeld k.die then .later else c.padGot (base + rel : Int).toNat n
    | .spilled _, _ => .later
    | _, _ => .fails { cause := .illegalOperand }
  | .gone _ => .fails { cause := .illegalOperand }
  | .l2 sl base => .ok (s.l2.read (2 ^ 23 * sl + (base + rel : Int).toNat) n)
  | .group .. => .fails { cause := .illegalOperand }

/-- The lines that a read of a side for a context has used; 0 for none. -/
def State.touchSide (s : State) (side : Side) (rel : Int) (n uid : Nat) : State :=
  match side with
  | .mem c base => s.touchRead c (base + rel : Int).toNat n uid
  | _ => s

/-- Write bytes to an object for a unit, by walks of its own. -/
def State.writeMem (s : State) (c : Cap) (o : Nat) (b : Bytes) (uid : Nat := 0) : Did State :=
  let places := s.placeRange c o b.length
  let info := fun cause => ({ cause := cause, toff := o, tinfo := b.length, cap := c } : TrapInfo)
  match places.findSome? (fun p => match p.1 with | .fails e => some e | _ => none) with
  | some e => .fails (info e)
  | none =>
    if places.any fun p => p.1 == .moving then .later
    else
      let at' := places.filterMap fun p => match p.1 with | .at a => some a | _ => none
      if at'.any s.quarterGated then .fails (info .powerState)
      else if at'.any s.memHeld ∨ at'.any fun a => s.reach (packageOf a) == .held then .later
      else match at'.find? fun a => s.reach (packageOf a) == .broken with
        | some a => .fails { info .linkError with tinfo := packageOf a }
        | none => .ok (places.foldl (fun (acc : State × Bytes) p => match p.1 with
            | .at a => (acc.1.agentWrite a (acc.2.take p.2) uid, acc.2.drop p.2)
            | _ => acc) (s, b)).1

/-- Write bytes into the scratchpad of a job's context: its bank, whether it runs or not; a spilled context's wait for
its FILL; those for a job that has ended are discarded (R223). -/
def State.writePadOf (s : State) (uid o : Nat) (b : Bytes) : Did State :=
  match s.placeOf uid, s.jobCtx uid with
  | .bank k, some c =>
    if touchesBank c.padGated o b.length then .fails { cause := .powerState, toff := o, tinfo := b.length }
    else if touchesBank c.padWaking o b.length ∨ s.dieHeld k.die then .later
    else .ok (s.setBank k { c with pad := c.pad.write o b })
  | .spilled _, _ => .later
  | _, _ => .fails { cause := .illegalOperand }

/-- Write bytes to the scratchpad of every member of a multicast group (R221). -/
def State.writeMembers (s : State) (group : Nat × Nat) (o : Nat) (b : Bytes) : List Nat → Did State
  | [] => .ok s
  | r :: l => match s.member group r with
    | none => match s.writeMembers group o b l with
      | .ok _ => .fails { cause := .illegalOperand }
      | g => g
    | some c => match s.writePadOf c.job.uid o b with
      | .ok s' => s'.writeMembers group o b l
      | g => g

/-- Write bytes to an object for a command, after the earlier accesses of its job to them. -/
def State.writeFor (s : State) (who : Who) (c : Cap) (o : Nat) (b : Bytes) : Did State :=
  if s.earlier who.uid who.stamp c o b.length then .later else s.writeMem c o b who.uid

/-- Write bytes to a side. -/
def State.writeSide (s : State) (who : Who) (side : Side) (rel : Int) (b : Bytes) : Did State :=
  match side with
  | .mem c base => s.writeFor who c (base + rel : Int).toNat b
  | .pad uid base => s.writePadOf uid (base + rel : Int).toNat b
  | .gone _ => .fails { cause := .illegalOperand }
  | .l2 sl base => .ok { s with l2 := s.l2.write (2 ^ 23 * sl + (base + rel : Int).toNat) b }
  | .group t g base dom => match s.mcEntry t g with
    | some m => s.writeMembers dom (base + rel : Int).toNat b m.ranks
    | none => .fails { cause := .illegalOperand }

/-! ## Moving bytes -/

def Side.base : Side → Nat
  | .mem _ b | .pad _ b | .gone b | .l2 _ b | .group _ _ b _ => b

/-- Bytes of the pattern. -/
def CopyCmd.total (c : CopyCmd) : Nat := c.cnt0 * c.cnt1 * c.cnt2

/-- Where the next byte is read and written, relative to the sides' bases (R217). -/
def CopyCmd.srcRel (c : CopyCmd) : Int :=
  c.soff + (c.pos % c.cnt0 : Nat) + (c.pos / c.cnt0 % c.cnt1 : Nat) * c.sstr1 + (c.pos / c.cnt0 / c.cnt1 : Nat) * c.sstr2
def CopyCmd.dstRel (c : CopyCmd) : Int :=
  c.doff + (c.pos % c.cnt0 : Nat) + (c.pos / c.cnt0 % c.cnt1 : Nat) * c.dstr1 + (c.pos / c.cnt0 / c.cnt1 : Nat) * c.dstr2

/-- The sector of the destination that the next byte falls in. -/
def CopyCmd.sector (c : CopyCmd) : Nat := (c.dst.base + c.dstRel : Int).toNat / 32

/-- The bytes of the next piece: within a row and within a 32-byte sector of the destination. -/
def CopyCmd.piece (c : CopyCmd) : Nat :=
  min (c.cnt0 - c.pos % c.cnt0) (32 - ((c.dst.base + c.dstRel : Int).toNat) % 32)

/-- A piece that has been read: where it came from, where it goes, and its bytes. -/
structure Moved where
  src : Int
  dst : Int
  bytes : Bytes
  deriving DecidableEq, Repr

/-- Read the next pieces that fall in one sector of the destination, in linear order, before any of them is written: a
sector is written as a whole (R110), and not at all where the read of it fails (R212). -/
def State.gather (s : State) (who : Who) (k : Nat) : Nat → CopyCmd → Did (List Moved × CopyCmd)
  | 0, c => .ok ([], c)
  | f + 1, c =>
    if c.total ≤ c.pos ∨ c.sector ≠ k then .ok ([], c)
    else match s.readSide who c.src c.srcRel c.piece with
      | .fails t => .fails t
      | .later => .later
      | .ok b => match s.gather who k f { c with pos := c.pos + c.piece } with
        | .ok r => .ok ({ src := c.srcRel, dst := c.dstRel, bytes := b } :: r.1, r.2)
        | g => g

/-- Write the pieces of a sector, in linear order, so that a later iteration supplies the final value of a byte written
twice (R218). -/
def State.scatter (s : State) (who : Who) (c : CopyCmd) : List Moved → Did State
  | [] => .ok s
  | m :: r => match s.writeSide who c.dst m.dst m.bytes with
    | .ok s' => (s'.touchSide c.src m.src m.bytes.length who.uid).scatter who c r
    | g => g

/-- Move whole sectors until `limit` bytes have been moved. Answers the first failure, and whether it stopped short to
wait. -/
def moveSectors (who : Who) : Nat → Nat → State → CopyCmd → State × CopyCmd × Option TrapInfo × Bool
  | 0, _, s, c => (s, c, none, false)
  | f + 1, limit, s, c =>
    if limit = 0 ∨ c.total ≤ c.pos then (s, c, none, false)
    else match s.gather who c.sector 32 c with
      | .fails t => (s, c, some t, false)
      | .later => (s, c, none, true)
      | .ok (l, c') => match s.scatter who c l with
        | .fails t => (s, c, some t, false)
        | .later => (s, c, none, true)
        | .ok s' =>
          let n := c'.pos - c.pos
          moveSectors who f (limit - n) s' { c' with uncounted := c.uncounted + n }

/-- Move at least `n` bytes of a copy, by whole sectors. -/
def State.moveBytes (s : State) (who : Who) (c : CopyCmd) (n : Nat) : State × CopyCmd × Option TrapInfo × Bool :=
  moveSectors who n n s c

/-- The span of a pattern, relative to its base: the lowest and the highest byte (R217). -/
def patternSpan (off str1 str2 : Int) (c0 c1 c2 : Nat) : Int × Int :=
  let ends := [0, (c1 - 1 : Nat) * str1].flatMap fun a => [0, (c2 - 1 : Nat) * str2].map fun b => off + a + b
  (ends.foldl min off, ends.foldl max off + (c0 - 1 : Nat))

/-- A command that a commit issued waits for a page that is not resident (R43). -/
def Cmd.awaits (c : Cmd) (t : TrapInfo) : Bool := c.commitPos.isSome && t.cause == .pageNonresident

/-- The outcome for a command, with that wait. -/
def Did.for {α : Type} (d : Did α) (c : Cmd) : Did α :=
  match d with
  | .fails t => if c.awaits t then .later else .fails t
  | _ => d

/-- The pattern writes a sector of the destination at several times. -/
def CopyCmd.split (c : CopyCmd) : Bool := decide (1 < c.cnt1) || decide (1 < c.cnt2)

/-- The destination sectors that a copy spans: the first, and the one after the last. -/
def CopyCmd.sectors (c : CopyCmd) : Nat × Nat :=
  let sp := patternSpan c.doff c.dstr1 c.dstr2 c.cnt0 c.cnt1 c.cnt2
  ((c.dst.base + sp.1 : Int).toNat / 32, (c.dst.base + sp.2 : Int).toNat / 32 + 1)

/-- Two sides may name the same bytes. -/
def Side.same : Side → Side → Bool
  | .mem a _, .mem b _ => a.asid == b.asid && a.obj == b.obj
  | .pad u _, .pad v _ => u == v
  | .l2 a _, .l2 b _ => a == b
  | .group .., .group .. | .group .., .pad .. | .pad .., .group .. => true
  | _, _ => false

/-- A copy that has not begun waits for one that has, where they write a common sector and one of them writes its sectors
at several times: each sector ends with the values of one of the two (R110, log 51). -/
def State.copyBusy (s : State) (c : Cmd) (x : CopyCmd) : Bool :=
  x.pos == 0 && s.units.cmds.any fun d => d.n != c.n && match d.body with
    | .copy y => decide (0 < y.pos) && decide (y.pos < y.total) && d.failed.isNone && (x.split || y.split) && x.dst.same y.dst
        && decide (x.sectors.1 < y.sectors.2) && decide (y.sectors.1 < x.sectors.2)
    | _ => false

/-- Move at least `n` bytes of a command's copy. -/
def State.moveFor (s : State) (c : Cmd) (x : CopyCmd) (n : Nat) : State × CopyCmd × Option TrapInfo × Bool :=
  let r := if s.copyBusy c x then (s, x, none, true) else s.moveBytes c.who x n
  match r.2.2.1 with
  | some t => if c.awaits t then (r.1, r.2.1, none, true) else r
  | none => r

/-- The lowest destination offset, relative to the base, that the command has still to write (R109). -/
def CopyCmd.lowest (c : CopyCmd) : Int :=
  let i1 := c.pos / c.cnt0 % c.cnt1
  let i2 := c.pos / c.cnt0 / c.cnt1
  let at' := fun (a b : Nat) => c.doff + a * c.dstr1 + b * c.dstr2
  let rows := if i1 + 1 < c.cnt1 then [at' (i1 + 1) i2, at' (c.cnt1 - 1) i2] else []
  let planes := if i2 + 1 < c.cnt2 then
    [at' 0 (i2 + 1), at' 0 (c.cnt2 - 1), at' (c.cnt1 - 1) (i2 + 1), at' (c.cnt1 - 1) (c.cnt2 - 1)] else []
  (rows ++ planes).foldl min c.dstRel

/-! ## Sync words (R106, R107) -/

/-- A 32-bit field of a scratchpad. -/
def padWord (m : Memory) (o : Nat) : Nat := bytesToNat (m.read o 4)

/-- Count `b` bytes at the sync word at offset `o` (R107): one indivisible update of COUNT and GEN. -/
def countAt (m : Memory) (o b : Nat) : Memory :=
  let target := padWord m o
  if target = 0 then m
  else
    let c := padWord m (o + 4) + b
    (m.write (o + 4) (natToBytes 4 (c % target))).write (o + 8) (natToBytes 4 (padWord m (o + 8) + c / target))

/-- A spill record that keeps a count, if it is the one named (R417). -/
def SpillRec.addCount (r : SpillRec) (id o b : Nat) : SpillRec := if r.id = id then { r with counts := r.counts ++ [(o, b)] } else r

/-- Count bytes in the context of a job: at once in its bank; a spilled one's FILL applies the count (R107, R417). -/
def State.countIn (s : State) (uid o b : Nat) : State :=
  match s.placeOf uid with
  | .bank k => s.setBank k { s.bankCtx k with pad := countAt (s.bankCtx k).pad o b }
  | .spilled id => { s with units.spilled := s.units.spilled.map (·.addCount id o b) }
  | .gone => s

/-- Count bytes in the contexts that receive them (R214, R215). -/
def State.countBytes (s : State) (side : Side) (o b : Nat) : State :=
  match side with
  | .pad uid _ => s.countIn uid o b
  | .group t g _ dom => match s.mcEntry t g with
    | some m => m.ranks.foldl (fun s r => match s.member dom r with
        | some c => s.countIn c.job.uid o b
        | none => s) s
    | none => s
  | _ => s

/-! ## The list of commands -/

def State.cmd (s : State) (n : Nat) : Option Cmd := s.units.cmds.find? fun c => c.n == n
def Cmd.setIf (c : Cmd) (d : Cmd) : Cmd := if c.n = d.n then d else c
/-- Replace a command of the list. -/
def State.putCmd (s : State) (d : Cmd) : State := { s with units.cmds := s.units.cmds.map (·.setIf d) }
def State.dropCmd (s : State) (n : Nat) : State :=
  { s with units.cmds := s.units.cmds.filter fun c => c.n != n, marks := s.marks.filter fun m => m.cmd != n }

/-- Commands of a context that are issued and not complete. -/
def State.cmdsOf (s : State) (uid : Nat) : List Cmd := s.units.cmds.filter fun c => c.uid == uid && !c.held

/-- The write-acknowledge count of a job (R39): stores, and commands that write. -/
def State.wackOf (s : State) (uid : Nat) : Nat := s.unacked uid + ((s.cmdsOf uid).filter (·.counted)).length
def State.wackCount (s : State) : Nat := s.wackOf s.ctx.job.uid

/-- A counter advances to the largest number below which every command has completed (R103). -/
def advanceCounter : Nat → Timeline → Timeline
  | 0, t => t
  | f + 1, t =>
    if t.ahead.contains (t.counter + 1) then
      advanceCounter f { t with counter := t.counter + 1, ahead := t.ahead.erase (t.counter + 1) }
    else t

def Timeline.complete (t : Timeline) (n : Nat) : Timeline :=
  advanceCounter (t.ahead.length + 1) { t with ahead := n :: t.ahead }

/-- A command of a class completes in its context. -/
def Ctx.completeCmd (c : Ctx) (cls num : Nat) : Ctx :=
  if num = 0 then c else { c with units.tl := c.units.tl.set {} cls ((c.units.tl.get {} cls).complete num) }

/-- The slot that a failure goes to: a LINK_ERROR of a copy or an atomic on its way to another package goes to the tl2
slot under the number 0 (R437), every other to the command's own class. -/
def errPlace (cls num : Nat) (t : TrapInfo) : Nat × Nat :=
  if t.cause = .linkError ∧ cls < 2 then (2, 0) else (cls, num)

/-- A command completes, with what it has failed of (R103, R212, R213, R400). -/
def State.finishCmd (s : State) (c : Cmd) : State :=
  let s1 := (c.failed.elim s s.noteBad).dropCmd c.n
  s1.modJob c.uid fun x =>
    let x1 := x.completeCmd c.cls c.num
    match c.failed with
    | none => x1
    | some t => match c.commitPos with
      | some p => x1.failCommit p t.cause.code
      | none =>
        let p := errPlace c.cls c.num t
        if 4 ≤ p.1 then x1 else x1.recordErr p.1 p.2 { t with tinfo := if p.1 = 2 then t.tinfo else c.num, bad := .told }

/-- Copy-class commands that a context may have in flight, and tl3 commands (R207, R400). -/
def maxInFlight : Nat := 32
def maxMarked : Nat := 16

end Sys2Proof.Machine
end

