-- ==== Sys2Proof/Machine/AccMem.lean ====
section
/-! DEFINITION. ACC's loads, stores, prefetch and fence (R153, R154, R181 to R187). -/
namespace Sys2Proof.Machine

/-- Loads that may be outstanding (R153). -/
def maxLoads : Nat := 32
/-- Another load may start (R153). -/
def State.loadRoom (s : State) : Bool := decide (s.ctx.acc.loads.length < maxLoads)

/-- The types that a load and a store accept (R157, Table 4). -/
def loadTypes : List Nat := [tyData, tyGwin]
def storeTypes : List Nat := [tyData, tySwin]

/-- Leave a load outstanding (R154). -/
def State.addLoad (s : State) (dest : LoadDest) (src : LoadSrc) (addr : Nat) (again : Bool := false)
    (lat : Option Nat := none) (held : List (Option Byte) := []) (sent : Option (List (Nat × Nat)) := none) (wrote : Bool := false) : State :=
  s.modAcc fun a => { a with
    loads := a.loads ++ [{ n := a.nextLoad, dest := dest, src := src, addr := addr, gts := s.gts, again := again, lat := lat,
                           held := held, sent := sent, wrote := wrote }]
    nextLoad := a.nextLoad + 1 }

/-- What a load waits for at the port, the first in the order of Table 4 of chapter 16: a change of the stacked clock, a
region that wakes, or a page under migration (R444). -/
def State.waitCause (s : State) (l : List (Place × Nat)) : Option Nat :=
  let at' := l.filterMap fun p => match p.1 with | .at a => some a | _ => none
  if at'.any fun a => s.memHeld a && !s.quarterWakes a then some 4
  else if at'.any s.memHeld then some 5
  else if l.any fun p => p.1 == .moving then some 6
  else none

/-- The places of a range that a holder's translations give. -/
def State.holderPlaces (s : State) (i : HolderId) (c : Cap) (o n : Nat) : List (Place × Nat) :=
  (pagesOf o n).map fun p => (match (s.holder i).find c.obj.toNat (p.1 / pageSize) with
    | some t => t.place p.1
    | none => s.locate c p.1, p.2)

/-- Leave a load of an object outstanding, whose checks have passed: what it reads, what it was sent with, and the bytes
that the task's commit buffer holds of it now (R41, R164, R167). -/
def State.addObjLoad (s : State) (i : HolderId) (dest : LoadDest) (c : Cap) (o n addr : Nat) (again : Bool) : State :=
  if c.isWindow then match s.plan c o n with
    | .parts l => s.addLoad dest (.parts l) addr again (s.waitCause (l.flatMap fun p => s.placeRange p.cap p.off p.len)) (s.heldParts l)
    | .stop _ => s.addLoad dest (.mem c o n) addr again
  else
    let l := s.holderPlaces i c o n
    s.addLoad dest (.mem c o n) addr again (s.waitCause l) (s.heldOf c o n) (sentPieces l)

/-- An LDQ that is outstanding holds a reserved entry of its queue (R184). -/
def State.reserve (s : State) (dest : LoadDest) : State :=
  match dest with
  | .q q _ =>
    let d := s.dataQ q
    s.setDataQ q { d with reserved := d.reserved ++ [(s.ctx.acc.nextLoad, none)] }
  | _ => s

/-- A load through a capability whose checks have passed (R154): its data is delivered now, or it stays outstanding.
A data fault leaves no unretired instruction; TADDR names the load (R154). An LDQ whose data fails keeps its reserved
entry, and is made again (R184). -/
def load (a : BitVec 5) (c : Cap) (o n : Nat) (viaL1 : Bool) (dest : LoadDest) (addr : Nat) (deliver : Bytes → M Unit) :
    M Unit := do
  let s ← get
  await (s.loadRoom && !s.marked c o n)
  let g ← readObj (.accessQueue a.toNat) c o n viaL1
  let s ← get
  match g with
  | .bytes b => if s.late then set ((s.reserve dest).addLoad dest (.ready b) addr) else deliver b
  | .later => set ((s.reserve dest).addObjLoad (.accessQueue a.toNat) dest c o n addr false)
  | .bad t => raise t
  | .dataBad t => do
    match dest with
    | .q .. => set ((s.reserve dest).addObjLoad (.accessQueue a.toNat) dest c o n addr true)
    | _ => pure ()
    raise { t with taddr := some addr }

/-- The checks of a capability access at an offset; answers the object offset. -/
def accessAt (c : Cap) (off : Int) (n : Nat) (types : List Nat) (rights : List Nat) : M Nat := do
  let s ← get
  check (s.capCheck c off n types (rightsOf rights))
  pure (capOffset c off)

/-! ## Capabilities in memory (R160, R181) -/

/-- The alignment of CLD and CST. -/
def align32 (c : Cap) (o : Nat) : M Unit :=
  if o % 32 = 0 then pure () else raise { cause := .capBounds, toff := o, tinfo := 32, cap := c }

def effCld (d a b : BitVec 5) (im : BitVec 1) (e : Env) : M Unit := do
  let c ← rdC a
  let off ← memOff im b 32
  freeC d
  let o ← accessAt c off 32 [tyCaps] [rLC]
  align32 c o
  load a c o 32 false (.c d.toNat) e.addr fun v => wrC d (Cap.ofBytes v)
/-- CLD (R160, R181). -/
def execCld (d a b : BitVec 5) (im : BitVec 1) (s : State) : Out :=
  issueAcc (.cld d a b im) 1 (opnd (bad16 d || bad16 a)) (effCld d a b im) s

def effCst (d a b : BitVec 5) (im : BitVec 1) (_ : Env) : M Unit := do
  let c ← rdC a
  let off ← memOff im b 32
  let v ← rdC d
  let o ← accessAt c off 32 [tyCaps] [rSC]
  align32 c o
  let s ← get
  await (!s.marked c o 32)
  writeObj (.accessQueue a.toNat) c o v.bytes
/-- CST (R160, R181). -/
def execCst (d a b : BitVec 5) (im : BitVec 1) (s : State) : Out :=
  issueAcc (.cst d a b im) 1 (opnd (bad16 d || bad16 a)) (effCst d a b im) s

/-! ## Loads and stores (R182, R183) -/

def effLd (d a b : BitVec 5) (im sx : BitVec 1) (size : BitVec 2) (e : Env) : M Unit := do
  let n := sizeLen size
  let c ← rdC a
  let off ← memOff im b n
  freeX d
  let o ← accessAt c off n loadTypes [rR]
  load a c o n (c.type.toNat == tyData) (.x d.toNat n (sx == 1)) e.addr fun v => wrX d (extend n (sx == 1) v)
/-- LD (R182). -/
def execLd (d a b : BitVec 5) (im sx : BitVec 1) (size : BitVec 2) (s : State) : Out :=
  issueAcc (.ld d a b im sx size) 1 (orFault (sxFault size sx) (opnd (bad16 a))) (effLd d a b im sx size) s

def effSt (d a b : BitVec 5) (im : BitVec 1) (size : BitVec 2) (_ : Env) : M Unit := do
  let n := sizeLen size
  let c ← rdC a
  let off ← memOff im b n
  let v ← rdX d
  let o ← accessAt c off n storeTypes [rW]
  let s ← get
  await (!s.marked c o n)
  writeObj (.accessQueue a.toNat) c o (natToBytes n v.toNat)
/-- ST (R182). -/
def execSt (d a b : BitVec 5) (im : BitVec 1) (size : BitVec 2) (s : State) : Out :=
  issueAcc (.st d a b im size) 1 (opnd (bad16 a)) (effSt d a b im size) s

def effLds (d a b : BitVec 5) (im sx : BitVec 1) (size : BitVec 2) (e : Env) : M Unit := do
  let n := sizeLen size
  let o ← padOff a im b n
  freeX d
  let s ← get
  check (s.padCheck o n)
  await (s.loadRoom && !s.padWaits o.toNat n)
  match s.padBadIn o.toNat n with
  | some x => raise { cause := .eccUncorrectable, toff := x, tinfo := n, noskip := true, taddr := some e.addr, bad := .bank }
  | none => wrX d (extend n (sx == 1) (s.ctx.pad.read o.toNat n))
/-- LDS (R183). -/
def execLds (d a b : BitVec 5) (im sx : BitVec 1) (size : BitVec 2) (s : State) : Out :=
  issueAcc (.lds d a b im sx size) 1 (sxFault size sx) (effLds d a b im sx size) s

def effSts (d a b : BitVec 5) (im : BitVec 1) (size : BitVec 2) (_ : Env) : M Unit := do
  let n := sizeLen size
  let o ← padOff a im b n
  let v ← rdX d
  writePad o (natToBytes n v.toNat)
/-- STS (R183). -/
def execSts (d a b : BitVec 5) (im : BitVec 1) (size : BitVec 2) (s : State) : Out :=
  issueAcc (.sts d a b im size) 1 none (effSts d a b im size) s

/-! ## Queue loads and stores (R184) -/

/-- Push the bytes that an LDQ has read. -/
def pushLoaded (q : Nat) (v : Bytes) : M Unit := modify fun s => s.setDataQ q ((s.dataQ q).put v)

def effLdq (d a b : BitVec 5) (im sp : BitVec 1) (len : BitVec 3) (e : Env) : M Unit := do
  let n := ldqLen len
  let q := d.toNat
  if sp = 1 then do
    let o ← padOff a im b n
    needProducer .acc q
    let s ← get
    check (s.padCheck o n)
    await ((s.dataQ q).hasRoom && s.loadRoom && !s.padWaits o.toNat n)
    match s.padBadIn o.toNat n with
    | some x => do
      set ((s.reserve (.q q n)).addLoad (.q q n) (.pad o.toNat n) e.addr true)
      raise { cause := .eccUncorrectable, toff := x, tinfo := n, noskip := true, taddr := some e.addr, bad := .bank }
    | none => pushLoaded q (s.ctx.pad.read o.toNat n)
  else do
    let c ← rdC a
    let off ← memOff im b n
    needProducer .acc q
    let o ← accessAt c off n loadTypes [rR]
    let s ← get
    await (s.dataQ q).hasRoom
    load a c o n (c.type.toNat == tyData) (.q q n) e.addr (pushLoaded q)
/-- LDQ (R184). -/
def execLdq (d a b : BitVec 5) (im sp : BitVec 1) (len : BitVec 3) (s : State) : Out :=
  issueAcc (.ldq d a b im sp len) 1 (ldqFault d a sp len) (effLdq d a b im sp len) s

/-- The oldest entry of a queue, which stays where it is. -/
def peekQ (e : Engine) (q : Nat) : M Bytes := do
  needConsumer e q
  let s ← get
  match (s.dataQ q).entries with
  | [] => wait
  | v :: _ => pure v

def effStq (d a b : BitVec 5) (im sp : BitVec 1) (len : BitVec 3) (_ : Env) : M Unit := do
  let n := ldqLen len
  let q := d.toNat
  if sp = 1 then do
    let o ← padOff a im b n
    needConsumer .acc q
    let s ← get
    check (s.padCheck o n)
    let v ← peekQ .acc q
    writePad o (v.take n)
  else do
    let c ← rdC a
    let off ← memOff im b n
    needConsumer .acc q
    let o ← accessAt c off n storeTypes [rW]
    let v ← peekQ .acc q
    let s ← get
    await (!s.marked c o n)
    writeObj (.accessQueue a.toNat) c o (v.take n)
  let _ ← popQ .acc q
/-- STQ (R184). -/
def execStq (d a b : BitVec 5) (im sp : BitVec 1) (len : BitVec 3) (s : State) : Out :=
  issueAcc (.stq d a b im sp len) 1 (ldqFault d a sp len) (effStq d a b im sp len) s

/-! ## Prefetch and fence (R185, R186) -/

/-- A prefetch of the line that holds an offset: performed only where every check would pass and the translation is
held; it never faults and never waits. -/
def State.prefetch (s : State) (a : Nat) (c : Cap) (off : Int) (lvl : BitVec 2) : State :=
  if (s.capCheck c off 1 loadTypes (rightsOf [rR])).isSome ∨ c.type.toNat ≠ tyData then s
  else
    let o := capOffset c off
    match (s.holder (.accessQueue a)).find c.obj.toNat (o / pageSize) with
    | some t => match t.place o with
      | .at p => if s.quarterGated p ∨ s.memHeld p then s
        else if lvl = 0 then s.l1Fill (p / 128) 0 else s.mscTouch (128 * (p / 128)) 128 false
      | _ => s
    | none => s

def effPrf (a b : BitVec 5) (im : BitVec 1) (lvl : BitVec 2) (_ : Env) : M Unit := do
  let c ← rdC a
  let off ← memOff im b 128
  modify fun s => s.prefetch a.toNat c off lvl
/-- PRF (R185). -/
def execPrf (a b : BitVec 5) (im : BitVec 1) (lvl : BitVec 2) (s : State) : Out :=
  issueAcc (.prf a b im lvl) 1 (opnd (bad16 a || decide (2 ≤ lvl.toNat))) (effPrf a b im lvl) s

/-- A store to a gated quarter that was not performed is delivered (Table 6 of chapter 16). -/
def deliverStoreFail : M Unit := do
  let s ← get
  match s.ctx.acc.storeFail with
  | none => pure ()
  | some t => do
    set (s.modAcc fun a => { a with storeFail := none })
    raise t

/-- A write to another package that failed with LINK_ERROR is delivered (R437): it stands in the tl2 slot under the
number 0. -/
def deliverLinkFail : M Unit := do
  let s ← get
  match s.ctx.units.err.get none 2 with
  | some e =>
    if e.num = 0 then do
      set (s.modCtx fun c => { c with units.err := c.units.err.set none 2 none })
      raise e.info
    else pure ()
  | none => pure ()

def effFence (scope : BitVec 3) (_ : Env) : M Unit := do
  notInTask
  let s ← get
  await (s.wackCount == 0 && s.ctx.acc.loads.isEmpty)
  deliverStoreFail
  if scope = 4 then deliverLinkFail
  if scope ≠ 0 then modify fun s => s.l1Drop s.cur.core
/-- FENCE (R101, R186). -/
def execFence (scope : BitVec 3) (s : State) : Out :=
  issueAcc (.fence scope) 1 (opnd (decide (5 ≤ scope.toNat))) (effFence scope) s

end Sys2Proof.Machine
end

