-- ==== Sys2Proof/Machine/AccStream.lean ====
section
/-! DEFINITION. The stream instructions (R188 to R204). -/
namespace Sys2Proof.Machine

/-! ## Descriptors (R189, R193) -/

/-- A signed 64-bit field of a descriptor. -/
def field64 (b : Bytes) (at' : Nat) : Int := (BitVec.ofNat 64 (bytesToNat ((b.drop at').take 8))).toInt
/-- A 32-bit field of a descriptor. -/
def field32 (b : Bytes) (at' : Nat) : Nat := bytesToNat ((b.drop at').take 4)

/-- The descriptor that 64 bytes hold (R189, Table 10). -/
def StreamDesc.ofBytes (b : Bytes) : StreamDesc :=
  let w := bytesToNat (b.take 8)
  { hstride := bitsOf w 63 32, hshift := bitsOf w 23 16, hdr := bitsOf w 15 14, engn := bitsOf w 10 8,
    fmt := bitsOf w 7 4, sp := bitsOf w 2 2 == 1, out := bitsOf w 0 0 == 1,
    cnt0 := field32 b 8, cnt1 := field32 b 12, cnt2 := field32 b 16, cnt3 := field32 b 20,
    str1 := field64 b 24, str2 := field64 b 32, str3 := field64 b 40, base := field64 b 48,
    hbase := bytesToNat ((b.drop 56).take 6) }

/-- A reserved field of a descriptor is not zero, or HSHIFT is above 31, which is refused whatever HDR is (R189,
DESIGN CHOICE, log 53). -/
def descReserved (b : Bytes) : Bool :=
  let w := bytesToNat (b.take 8)
  bitsOf w 31 24 != 0 || bitsOf w 13 11 != 0 || bitsOf w 3 3 != 0 || bitsOf w 1 1 != 0
    || bytesToNat ((b.drop 62).take 2) != 0 || decide (31 < bitsOf w 23 16)

/-- What R193 refuses. -/
def StreamDesc.bad (d : StreamDesc) : Bool :=
  d.hdr == 3 || decide (10 ≤ d.fmt)
  || d.cnt0 == 0 || d.cnt1 == 0 || d.cnt2 == 0 || d.cnt3 == 0
  || (!d.out && !(decide (2 ≤ d.engn) && decide (d.engn ≤ 5)))
  || (d.out && !(decide (1 ≤ d.engn) && decide (d.engn ≤ 5)))
  || (if d.fmt = 8 ∨ d.fmt = 9 then
        d.hdr == 0 || d.cnt0 % 32 != 0 || d.base % 16 != 0 || d.str1 % 16 != 0 || d.str2 % 16 != 0 || d.str3 % 16 != 0
      else d.hdr != 0)

/-- The lowest byte of the pattern and how many bytes it spans (R193). -/
def StreamDesc.span (d : StreamDesc) : Int × Nat :=
  (d.low, (d.high - d.low + (d.cnt0 * fmtBits d.fmt / 8 : Nat)).toNat)

/-- The same for the headers; `cur` is the data cursor (R192, R193). -/
def StreamDesc.hdrSpan (d : StreamDesc) (cur : Nat) : Int × Nat :=
  let hb := hdrBytes d.fmt
  if d.hdr = 1 then
    let a : Int := d.hbase + (cur + d.low) / (2 ^ d.hshift : Nat)
    let b : Int := d.hbase + (cur + d.high + ((d.cnt0 - 32) / 2 : Nat)) / (2 ^ d.hshift : Nat)
    (a, (b - a + hb).toNat)
  else (d.hbase, (d.elems / 32 - 1) * d.hstride + hb)

/-- A range of the scratchpad that is not within it (R193). -/
def padSpan (o : Int) (n : Nat) : Option TrapInfo :=
  if o < 0 ∨ o + n > padSize then some { cause := .capBounds, toff := o.toNat, tinfo := n } else none

/-- The range checks of SSET (R193): those of a scratchpad pattern are of bounds alone. -/
def State.spanCheck (s : State) (d : StreamDesc) (c : Cap) (r : Int × Nat) : Option TrapInfo :=
  if d.sp then padSpan r.1 r.2
  else s.capCheck c r.1 r.2 [tyData, if d.out then tySwin else tyGwin] (rightsOf [if d.out then rW else rR])

/-- The first of two checks. -/
def orCheck (a b : Option TrapInfo) : Option TrapInfo := match a with | some t => some t | none => b

/-- A pump waits for the next run of a stream (R200). -/
def State.pumpAwaits (s : State) (i : Nat) : Bool :=
  s.ctx.acc.pumps.any fun p => match p.2 with
    | some q => q.stream == i && q.waiting
    | none => false

/-- Pumps that waited for a run of the stream begin to take it (R200). -/
def State.wakePumps (s : State) (i : Nat) : State :=
  s.modAcc fun a => { a with pumps := a.pumps.map fun p => (p.1, p.2.map fun q =>
    if q.stream = i then { q with waiting := false } else q) }

/-- Begin a run (R199): latch the capabilities, empty the buffer and the translations, enter RUN. -/
def State.beginRun (s : State) (i : Nat) (d : StreamDesc) : State :=
  let t := s.stream i
  (s.setStream i { t with st := .run, desc := d, ldcap := t.dcap, lhcap := t.hcap, done := 0, buf := [],
                          fillFault := none, reported := false,
                          holder := { t.holder with cur := none, next := none, want := none, walk := none, walked := [] } }).wakePumps i

/-- The rest of SSET, once its descriptor has been read (R193, R199). -/
def setStreamBy (i : Nat) (b : Bytes) : M Unit := do
  let s ← get
  let d := StreamDesc.ofBytes b
  need (!descReserved b && !d.bad) .illegalOperand
  need (!(s.pumpAwaits i && (d.out || d.engn != 3))) .illegalOperand
  let t := s.stream i
  let cur := if d.sp then 0 else t.dcap.cursor.toNat
  check (orCheck (s.spanCheck d t.dcap d.span)
    (if d.hdr = 0 then none else s.spanCheck d t.hcap (d.hdrSpan cur)))
  set (s.beginRun i d)

/-! ## The instructions -/

def effSbind (d a f : BitVec 5) (_ : Env) : M Unit := do
  let c ← rdC a
  modify fun s =>
    let t := s.stream d.toNat
    s.setStream d.toNat (if f = 0 then { t with dcap := c } else { t with hcap := c })
/-- SBIND (R198). -/
def execSbind (d a f : BitVec 5) (s : State) : Out :=
  issueAcc (.sbind d a f) 1 (opnd (bad16 d || bad16 a || decide (1 < f.toNat))) (effSbind d a f) s

def effSset (d a b : BitVec 5) (im sp : BitVec 1) (e : Env) : M Unit := do
  let i := d.toNat
  let s ← get
  let t := s.stream i
  await (t.st != .run && !(t.desc.out && !t.buf.isEmpty))
  need (t.st != .fault) .illegalOperand
  if sp = 1 then do
    let o ← padOff a im b 64
    let s ← get
    check (s.padCheck o 64)
    await s.loadRoom
    let v ← readPad o 64
    setStreamBy i v
  else do
    let c ← rdC a
    let off ← memOff im b 64
    let o ← accessAt c off 64 [tyData] [rR]
    let s ← get
    await (s.loadRoom && !s.marked c o 64)
    let g ← readObj (.accessQueue a.toNat) c o 64 false
    match g with
    | .bytes v => setStreamBy i v
    | .later => wait
    | .bad t => raise t
    | .dataBad t => raise { t with taddr := some e.addr }
/-- SSET (R193, R199). -/
def execSset (d a b : BitVec 5) (im sp : BitVec 1) (s : State) : Out :=
  issueAcc (.sset d a b im sp) 1 (opnd (bad16 d || (sp == 0 && bad16 a))) (effSset d a b im sp) s

def effSring (d a : BitVec 5) (_ : Env) : M Unit := do
  let s ← get
  let t := s.stream a.toNat
  let running := t.st == .run || t.st == .fault
  need (!(running && (t.desc.out || t.desc.engn != 3))) .illegalOperand
  await (s.ctx.acc.pumps.get none d.toNat).isNone
  set (s.modAcc fun q => { q with pumps := q.pumps.set none d.toNat (some { stream := a.toNat, waiting := !running }) })
/-- SRING (R200). -/
def execSring (d a : BitVec 5) (s : State) : Out :=
  issueAcc (.sring d a) 1 (opnd (bad8 d || bad16 a)) (effSring d a) s

/-- Drain what can drain of a stopped output stream (fuel: the blocks of its buffer). -/
def State.drainAll : Nat → State → Nat → State
  | 0, s, _ => s
  | f + 1, s, i => if (s.drainStream i).2 then State.drainAll f (s.drainStream i).1 i else s

/-- SSTOP's effect on the pumps of a stream (R201): a waiting pump ends, and one that has begun no slot; another stops
after its current slot. -/
def State.stopPumps (s : State) (i : Nat) : State :=
  s.modAcc fun a => { a with pumps := a.pumps.filterMap fun p => match p.2 with
    | some q => if q.stream = i then
        (if q.waiting ∨ (s.ctx.mat.rings.get {} p.1).part.isNone then none else some (p.1, some { q with stopping := true }))
      else some (p.1, p.2)
    | none => none }

def effSstop (d : BitVec 5) (_ : Env) : M Unit := do
  let s ← get
  let i := d.toNat
  let t := s.stream i
  let s1 := if t.desc.out then State.drainAll streamBuffer s i else s
  let t1 := s1.stream i
  let t2 := { t1 with st := StreamState.idle, fillFault := none, reported := false,
                      buf := if t.desc.out then t1.buf else [] }
  set ((s1.setStream i t2).stopPumps i)
/-- SSTOP (R201). -/
def execSstop (d : BitVec 5) (s : State) : Out := issueAcc (.sstop d) 1 (opnd (bad16 d)) (effSstop d) s

/-- The code of a stream's state (Table 12 of chapter 5). -/
def StreamState.code : StreamState → Nat
  | .idle => 0 | .run => 1 | .ended => 2 | .fault => 3

/-- The status word of SSTAT (Table 12 of chapter 5). -/
def Stream.status (t : Stream) : DWord :=
  BitVec.ofNat 64 (t.st.code + 32 * bit t.desc.out + 64 * bit t.holder.cur.isSome + 128 * bit t.holder.next.isSome
    + 256 * t.desc.engn + 4096 * t.desc.fmt)

/-- The quantity that SSTAT reads (R202). -/
def Stream.quantity (t : Stream) (f : Nat) : DWord :=
  match f with
  | 0 => t.status
  | 1 => BitVec.ofNat 64 t.done
  | 2 => BitVec.ofNat 64 (if t.st = .run ∨ t.st = .fault then t.desc.blocks - t.done else 0)
  | _ => BitVec.ofNat 64 t.holder.pgdist

def effSstat (d a f : BitVec 5) (_ : Env) : M Unit := do
  freeX d
  modify fun s => s.setX d ((s.stream a.toNat).quantity f.toNat)
/-- SSTAT (R202). -/
def execSstat (d a f : BitVec 5) (s : State) : Out :=
  issueAcc (.sstat d a f) 1 (opnd (bad16 a || decide (3 < f.toNat))) (effSstat d a f) s

/-- Headers for a block that comes from a queue entry, which carries none: the spec gives them no value. -/
def freeHdrs (fmt : Nat) : M Bytes := do
  (List.range (hdrBytes fmt * (blockElems fmt / 32))).mapM fun _ => do
    let v ← freeVal
    pure (v.setWidth 8)

def effSout (d a : BitVec 5) (_ : Env) : M Unit := do
  checkOut .acc d.toNat anyFmt
  let v ← peekQ .acc a.toNat
  let s ← get
  let h ← freeHdrs (s.stream d.toNat).desc.fmt
  writeStream .acc d.toNat { bytes := v, hdrs := h }
  let _ ← popQ .acc a.toNat
/-- SOUT (R203). -/
def execSout (d a : BitVec 5) (s : State) : Out :=
  issueAcc (.sout d a) 1 (opnd (bad16 d || bad8 a)) (effSout d a) s

def effPgdist (d a : BitVec 5) (f : BitVec 1) (_ : Env) : M Unit := do
  let v ← rdX a
  need (decide (v.toNat ≤ pageSize)) .illegalOperand
  modify fun s =>
    let i := if f = 0 then HolderId.stream d.toNat else .accessQueue d.toNat
    s.setHolder i { s.holder i with pgdist := v.toNat }
/-- PGDIST (R204). -/
def execPgdist (d a : BitVec 5) (f : BitVec 1) (s : State) : Out :=
  issueAcc (.pgdist d a f) 1 (opnd (bad16 d)) (effPgdist d a f) s

end Sys2Proof.Machine
end

