-- ==== Sys2Proof/Machine/MemSys.lean ====
section
/-! DEFINITION. The HBM4E controllers, the memory-side caches, the power regions and the stacked clock (R439 to R454):
their operations, and the steps that these units make. -/
namespace Sys2Proof.Machine

def State.pc (s : State) (n : Nat) : PcSt := s.pcs.get {} n
def State.setPc (s : State) (n : Nat) (p : PcSt) : State := { s with pcs := s.pcs.set {} n p }
def State.dieSt (s : State) (die : Nat) : DieSt := s.dies.get {} die
def State.setDie (s : State) (die : Nat) (d : DieSt) : State := { s with dies := s.dies.set {} die d }

/-! ## Latency counters (R444) -/

def Ctx.addLat (c : Ctx) (i n : Nat) : Ctx := { c with latcnt := c.latcnt.set 0 i (satAdd (c.latcnt.get 0 i) n) }

/-- The cycles that a request of a context waited, charged to one of its LATCNT counters (R444); 0 is no context. -/
def State.addLat (s : State) (uid i n : Nat) : State :=
  if n = 0 ∨ uid = 0 then s
  else if s.ctx.job.uid = uid then { s with ctx := s.ctx.addLat i n }
  else { s with banks := s.banks.map fun p => if p.2.job.uid = uid then (p.1, p.2.addLat i n) else p }

/-! ## Refresh (R442, R443) -/

/-- Times of Table 3 of chapter 16. -/
def serviceCycles : Nat := 32
def refreshEvery : Nat := 208
def tRFCpb : Nat := 136
def tRFCab : Nat := 298

/-- The pseudo-channel and the bank of a physical HBM4E address (R440). -/
def pcOf (a : Nat) : Nat := 128 * hbmDie a + 64 * (a / 2 ^ 7 % 2) + a / 2 ^ 8 % 64
def bankOf (a : Nat) : Nat := 4 * (a / 2 ^ 16 % 4) + a / 2 ^ 14 % 4

/-! ### The command bus of a channel (R440, R443) -/

/-- The other pseudo-channel of a channel. -/
def partner (n : Nat) : Nat := if n % 2 = 0 then n + 1 else n - 1

/-- The command bus of a pseudo-channel's channel is taken in a cycle. -/
def State.busTaken (s : State) (n cycle : Nat) : Bool := (s.pc n).bus.contains cycle || (s.pc (partner n)).bus.contains cycle

/-- The cycles that a command of a pseudo-channel which is pending at a cycle waits for the bus (R443): none where the
bus is free, else until the first free one of its pseudo-channel's turns, every other cycle (log 50). -/
def State.busWait (s : State) (n cycle : Nat) : Nat :=
  if !s.busTaken n cycle then 0
  else ((List.range (2 * ((s.pc n).bus.length + (s.pc (partner n)).bus.length) + 3)).find? fun i => i != 0 && (cycle + i) % 2 == n % 2 && !s.busTaken n (cycle + i)).getD 0

/-- The command is carried in a cycle; turns that neither pseudo-channel can name again are forgotten. -/
def State.takeBus (s : State) (n cycle : Nat) : State :=
  let p := s.pc n
  let old := min p.now (s.pc (partner n)).now
  s.setPc n { p with bus := (p.bus.filter fun c => decide (old ≤ c)) ++ [cycle] }

/-- Bank `b` comes due at cycle 208k + 13b, k ≥ 1, from the last timer start (R442). -/
def PcSt.dueAt (p : PcSt) (b cycle : Nat) : Bool :=
  match p.start with
  | none => false
  | some c => decide (c + refreshEvery + 13 * b ≤ cycle) && (cycle - c - 13 * b) % refreshEvery == 0

/-- A read of a group waits for a refresh. -/
def PcSt.wanted (p : PcSt) (group : Nat) : Bool := p.waiting.any fun r => r.bank / 4 == group

/-- The group of a bank is active at a cycle: a read of it waits, or left service less than RHOLD cycles ago. -/
def PcSt.active (p : PcSt) (group cycle : Nat) : Bool :=
  let u := p.activeUntil.get 0 group
  p.wanted group || (u != 0 && decide (cycle < u - 1))

/-- A read of a group keeps it active until RHOLD cycles after it leaves service. -/
def PcSt.activate (p : PcSt) (group leave : Nat) : PcSt :=
  { p with activeUntil := p.activeUntil.set 0 group (max (p.activeUntil.get 0 group) (leave + p.rhold + 1)) }

/-- A per-bank refresh starts. -/
def PcSt.startBank (p : PcSt) (b cycle : Nat) : PcSt := { p with bankUntil := p.bankUntil.set 0 b (cycle + tRFCpb + 1) }

/-- A bank's refresh starts at a cycle, with its command in that slot of the bus. -/
def State.startRefresh (s : State) (n b at' : Nat) : State := (s.setPc n ((s.pc n).startBank b at')).takeBus n at'

/-- A due refresh (R442). One for an inactive group is issued in a cycle that no read needs (R443). -/
def State.refreshDue (s : State) (n b cycle : Nat) : State :=
  let p := { s.pc n with now := cycle }
  let post := p.post.get 0 b
  if p.pendingAll ∨ p.allUntil.isSome then s.setPc n p
  else if p.active (b / 4) cycle then
    if post < 8 then s.setPc n { p with post := p.post.set 0 b (post + 1), postponed := p.postponed + 1 }
    else s.setPc n { p with pendingAll := true, forced := p.forced + 1 }
  else if p.bankUntil.get 0 b ≠ 0 ∨ post ≠ 0 then s.setPc n { p with extra := p.extra.set 0 b (p.extra.get 0 b + 1) }
  else (s.setPc n p).startRefresh n b (cycle + s.busWait n cycle)

/-- REFRESH_DUE (R442). Operand: pseudo-channel, bank, cycle. -/
def execRefreshDue (s : State) : Out :=
  let p := s.pc s.operand.n0
  whenDue "REFRESH_DUE" (p.dueAt s.operand.n1 s.operand.n2 && decide (s.operand.n1 < 16) && decide (p.now ≤ s.operand.n2))
    (s.refreshDue s.operand.n0 s.operand.n1 s.operand.n2)

/-- The refresh that an idle bank owes goes off its account: a postponed one, or after those one that fell due behind
them (R442). -/
def PcSt.owed (p : PcSt) (b : Nat) : Option PcSt :=
  if p.bankUntil.get 0 b ≠ 0 then none
  else if p.post.get 0 b ≠ 0 then some { p with post := p.post.set 0 b (p.post.get 0 b - 1) }
  else if p.extra.get 0 b ≠ 0 then some { p with extra := p.extra.set 0 b (p.extra.get 0 b - 1) }
  else none

/-- A bank starts the next refresh that it owes at a cycle. -/
def State.payRefresh (s : State) (n b at' : Nat) : State :=
  match (s.pc n).owed b with
  | some p => (s.setPc n p).startRefresh n b at'
  | none => s

/-- GROUP_INACTIVE (R442): each of the group's banks starts the first refresh that it owes, one command per slot of the
bus (R443). Operand: pseudo-channel, group, cycle. -/
def execGroupInactive (s : State) : Out :=
  let n := s.operand.n0
  let p := s.pc n
  let g := s.operand.n1
  let u := p.activeUntil.get 0 g
  let s1 := s.setPc n { p with activeUntil := p.activeUntil.set 0 g 0, now := s.operand.n2 }
  whenDue "GROUP_INACTIVE" (u != 0 && decide (u - 1 ≤ s.operand.n2) && !p.wanted g && decide (p.now ≤ s.operand.n2))
    ((List.range 4).foldl (fun s i => s.payRefresh n (4 * g + i) (s.operand.n2 + s.busWait n s.operand.n2)) s1)

/-- An all-bank refresh starts: it refreshes every bank and sets every POST to 0 (R442). -/
def PcSt.startAll (p : PcSt) (cycle : Nat) : PcSt :=
  { p with pendingAll := false, allUntil := some (cycle + tRFCab), post := [], extra := [], now := cycle }

/-- FORCED_REFRESH_START (R442). Operand: pseudo-channel, cycle. -/
def execForcedRefreshStart (s : State) : Out :=
  let p := s.pc s.operand.n0
  whenDue "FORCED_REFRESH_START"
    (p.pendingAll && decide (p.serviceUntil ≤ s.operand.n1) && p.allUntil.isNone && decide (p.now ≤ s.operand.n1))
    (s.setPc s.operand.n0 (p.startAll s.operand.n1))

/-- A read's command gets its slot of the bus, and the read enters service (R441, R443); its wait for the slot is
charged (R444). -/
def State.serveRead (s : State) (n cycle bank uid : Nat) : State :=
  let at' := cycle + s.busWait n cycle
  let p := (s.pc n).activate (bank / 4) (at' + serviceCycles)
  ((s.setPc n { p with serviceUntil := max p.serviceUntil (at' + serviceCycles) }).takeBus n at').addLat uid 3 (at' - cycle)

/-- Reads that waited enter service, and their waits are charged (R442, R444). -/
def State.serveReads (s : State) (n cycle lat : Nat) (which : HbmRead → Bool) : State :=
  let p := s.pc n
  let go := p.waiting.filter which
  go.foldl (fun s r => (s.serveRead n cycle r.bank r.uid).addLat r.uid lat (cycle - r.arrival))
    (s.setPc n { p with waiting := p.waiting.filter fun r => !which r })

/-- REFRESH_END (R442). Operand: pseudo-channel, bank, cycle; `flag` for an all-bank refresh. -/
def execRefreshEnd (s : State) : Out :=
  let n := s.operand.n0
  let b := s.operand.n1
  let cycle := s.operand.n2
  let p := s.pc n
  if s.operand.flag then
    whenDue "REFRESH_END" (p.allUntil == some cycle && decide (p.now ≤ cycle))
      ((s.setPc n { p with allUntil := none, abusy := false, now := cycle }).serveReads n cycle 1 fun _ => true)
  else
    let p1 := { p with bankUntil := p.bankUntil.set 0 b 0, now := cycle }
    let s1 := s.setPc n p1
    let s2 := if p.active (b / 4) cycle then s1 else s1.payRefresh n b cycle
    whenDue "REFRESH_END" (p.bankUntil.get 0 b == cycle + 1 && decide (p.now ≤ cycle))
      (if (s2.pc n).bankUntil.get 0 b = 0 then s2.serveReads n cycle 0 fun r => r.bank == b else s2)

/-- The alignment refresh of REFCFG.ALIGN (R454): not counted, POST 0, and the timers held until the next read. -/
def State.refAlign (s : State) (n cycle : Nat) : State :=
  let p := s.pc n
  s.setPc n { p.startAll cycle with abusy := true, start := none }

/-- REFCFG_ALIGN (R454). Operand: pseudo-channel, cycle. -/
def execRefcfgAlign (s : State) : Out :=
  whenDue "REFCFG_ALIGN" (decide ((s.pc s.operand.n0).now ≤ s.operand.n1)) (s.refAlign s.operand.n0 s.operand.n1)

/-! ## Reads at the controllers (R441, R447) -/

/-- The read at its controller (R441, R442): in service, or waiting behind a refresh. It starts timers that
REFCFG.ALIGN held (R454). -/
def State.arriveRead (s : State) (n b cycle uid : Nat) : State :=
  let p := s.pc n
  let p := { p with start := some (p.start.getD cycle), now := cycle }.activate (b / 4) (cycle + serviceCycles)
  if p.pendingAll ∨ p.allUntil.isSome ∨ p.bankUntil.get 0 b ≠ 0 then
    s.setPc n { p with waiting := p.waiting ++ [{ bank := b, arrival := cycle, uid := uid }] }
  else (s.setPc n p).serveRead n cycle b uid

/-- MEMORY_READ_ARRIVAL (R441, R445): a read that a miss has sent. Operand: physical address, cycle. -/
def execMemoryReadArrival (s : State) : Out :=
  let a := s.operand.n0
  let die := hbmDie a
  let p := s.pc (pcOf a)
  let m := s.slice die
  match m.missing.find? fun r => r.1 == mscLine a with
  | some r => whenDue "MEMORY_READ_ARRIVAL" (isHbm a && packageOf a == s.myPkg && decide (p.now ≤ s.operand.n1))
      ((s.arriveRead (pcOf a) (bankOf a) s.operand.n1 r.2).setSlice die { m with missing := m.missing.erase r })
  | none => notDue "MEMORY_READ_ARRIVAL"

/-! ## Flushes and pins of the memory-side cache (R446, R449) -/

/-- A flush (R449): dirty lines of the range are written back, unpinned ones invalidated, pinned ones stay clean. -/
def State.flushLines (s : State) (die : Nat) (inRange : Nat → Bool) : State :=
  ((s.slice die).lines.filter fun l => inRange l.line).foldl (fun s l =>
    if l.pinned then (if l.dirty.isSome then s.cleanLine die l else s) else s.dropLine die l) s

/-- A line lies in a frame. -/
def inFrame (frame line : Nat) : Bool :=
  decide (mscLine (frame * pageSize) ≤ line) && decide (line < mscLine (frame * pageSize) + 16384)

/-- A frame of a die's own HBM4E. -/
def State.frameOfDie (s : State) (die frame : Nat) : Bool :=
  isHbm (frame * pageSize) && hbmDie (frame * pageSize) == die && packageOf (frame * pageSize) == s.myPkg

/-- MSCFLUSH MODE 1 (R449). -/
def State.mscFlushAll (s : State) (die : Nat) : State :=
  let s1 := s.flushLines die fun _ => true
  s1.setSlice die { s1.slice die with flush := some .flushAll }

/-- MSCFLUSH MODE 2 (R449). -/
def State.mscFlushFrame (s : State) (die frame : Nat) : State :=
  let s1 := s.flushLines die (inFrame frame)
  s1.setSlice die { s1.slice die with flush := some (.flushFrame frame) }

/-- MSCFLUSH_SLICE (R449). Operand: die. -/
def execMscflushSlice (s : State) : Out :=
  whenDue "MSCFLUSH_SLICE" (decide (s.operand.n0 < 4)) (s.mscFlushAll s.operand.n0)

/-- MSCFLUSH_FRAME (R449). Operand: die, frame. -/
def execMscflushFrame (s : State) : Out :=
  whenDue "MSCFLUSH_FRAME" (decide (s.operand.n0 < 4) && s.frameOfDie s.operand.n0 s.operand.n1)
    (s.mscFlushFrame s.operand.n0 s.operand.n1)

/-- MSCFLUSH_DONE (R449). Operand: die. -/
def execMscflushDone (s : State) : Out :=
  let m := s.slice s.operand.n0
  whenDue "MSCFLUSH_DONE" m.flush.isSome (s.setSlice s.operand.n0 { m with flush := none })

/-- The way among ways 0 to 7 that a pin takes in a set: ungated, with no pinned line (R446). -/
def MscSt.pinWay (m : MscSt) (set : Nat) : Option Nat :=
  (List.range 8).find? fun w => !m.off.getLsbD w && !m.lines.any fun l => mscSet l.line == set && l.way == w && l.pinned

/-- Every set of the frame has a way for its line (R446). -/
def MscSt.canPin (m : MscSt) (frame : Nat) : Bool := (frameLines frame).all fun l => (m.pinWay (mscSet l)).isSome

/-- Pin one line: what its way held goes. -/
def State.pinLine (s : State) (die line : Nat) : State :=
  match (s.slice die).pinWay (mscSet line) with
  | none => s
  | some w =>
    let was := (s.slice die).find line
    let gone := (s.slice die).lines.filter fun l => mscSet l.line == mscSet line && l.way == w && l.line != line
    let s1 := gone.foldl (fun s l => s.dropLine die l) s
    let m := s1.slice die
    let l : MscLine := { line := line, way := w, dirty := was.bind (·.dirty), pinned := true, used := m.clock
                         under := (was.map (·.under)).getD [] }
    s1.setSlice die { m with lines := (m.lines.filter fun x => x.line != line) ++ [l], clock := m.clock + 1 }

/-- A write of MSCPIN starts a pin or an unpin (R446, R454). -/
def State.startPin (s : State) (die : Nat) (op : MscOp) (frame : Nat) : State :=
  s.setSlice die { s.slice die with pinning := some op, pinFrame := BitVec.ofNat 31 frame }

/-- MSCPIN_PIN (R446). Operand: die, frame. -/
def execMscpinPin (s : State) : Out :=
  whenDue "MSCPIN_PIN" (decide (s.operand.n0 < 4) && s.frameOfDie s.operand.n0 s.operand.n1)
    (s.startPin s.operand.n0 (.pin s.operand.n1) s.operand.n1)

/-- MSCPIN_UNPIN (R446). Operand: die, frame. -/
def execMscpinUnpin (s : State) : Out :=
  whenDue "MSCPIN_UNPIN" (decide (s.operand.n0 < 4) && s.frameOfDie s.operand.n0 s.operand.n1)
    (s.startPin s.operand.n0 (.unpin s.operand.n1) s.operand.n1)

/-- A line of the frame is pinned no longer. -/
def MscLine.unpin (l : MscLine) (frame : Nat) : MscLine := { l with pinned := l.pinned && !inFrame frame l.line }

/-- The pin or unpin in progress takes effect. -/
def State.finishPin (s : State) (die : Nat) : State :=
  match (s.slice die).pinning with
  | some (.pin f) =>
    if (s.slice die).canPin f then
      let s1 := (frameLines f).foldl (fun s l => s.pinLine die l) s
      s1.setSlice die { s1.slice die with pinning := none, pinFail := false }
    else s.setSlice die { s.slice die with pinning := none, pinFail := true }
  | some (.unpin f) =>
    let m := s.slice die
    s.setSlice die { m with pinning := none, lines := m.lines.map (·.unpin f) }
  | _ => s

/-- MSCPIN_DONE (R446). Operand: die. -/
def execMscpinDone (s : State) : Out :=
  whenDue "MSCPIN_DONE" (s.slice s.operand.n0).pinning.isSome (s.finishPin s.operand.n0)

/-- A write of WAYGATE that Table 6 of chapter 16 refuses. -/
def MscSt.wayRefused (m : MscSt) (off : BitVec 16) : Bool :=
  off == 0xFFFF || (List.range 16).any fun w => off.getLsbD w && !m.off.getLsbD w &&
    ((m.lines.any fun l => l.way == w && l.pinned) || (decide (w < 8) && m.pinning.isSome))

/-- Gate and wake ways (R451): the lines of a gated way are written back, and a way comes back invalid. -/
def State.setWays (s : State) (die : Nat) (off : BitVec 16) : State :=
  let s1 := ((s.slice die).lines.filter fun l => off.getLsbD l.way).foldl (fun s l => s.dropLine die l) s
  s1.setSlice die { s1.slice die with off := off }

/-- WAYGATE (R451). Operand: die, and OFF in `val`. -/
def execWaygate (s : State) : Out :=
  let off := s.operand.val.setWidth 16
  whenDue "WAYGATE" (decide (s.operand.n0 < 4) && !(s.slice s.operand.n0).wayRefused off) (s.setWays s.operand.n0 off)

/-- SECOND_TIER_REFRESH (R450). Operand: channel, the context's number, the cycles that a read of it was held. Such
waits count under REFAB. -/
def execSecondTierRefresh (s : State) : Out :=
  whenDue "SECOND_TIER_REFRESH" (decide (s.operand.n0 < 32)) (s.addLat s.operand.n1 1 s.operand.n2)

/-! ## Power regions (R451, R452, R411) -/

/-- A range meets scratchpad bank `j`. -/
def meetsBank (j : Nat) (r : Nat × Nat) : Bool :=
  decide (r.1 < (j + 1) * 0x30000) && decide (j * 0x30000 < r.1 + r.2)

/-- The scratchpad ranges of a context's active streams. -/
def Ctx.streamSpans (c : Ctx) : List (Nat × Nat) :=
  c.acc.s.filterMap fun p =>
    let t := p.2
    if (t.st == .run || t.st == .fault) && t.desc.sp then
      some (t.desc.low.toNat, (t.desc.high - t.desc.low).toNat + t.desc.cnt0 * fmtBits t.desc.fmt / 8)
    else none

/-- Bytes of a ring's tile, and the scratchpad offset of its first slot (R312, R313). -/
def TileRing.size (r : TileRing) : Nat := tileBytes r.fmt r.rows r.kb
def TileRing.start (r : TileRing) : Nat := 2048 * r.base

/-- The scratchpad ranges of a context's rings. -/
def Ctx.ringSpans (c : Ctx) : List (Nat × Nat) :=
  (c.mat.rings.filter fun p => p.2.defined).map fun p => (p.2.start, p.2.size * p.2.slots)

/-- The sync words of a context (R106, R214, R250, R405): those that a wait slot or an arm names, that a command in flight
counts at, and that a queue notifies. -/
def State.syncWords (s : State) (c : Ctx) : List Nat :=
  (c.seq.slots.filterMap fun p => match p.2 with
    | .gen off _ => some off
    | _ => none)
  ++ c.units.swarm.toList
  ++ (s.units.cmds.filterMap fun d => if d.uid = c.job.uid then d.sync else none)
  ++ s.units.egress.filterMap fun p => p.2.notify.bind fun n => if n.1 = c.job.uid then some n.2 else none

/-- Scratchpad ranges that keep a bank from being gated: rings, sync words, active streams (Table 6 of chapter 16). -/
def State.padUse (s : State) (k : BankKey) : List (Nat × Nat) :=
  let c := s.bankCtx k
  c.streamSpans ++ c.ringSpans ++ (s.syncWords c).map fun o => (o, 16)

/-- A gate request that Table 6 of chapter 16, or R411, refuses. -/
def State.gateRefused (s : State) : Region → Bool
  | .scratchpad d c b m => (s.bankCtx (bankKey d c b)).resident &&
      (List.range 8).any fun j => m.getLsbD j && (s.padUse (bankKey d c b)).any (meetsBank j)
  | .quarter _ => false
  | .bank d c b => (s.bankCtx (bankKey d c b)).resident
  | .way _ _ => true

/-- A request for a region begins (R452, R454): a gate waits until nothing accesses the region, a wake takes its
time. -/
def State.beginRegion (s : State) (die : Nat) (r : Region) (wake : Bool) : State :=
  let d := s.dieSt die
  let s1 := s.setDie die { d with requests := d.requests ++ [(r, wake)], refused := false }
  if wake then
    match r with
    | .scratchpad dd c b m =>
      let k := bankKey dd c b
      let x := s1.bankCtx k
      s1.setBank k { x with padGated := x.padGated &&& ~~~m, padWaking := x.padWaking ||| (x.padGated &&& m) }
    | .quarter q =>
      let m : BitVec 4 := 1#4 <<< q
      { s1 with quarterOff := s1.quarterOff &&& ~~~m, quarterWaking := s1.quarterWaking ||| (s1.quarterOff &&& m) }
    | .bank dd c b => { s1 with bankWaking := s1.bankWaking.set false (bankKey dd c b) true }
    | .way _ _ => s1
  else s1

/-- A request through PWRREQ of a die (R454): refused, or begun. -/
def State.requestRegion (s : State) (die : Nat) (r : Region) (wake : Bool) : State :=
  if !wake ∧ s.gateRefused r then s.setDie die { s.dieSt die with refused := true }
  else s.beginRegion die r wake

/-- Numbers that name a region of the package. -/
def regionOk : Region → Bool
  | .scratchpad d c b _ => decide (d < 4) && decide (c < 72) && decide (b < 4)
  | .quarter q => decide (q < 4)
  | .bank d c b => decide (d < 4) && decide (c < 72) && decide (b < 4)
  | .way _ _ => false

/-- PWRREQ_GATE_SCRATCHPAD (R451). Operand: die, core, bank, and MASK in `val`. -/
def execPwrreqGateScratchpad (s : State) : Out :=
  let o := s.operand
  let r := Region.scratchpad o.n0 o.n1 o.n2 (o.val.setWidth 8)
  whenDue "PWRREQ_GATE_SCRATCHPAD" (regionOk r) (s.requestRegion o.n0 r false)

/-- PWRREQ_WAKE_SCRATCHPAD (R451). Operand as for the gate. -/
def execPwrreqWakeScratchpad (s : State) : Out :=
  let o := s.operand
  let r := Region.scratchpad o.n0 o.n1 o.n2 (o.val.setWidth 8)
  whenDue "PWRREQ_WAKE_SCRATCHPAD" (regionOk r) (s.requestRegion o.n0 r true)

/-- PWRREQ_GATE_QUARTER (R451). Operand: quarter, and the die whose register is written. -/
def execPwrreqGateQuarter (s : State) : Out :=
  whenDue "PWRREQ_GATE_QUARTER" (regionOk (.quarter s.operand.n0) && decide (s.operand.n1 < 4))
    (s.requestRegion s.operand.n1 (.quarter s.operand.n0) false)

/-- PWRREQ_WAKE_QUARTER (R451). Operand as for the gate. -/
def execPwrreqWakeQuarter (s : State) : Out :=
  whenDue "PWRREQ_WAKE_QUARTER" (regionOk (.quarter s.operand.n0) && decide (s.operand.n1 < 4))
    (s.requestRegion s.operand.n1 (.quarter s.operand.n0) true)

/-- PWRREQ_GATE_BANK (R411). Operand: die, core, bank. -/
def execPwrreqGateBank (s : State) : Out :=
  let o := s.operand
  whenDue "PWRREQ_GATE_BANK" (regionOk (.bank o.n0 o.n1 o.n2)) (s.requestRegion o.n0 (.bank o.n0 o.n1 o.n2) false)

/-- PWRREQ_WAKE_BANK (R411). Operand: die, core, bank. -/
def execPwrreqWakeBank (s : State) : Out :=
  let o := s.operand
  whenDue "PWRREQ_WAKE_BANK" (regionOk (.bank o.n0 o.n1 o.n2)) (s.requestRegion o.n0 (.bank o.n0 o.n1 o.n2) true)

/-- The die whose register holds a request. -/
def State.requestDie (s : State) (r : Region) (wake : Bool) : Option Nat :=
  (List.range 4).find? fun d => (s.dieSt d).requests.contains (r, wake)

/-- A request is over: PWRSTAT.BUSY falls with the last (Table 8 of chapter 16). -/
def State.endRequest (s : State) (die : Nat) (r : Region) (wake : Bool) : State :=
  let d := s.dieSt die
  let off := match r with | .bank .. => !wake | _ => d.lastOff
  s.setDie die { d with requests := d.requests.erase (r, wake), lastOff := off }

/-- A region that has woken (R411, R451, R452): a scratchpad bank and a whole bank read zero. -/
def State.wakeRegion (s : State) : Region → State
  | .scratchpad d c b m =>
    let k := bankKey d c b
    let x := s.bankCtx k
    let woken := fun (o : Nat) => m.getLsbD (o / 0x30000) && x.padWaking.getLsbD (o / 0x30000)
    s.setBank k { x with
      padWaking := x.padWaking &&& ~~~m
      pad := x.pad.filter fun p => !woken p.1
      padBad := x.padBad.filter fun n => !woken (32 * n) }
  | .quarter q => { s with quarterWaking := s.quarterWaking &&& ~~~(1#4 <<< q) }
  | .bank d c b =>
    let k := bankKey d c b
    let s1 := { s with bankOff := s.bankOff.set false k false, bankWaking := s.bankWaking.set false k false }
    if s.bankOff.get false k then (s1.setBank k {}).noteFree d else s1
  | .way _ _ => s

/-- REGION_AWAKE (R452). Operand: region. -/
def execRegionAwake (s : State) : Out :=
  match s.requestDie s.operand.region true with
  | some d => .next ((s.wakeRegion s.operand.region).endRequest d s.operand.region true)
  | none => notDue "REGION_AWAKE"

/-- A region that is gated now. -/
def State.gateRegion (s : State) : Region → State
  | .scratchpad d c b m =>
    let k := bankKey d c b
    let x := s.bankCtx k
    s.setBank k { x with padGated := x.padGated ||| m }
  | .quarter q => { s with quarterOff := s.quarterOff ||| (1#4 <<< q) }
  | .bank d c b => { s with bankOff := s.bankOff.set false (bankKey d c b) true }
  | .way _ _ => s

/-- An access to the region is in flight (R452): a write that waits at a port, a load that has been sent, or a
watermarked copy. -/
def State.regionBusy (s : State) : Region → Bool
  | .quarter q =>
    let inside := fun a => isSecond a && quarterOf a == q
    (s.ports.any fun p => match s.locate p.cap p.off with
      | .at a => inside a
      | _ => false)
    || (s.ctx :: s.banks.map (·.2)).any fun c => c.acc.loads.any fun l => (l.sent.getD []).any fun p => inside p.1
  | .scratchpad d c b m => s.marks.any fun w => w.space == .pad && w.uid == (s.bankCtx (bankKey d c b)).job.uid &&
      (List.range 8).any fun j => m.getLsbD j && meetsBank j (w.low, w.stop - w.low)
  | _ => false

/-- REGION_GATED (R452). Operand: region. -/
def execRegionGated (s : State) : Out :=
  match s.requestDie s.operand.region false with
  | some d =>
    whenDue "REGION_GATED" (!s.regionBusy s.operand.region && !s.gateRefused s.operand.region)
      ((s.gateRegion s.operand.region).endRequest d s.operand.region false)
  | none => notDue "REGION_GATED"

/-- The die at which the power manager makes a request. -/
def regionDie : Region → Nat
  | .scratchpad d _ _ _ => d
  | .quarter _ => 0
  | .bank d _ _ => d
  | .way d _ => d

/-- POWER_MANAGER_REQUEST (R411, R454). Operand: region, and `flag` for a wake. -/
def execPowerManagerRequest (s : State) : Out :=
  let r := s.operand.region
  whenDue "POWER_MANAGER_REQUEST" (regionOk r && (s.operand.flag || !s.gateRefused r))
    (s.beginRegion (regionDie r) r s.operand.flag)

/-! ## The stacked clock (R453) -/

/-- The least RATIO that the levels of a die's slice islands permit (R465). -/
def State.ratioCap (s : State) (die : Nat) : Nat :=
  (List.range 72).foldl (fun m c =>
    match s.power.level.get 4 (3 * (72 * die + c) + 2) with
    | 1 => max m 1
    | 2 | 3 => 2
    | _ => m) 0

/-- A ratio that XCLK allows. -/
def State.ratioOk (s : State) (die : Nat) (r : BitVec 2) : Bool := r != 3 && decide (s.ratioCap die ≤ r.toNat)

/-- A write of XCLK.RATIO: the sources hold their requests and the FIFOs drain (R453). -/
def State.startXclk (s : State) (die : Nat) (r : BitVec 2) : State :=
  s.setDie die { s.dieSt die with stage := .draining r }

/-- XCLK (R453). Operand: die, and RATIO in `val`. -/
def execXclk (s : State) : Out :=
  let r := s.operand.val.setWidth 2
  whenDue "XCLK" (decide (s.operand.n0 < 4) && s.ratioOk s.operand.n0 r) (s.startXclk s.operand.n0 r)

/-- CROSSING_DRAIN_DONE (R453). Operand: die. -/
def execCrossingDrainDone (s : State) : Out :=
  let d := s.dieSt s.operand.n0
  match d.stage with
  | .draining r => .next (s.setDie s.operand.n0 { d with ratio := r, stage := .relocking })
  | _ => notDue "CROSSING_DRAIN_DONE"

/-- RELOCK_DONE (R453). Operand: die. How many source-cycles were held, the spec leaves to the traffic: a free value. -/
def execRelockDone (s : State) : Out :=
  let d := s.dieSt s.operand.n0
  match d.stage with
  | .relocking =>
    .next { s.setDie s.operand.n0 { d with stage := .idle, held := d.held + (Config.freeValue s.fresh).setWidth 32 } with
      fresh := s.fresh + 1 }
  | _ => notDue "RELOCK_DONE"

end Sys2Proof.Machine
end

