-- ==== Sys2Proof/Machine/Copy.lean ====
section
/-! DEFINITION. The copy engines' instructions and steps (R206 to R228). -/
namespace Sys2Proof.Machine

/-! ## References and sides -/

/-- A capability register, or a scratchpad reference (R208). -/
structure SideArg where
  sp : Bool
  cap : Cap := Cap.null
  ref : DWord := 0
  deriving DecidableEq, Repr

/-- Read the operand of a side. -/
def getSide (sp : BitVec 1) (r : BitVec 5) : M SideArg := do
  if sp = 1 then do
    let v ← rdX r
    pure { sp := true, ref := v }
  else do
    let c ← rdC r
    pure { sp := false, cap := c }

/-- The fields of a scratchpad reference (Table 1 of chapter 6). -/
def refPeer (v : DWord) : Bool := v.getLsbD 63
def refRank (v : DWord) : Nat := (v.extractLsb' 32 18).toNat
def refOff (v : DWord) : Nat := (v.extractLsb' 0 21).toNat

/-- What of a scratchpad reference raises ILLEGAL_OPERAND (R208). -/
def State.refBad (s : State) (v : DWord) : Bool :=
  v.extractLsb' 50 13 != 0 || v.extractLsb' 21 11 != 0
    || (if refPeer v then decide (s.ctx.groupSize ≤ refRank v) || s.ctx.group.1 == 4 else refRank v != 0)

/-- A reference that must name the issuing context's own scratchpad. -/
def State.ownRefBad (s : State) (v : DWord) : Bool := s.refBad v || refPeer v

/-- A range of a scratchpad that is not within it (R208). -/
def padRange (off : Int) (n : Nat) : Option TrapInfo :=
  if off < 0 ∨ off + n > padSize then some { cause := .capBounds, toff := off.toNat, tinfo := n } else none

/-- Type and rights alone, of an operand whose bounds are not checked at issue (R220, R224). -/
def State.capKind (s : State) (c : Cap) (types : List Nat) (rights : List Nat) : Option TrapInfo :=
  let t := fun cause => ({ cause := cause, toff := c.cursor.toNat, cap := c } : TrapInfo)
  if c = Cap.null then some { cause := .capBounds, cap := c }
  else if s.capUnusable c types then some (t .capType)
  else if c.rights &&& rightsOf rights ≠ rightsOf rights then some (t .capRights)
  else none

def SideArg.bad (x : SideArg) (s : State) : Bool := x.sp && s.refBad x.ref

/-- What of a side's type and rights fails, whatever its range. -/
def SideArg.kind (x : SideArg) (s : State) (right : Nat) : Option TrapInfo :=
  if x.sp then none else s.capKind x.cap [tyData] [right]

/-- The range check of a side, from `low` bytes behind its base, under a right (R208, R210). -/
def SideArg.check (x : SideArg) (s : State) (low : Int) (n : Nat) (right : Nat) : Option TrapInfo :=
  if x.sp then padRange (refOff x.ref + low) n else s.capCheck x.cap low n [tyData] (rightsOf [right])

/-- The side that an operand names. -/
def SideArg.side (x : SideArg) (s : State) : Side :=
  if !x.sp then .mem x.cap x.cap.cursor.toNat
  else if refPeer x.ref then
    match s.member s.ctx.group (refRank x.ref) with
    | some c => .pad c.job.uid (refOff x.ref)
    | none => .gone (refOff x.ref)
  else .pad s.ctx.job.uid (refOff x.ref)

/-- A side in the issuing context's own scratchpad. -/
def Side.own (x : Side) (uid : Nat) : Bool := match x with | .pad u _ => u == uid | _ => false
/-- A side in some scratchpad. -/
def Side.scratch : Side → Bool | .pad .. | .gone _ | .group .. => true | _ => false

/-- What an L2 reference raises (R209): ILLEGAL_OPERAND, and then CAP_BOUNDS. -/
def l2RefBad (v : DWord) : Bool :=
  v.extractLsb' 42 22 != 0 || v.extractLsb' 36 4 != 0 || v.extractLsb' 23 9 != 0 || decide (12 ≤ (v.extractLsb' 32 4).toNat)
def l2Slice (v : DWord) : Nat := 12 * (v.extractLsb' 40 2).toNat + (v.extractLsb' 32 4).toNat
def l2Off (v : DWord) : Nat := (v.extractLsb' 0 23).toNat
def State.l2Check (s : State) (v : DWord) (low : Int) (n : Nat) : Option TrapInfo :=
  let u := s.ctx.units
  let o : Int := l2Off v + low
  if !u.l2mask.getLsbD (l2Slice v) ∨ o < u.l2lo ∨ o + n > u.l2hi then
    some { cause := .capBounds, toff := o.toNat, tinfo := n }
  else none

/-- The place of a cause in step 5 of R72. -/
def capOrder : Cause → Nat
  | .capType => 0
  | .capRights => 1
  | _ => 2

/-- The first fault of several capability checks, in the order of R72. -/
def firstCapFault (l : List (Option TrapInfo)) : Option TrapInfo :=
  l.foldl (fun b t => match b, t with
    | some x, some y => if capOrder y.cause < capOrder x.cause then some y else some x
    | none, y => y
    | x, none => x) none

/-! ## Issue (R207, R211, R214, R228) -/

/-- Issue a command of a class: it takes the next number and leaves the core; deferred, it takes an entry of the commit
buffer instead (R40). The arms that it takes are gone. -/
def State.issueCmd (s : State) (cls : Nat) (counted deferred wmark : Bool) (sync : Option Nat) (body : CmdBody)
    (sent : List Trans := []) : State :=
  let t := s.ctx.units.tl.get {} cls
  let num := if deferred then 0 else t.issued + 1
  let c : Cmd := { (s.freeCmd body) with
    cls := cls, num := num, held := deferred, counted := counted, wmark := wmark && !deferred, sync := sync, sent := sent }
  let s1 := s.addCmd c
  if deferred then s1.modAcc fun a => { a with commit := a.commit ++ [.deferred c.n], nextLoad := a.nextLoad + 1 }
  else s1.modCtx fun x => { x with units.tl := x.units.tl.set {} cls { t with issued := t.issued + 1 }
                                   acc.nextLoad := x.acc.nextLoad + 1 }

/-- The commit buffer has room for `n` entries (R42). -/
def commitRoom (n : Nat) : M Unit := do
  let s ← get
  if s.ctx.acc.commit.length + n ≤ commitDepth then pure () else raise { cause := .commitOverflow }

/-- The pending arms fit a command that can take `w` a watermark and `y` a sync word (R214). -/
def State.armsBad (s : State) (w y : Bool) : Bool := (s.ctx.units.wmark && !w) || (s.ctx.units.swarm.isSome && !y)

/-- A context has room for one more copy-class command (R207). -/
def State.copyRoom (s : State) : Bool :=
  let l := (s.cmdsOf s.ctx.job.uid).filter fun c => c.cls == 0
  decide (l.length < maxInFlight) && !(s.ctx.units.wmark && decide (maxMarked ≤ (l.filter (·.wmark)).length))

/-- What a watermark covers, and the range (R109, R215): nothing in a peer's scratchpad. -/
def CopyCmd.mark (c : CopyCmd) (uid cmd : Nat) : Option Mark :=
  let sp := patternSpan c.doff c.dstr1 c.dstr2 c.cnt0 c.cnt1 c.cnt2
  let low := if c.pos < c.total then (c.dst.base + c.lowest).toNat else (c.dst.base + sp.2 + 1).toNat
  let m := fun space => ({ uid := uid, cmd := cmd, space := space, low := low, stop := (c.dst.base + sp.2 + 1).toNat } : Mark)
  match c.dst with
  | .mem cap _ => some (m (objOf cap))
  | .pad u _ => if u = uid then some (m .pad) else none
  | .l2 sl _ => some (m (.l2 sl))
  | .gone _ | .group .. => none

/-- Replace the watermark of a command. -/
def State.setMark (s : State) (cmd : Nat) (m : Option Mark) : State :=
  { s with marks := (s.marks.filter fun x => x.cmd != cmd) ++ m.toList }

/-- Issue a copy-class command whose checks have passed. -/
def issueCopy (w y : Bool) (atOnce : Bool) (body : CmdBody) : M Unit := do
  let s ← get
  let u := s.ctx.units
  let deferred := s.ctx.job.task && !atOnce
  if deferred then commitRoom 1 else await s.copyRoom
  let s1 := s.issueCmd 0 true deferred (w && u.wmark) (if y then u.swarm else none) body
  let s2 := s1.modCtx fun x => { x with
    units.wmark := x.units.wmark && !w, units.swarm := if y then none else x.units.swarm }
  match body with
  | .copy c => set (if w && u.wmark && !deferred then s2.setMark s.units.nextCmd (c.mark s.ctx.job.uid s.units.nextCmd) else s2)
  | _ => set s2

/-- The limit of a length (R216). -/
def maxLen : Nat := 2 ^ 32 - 1

def effCpy (d a b : BitVec 5) (dsp ssp : BitVec 1) (_ : Env) : M Unit := do
  let dst ← getSide dsp d
  let src ← getSide ssp a
  let len ← rdX b
  let s ← get
  let n := len.toNat
  need (!(dst.bad s || src.bad s || decide (maxLen < n) || s.armsBad true dst.sp)) .illegalOperand
  check (firstCapFault [dst.check s 0 n rCD, src.check s 0 n rCS])
  issueCopy true dst.sp ((dst.side s).own s.ctx.job.uid) (.copy { src := src.side s, dst := dst.side s, cnt0 := n })
/-- CPY (R216). -/
def execCpy (d a b : BitVec 5) (dsp ssp : BitVec 1) (s : State) : Out :=
  issueAcc (.cpy d a b dsp ssp) 1 (copyFault d a dsp ssp) (effCpy d a b dsp ssp) s

/-- What of a CPY2 descriptor raises ILLEGAL_OPERAND (R217). -/
def desc2Bad (b : Bytes) : Bool :=
  let c0 := field32 b 0
  let c1 := field32 b 4
  let c2 := field32 b 8
  field32 b 12 != 0 || c0 == 0 || c1 == 0 || c2 == 0 || decide (2 ^ 40 < c0 * c1 * c2)

/-- A range of the scratchpad whose bytes cannot be read: a gated bank, or an uncorrectable sector. -/
def State.padUnread (s : State) (o n : Nat) : Bool := (s.padCheck o n).isSome || (s.padBadIn o n).isSome

def effCpy2 (d a b : BitVec 5) (dsp ssp : BitVec 1) (_ : Env) : M Unit := do
  let dst ← getSide dsp d
  let src ← getSide ssp a
  let at' ← rdX b
  let s ← get
  need (!(dst.bad s || src.bad s || at'.toNat % 64 != 0 || decide (padSize - 64 < at'.toNat) || s.armsBad true dst.sp))
    .illegalOperand
  if s.padUnread at'.toNat 64 then check (firstCapFault [dst.kind s rCD, src.kind s rCS])
  let p ← readPad at'.toNat 64
  need (!desc2Bad p) .illegalOperand
  let c : CopyCmd := {
    src := src.side s, dst := dst.side s
    cnt0 := field32 p 0, cnt1 := field32 p 4, cnt2 := field32 p 8
    sstr1 := field64 p 16, sstr2 := field64 p 24, dstr1 := field64 p 32, dstr2 := field64 p 40
    soff := field64 p 48, doff := field64 p 56 }
  let sd := patternSpan c.doff c.dstr1 c.dstr2 c.cnt0 c.cnt1 c.cnt2
  let ss := patternSpan c.soff c.sstr1 c.sstr2 c.cnt0 c.cnt1 c.cnt2
  check (firstCapFault [dst.check s sd.1 (sd.2 - sd.1 + 1).toNat rCD, src.check s ss.1 (ss.2 - ss.1 + 1).toNat rCS])
  issueCopy true dst.sp ((dst.side s).own s.ctx.job.uid) (.copy c)
/-- CPY2 (R217). -/
def execCpy2 (d a b : BitVec 5) (dsp ssp : BitVec 1) (s : State) : Out :=
  issueAcc (.cpy2 d a b dsp ssp) 1 (copyFault d a dsp ssp) (effCpy2 d a b dsp ssp) s

def effCpyl2 (d a b : BitVec 5) (osp dir : BitVec 1) (_ : Env) : M Unit := do
  let r ← rdX d
  let other ← getSide osp a
  let len ← rdX b
  let s ← get
  let n := len.toNat
  let into := dir == 0
  need (!(l2RefBad r || other.bad s || decide (maxLen < n) || s.armsBad true (!into && other.sp))) .illegalOperand
  check (firstCapFault [s.l2Check r 0 n, other.check s 0 n (if into then rCS else rCD)])
  let l2 := Side.l2 (l2Slice r) (l2Off r)
  let c : CopyCmd := if into then { src := other.side s, dst := l2, cnt0 := n } else { src := l2, dst := other.side s, cnt0 := n }
  issueCopy true (!into && other.sp) (c.dst.own s.ctx.job.uid) (.copy c)
/-- CPYL2 (R219). -/
def execCpyl2 (d a b : BitVec 5) (osp dir : BitVec 1) (s : State) : Out :=
  issueAcc (.cpyl2 d a b osp dir) 1 (opnd (osp == 0 && bad16 a)) (effCpyl2 d a b osp dir) s

def effChain (d a b : BitVec 5) (_ : Env) : M Unit := do
  let dst ← rdC d
  let src ← rdC a
  let list ← rdC b
  let s ← get
  need (!(list.cursor.toNat % 32 != 0 || s.armsBad false false)) .illegalOperand
  check (firstCapFault [s.capKind list [tyData] [rR, rW], s.capKind src [tyData] [rCS], s.capKind dst [tyData] [rCD]])
  issueCopy false false false (.chain dst src list (some list.cursor.toNat))
/-- CHAIN (R220). -/
def execChain (d a b : BitVec 5) (s : State) : Out :=
  issueAcc (.chain d a b) 1 (opnd (bad16 d || bad16 a || bad16 b)) (effChain d a b) s

/-- The multicast entry that a reference names for the focus context, where it has members. -/
def State.mcGroup (s : State) (g : Nat) : Option McEntry :=
  (s.mcEntry s.ctx.units.mctab g).bind fun m => if m.ranks = [] ∧ m.pending.getD [] = [] then none else some m

def effMcast (d a b : BitVec 5) (ssp : BitVec 1) (_ : Env) : M Unit := do
  let r ← rdX d
  let src ← getSide ssp a
  let len ← rdX b
  let s ← get
  let n := len.toNat
  let g := (r.extractLsb' 32 8).toNat
  need (!(r.extractLsb' 40 24 != 0 || r.extractLsb' 21 11 != 0 || (s.mcGroup g).isNone || src.bad s || decide (maxLen < n)
    || s.armsBad false true)) .illegalOperand
  check (firstCapFault [padRange (refOff r) n, src.check s 0 n rCS])
  issueCopy false true false (.copy { src := src.side s, dst := .group s.ctx.units.mctab g (refOff r) s.ctx.group, cnt0 := n })
/-- MCAST (R221). -/
def execMcast (d a b : BitVec 5) (ssp : BitVec 1) (s : State) : Out :=
  issueAcc (.mcast d a b ssp) 1 (opnd (ssp == 0 && bad16 a)) (effMcast d a b ssp) s

/-- The window's object is shorter than its elements (R224). -/
def State.windowShort (s : State) (w : Cap) (bytes : Nat) : Option TrapInfo :=
  let t := fun cause => ({ cause := cause, toff := w.cursor.toNat, tinfo := bytes, cap := w } : TrapInfo)
  match s.objEntry w.asid.toNat w.obj.toNat with
  | none => some (t .capType)
  | some e => if e.type ≠ w.type.toNat then some (t .capType) else if e.length < bytes then some (t .capBounds) else none

def effGwin (d a b : BitVec 5) (f : BitVec 4) (_ : Env) : M Unit := do
  let w ← rdC d
  let idx ← rdC a
  let elem ← rdC (f.setWidth 5)
  let shape ← rdX b
  let s ← get
  let esize := (shape.extractLsb' 0 2).toNat
  let n := (shape.extractLsb' 32 32).toNat
  need (!(shape.extractLsb' 2 30 != 0 || s.armsBad false false)) .illegalOperand
  let kw := s.capKind w [tyGwin, tySwin] [rCD]
  if n = 0 then check kw
  else check (firstCapFault [kw, s.capCheck idx 0 (4 * n) [tyData] (rightsOf [rR]),
    s.capKind elem [tyData] [if w.type.toNat = tyGwin then rCS else rCD], s.windowShort w (n * 2 ^ esize)])
  issueCopy false false false (.gwin w idx elem esize n)
/-- GWIN (R224). -/
def execGwin (d a b : BitVec 5) (f : BitVec 4) (s : State) : Out :=
  issueAcc (.gwin d a b f) 1 (opnd (bad16 d || bad16 a)) (effGwin d a b f) s

def effScrub (d a b : BitVec 5) (_ : Env) : M Unit := do
  privileged
  notInTask
  let r ← rdX d
  let c ← rdC a
  let len ← rdX b
  let s ← get
  let n := len.toNat
  need (!(s.ownRefBad r || c.cursor.toNat % 32 != 0 || n % 32 != 0 || n == 0 || decide (0x01000000 < n)
    || s.armsBad false false)) .illegalOperand
  check (firstCapFault [s.capCheck c 0 n [tyData] (rightsOf [rCS, rCD]), padRange (refOff r) (16 + (n + 255) / 256)])
  issueCopy false false false (.scrub c n (refOff r))
/-- SCRUB (R226). -/
def execScrub (d a b : BitVec 5) (s : State) : Out :=
  issueAcc (.scrub d a b) 1 (opnd (bad16 a)) (effScrub d a b) s

def effWmark (_ : Env) : M Unit := modCtx fun x => { x with units.wmark := true }
/-- WMARK (R214). -/
def execWmark (s : State) : Out := issueAcc .wmark 1 none (effWmark) s

def effSwarm (a : BitVec 5) (clr : BitVec 1) (_ : Env) : M Unit := do
  if clr = 1 then modCtx fun x => { x with units.wmark := false, units.swarm := none }
  else do
    let r ← rdX a
    let s ← get
    need (!s.ownRefBad r) .illegalOperand
    if refOff r % 16 ≠ 0 then raise { cause := .capBounds, toff := refOff r, tinfo := 16 }
    check (padRange (refOff r) 16)
    modCtx fun x => { x with units.swarm := some (refOff r) }
/-- SWARM (R214). -/
def execSwarm (a : BitVec 5) (clr : BitVec 1) (s : State) : Out :=
  issueAcc (.swarm a clr) 1 (swarmFault a clr) (effSwarm a clr) s

def effMigr (a b : BitVec 5) (_ : Env) : M Unit := do
  privileged
  notInTask
  let c ← rdC a
  let t ← rdX b
  let s ← get
  let loc := (t.extractLsb' 62 2).toNat
  need (!(decide (2 ≤ loc) || t.extractLsb' 31 31 != 0 || s.armsBad false false)) .illegalOperand
  check (s.capKind c [tyData] [])
  match s.objEntry c.asid.toNat c.obj.toNat with
  | none => raise { cause := .capType, toff := c.cursor.toNat, tinfo := 1, cap := c }
  | some e =>
    if e.type ≠ c.type.toNat then raise { cause := .capType, toff := c.cursor.toNat, tinfo := 1, cap := c }
    if e.length ≤ c.cursor.toNat then raise { cause := .capBounds, toff := c.cursor.toNat, tinfo := 1, cap := c }
    issueCopy false false false (.migr c loc (t.extractLsb' 0 31).toNat none)
/-- MIGR (R227). -/
def execMigr (a b : BitVec 5) (s : State) : Out := issueAcc (.migr a b) 1 (opnd (bad16 a)) (effMigr a b) s

/-! ## The engines' steps -/

/-- A page's entry in memory. -/
def State.pageEntry (s : State) (c : Cap) : Option (Nat × DWord) :=
  (s.objEntry c.asid.toNat c.obj.toNat).map fun e =>
    (e.entryAddr (c.cursor.toNat / pageSize), s.mem8 (e.entryAddr (c.cursor.toNat / pageSize)))

/-- The held translations that a page of an object has, dropped (R167). -/
def Holder.forget (h : Holder) (page : Nat) : Holder :=
  let keep := fun (t : Option Trans) => t.bind fun t => if t.page = page then none else some t
  { h with cur := keep h.cur, next := keep h.next, walked := [] }

/-- Drop a context's translations of a page (R167): those of the streams and access queues that name the object. -/
def Ctx.forgetPage (c : Ctx) (asid obj page : Nat) : Ctx :=
  let names := fun (x : Cap) => x.asid.toNat == asid && x.obj.toNat == obj
  { c with
    acc.s := c.acc.s.map fun p =>
      (p.1, if names p.2.ldcap || names p.2.lhcap then { p.2 with holder := p.2.holder.forget page } else p.2)
    acc.aq := (c.acc.aq.map fun p =>
      (p.1, if names (c.acc.c.get Cap.null p.1) then p.2.forget page else p.2)).filter fun p => p.2 != {} }

/-- Invalidate every held translation of a page (R167). -/
def State.forgetPage (s : State) (asid obj page : Nat) : State :=
  { s with
    ctx := s.ctx.forgetPage asid obj page
    banks := s.banks.map fun p => (p.1, p.2.forgetPage asid obj page)
    units.spilled := s.units.spilled.map fun r => { r with ctx := r.ctx.forgetPage asid obj page } }

/-- Write a page's entry. -/
def State.setEntry (s : State) (a : Nat) (v : DWord) : State := s.agentWrite a (natToBytes 8 v.toNat)

/-- A page entry with another LOC. -/
def withLoc (e : DWord) (loc : Nat) : DWord := (e &&& 0x3FFFFFFFFFFFFFFF) ||| (BitVec.ofNat 64 loc <<< 62)

/-- MIGR marks its page (R227), unless another migration of it is in progress. -/
def State.markPage (s : State) (c : Cmd) : State :=
  match c.body with
  | .migr cap loc frame none => match s.pageEntry cap with
    | some (a, e) =>
      if pageLoc e = 3 then s
      else ((s.setEntry a (withLoc e 3)).forgetPage cap.asid.toNat cap.obj.toNat (cap.cursor.toNat / pageSize)).putCmd
        { c with body := .migr cap loc frame (some e) }
    | none => s
  | _ => s

/-- The copy-class commands of a die that have a channel. -/
def State.channels (s : State) (die : Nat) : Nat :=
  (s.units.cmds.filter fun c => c.cls == 0 && c.started && c.core / 72 == die).length

/-- An MCAST issued to a group whose change was pending waits for it (R222). -/
def State.groupPending (s : State) (c : Cmd) : Bool :=
  match c.body with
  | .copy x => match x.dst with
    | .group t g _ _ => match s.mcEntry t g with
      | some m => m.pending.isSome && decide (m.since ≤ c.n)
      | none => false
    | _ => false
  | _ => false

/-- The copy-class commands that wait for a channel, oldest first. -/
def State.queuedCopies (s : State) : List Cmd := s.units.cmds.filter fun c => c.cls == 0 && !c.started && !c.held

/-- The oldest command of a core that waits for a channel; the commands of one context start in issue order, on whichever
core it issued them (R206). -/
def State.nextCopy (s : State) (core : Nat) : Option Cmd :=
  let l := s.queuedCopies
  l.find? fun c => c.core == core && !s.groupPending c && (l.find? fun d => d.uid == c.uid).map (·.n) == some c.n

/-- The core that the round robin serves next (R206). -/
def State.nextCore (s : State) (die : Nat) : Option Cmd :=
  ((List.range 72).map fun i => 72 * die + ((s.dieSt die).lastServed + 1 + i) % 72).findSome? s.nextCopy

/-- COPY_DISPATCH (R206). Operand: die. -/
def execCopyDispatch (s : State) : Out :=
  let die := s.operand.n0
  match s.nextCore die with
  | some c =>
    let s1 := (s.putCmd { c with started := true }).setDie die { s.dieSt die with lastServed := c.core % 72 }
    whenDue "COPY_DISPATCH" (decide (s.channels die < 128)) (s1.markPage { c with started := true })
  | none => notDue "COPY_DISPATCH"

/-- A running copy command of the operand. -/
def State.runningCopy (s : State) : Option (Cmd × CopyCmd) :=
  (s.cmd s.operand.n0).bind fun c => match c.body with
    | .copy x => if c.started ∧ c.failed = none then some (c, x) else none
    | _ => none

/-- Store a copy's progress: its place, its failure, and its watermark, which a failure moves to the end (R212). -/
def State.putCopy (s : State) (c : Cmd) (x : CopyCmd) (f : Option TrapInfo) : State :=
  let s1 := s.putCmd { c with body := .copy x, failed := f }
  if c.wmark then s1.setMark c.n (if f.isSome then none else x.mark c.uid c.n) else s1

/-- WATERMARK_ADVANCE (R109, R215). Operand: command, and bytes, of which at least so many are written, by whole sectors of
the destination (R110). -/
def execWatermarkAdvance (s : State) : Out :=
  match s.runningCopy with
  | some (c, x) =>
    let r := s.moveFor c x s.operand.n1
    whenDue "WATERMARK_ADVANCE" (c.wmark && (decide (x.pos < r.2.1.pos) || r.2.2.1.isSome))
      (r.1.putCopy c r.2.1 r.2.2.1)
  | none => notDue "WATERMARK_ADVANCE"

/-- SYNC_WORD_COUNT (R107, R215). Operand: command. A piece of at most 32 written bytes is counted; where none is
written and uncounted, the next sector is written first. -/
def execSyncWordCount (s : State) : Out :=
  match s.runningCopy with
  | some (c, x) =>
    let r := if x.uncounted = 0 then s.moveFor c x 1 else (s, x, none, false)
    let y := r.2.1
    let n := min 32 y.uncounted
    match c.sync with
    | some o =>
      whenDue "SYNC_WORD_COUNT" (decide (0 < n) || r.2.2.1.isSome)
        ((r.1.putCopy c { y with uncounted := y.uncounted - n } r.2.2.1).countBytes y.dst o n)
    | none => notDue "SYNC_WORD_COUNT"
  | none => notDue "SYNC_WORD_COUNT"

/-- Count in pieces of at most 32 bytes what is written and not counted (fuel: the pieces). -/
def State.countAll (s : State) (side : Side) (sync : Option Nat) : Nat → Nat → State
  | 0, _ => s
  | f + 1, b =>
    match sync with
    | none => s
    | some o => if b = 0 then s else (s.countBytes side o (min 32 b)).countAll side sync f (b - min 32 b)

/-- The rest of a copy at once, with its counts: `none` where it must wait. -/
def State.finishCopy (s : State) (c : Cmd) (x : CopyCmd) : Option (State × Cmd) :=
  let r := if c.failed.isSome then (s, x, none, false) else s.moveFor c x (x.total - x.pos)
  let y := r.2.1
  if r.2.2.2 then none
  else
    let s1 := r.1.countAll y.dst c.sync (y.uncounted / 32 + 1) y.uncounted
    some (s1, { c with body := .copy { y with uncounted := 0 }, failed := c.failed <|> r.2.2.1 })

/-! ### CHAIN (R220) -/

/-- `cap_check` for a command, by the address space of its job. -/
def capCheckAs (asid : Nat) (c : Cap) (off : Int) (n right : Nat) : Option TrapInfo :=
  let o : Int := c.cursor.toNat + off
  let t := fun cause => ({ cause := cause, toff := o.toNat, tinfo := n, cap := c } : TrapInfo)
  if c.type.toNat ≠ tyData ∨ c.asid.toNat ≠ asid then some (t .capType)
  else if !c.rights.getLsbD right then some (t .capRights)
  else if o < c.lower.toNat ∨ o + n > c.upper.toNat then some (t .capBounds)
  else none

/-- Read bytes of a list at the record at `r`, within the list's bounds. -/
def State.chainRead (s : State) (c : Cmd) (list : Cap) (r n : Nat) : Did Bytes :=
  if r < list.lower.toNat ∨ r + n > list.upper.toNat then .fails { cause := .capBounds, cap := list }
  else s.readFor c.who list r n

/-- One record of a chain: its header first, which ends the walk where OWN is 0; then the record. The state, the next
record, and a failure. `later` where it waits. -/
def State.chainStep (s : State) (c : Cmd) (dst src list : Cap) (r : Nat) : Did (State × Option Nat × Option TrapInfo) :=
  let fail := fun (t : TrapInfo) => Did.ok (s, none, some { t with toff := r })
  match (s.chainRead c list r 8).for c with
  | .later => .later
  | .fails t => fail t
  | .ok hb =>
    let h := bytesToNat hb
    if !h.testBit 63 then .ok (s, none, none)
    else match (s.chainRead c list r 32).for c with
    | .later => .later
    | .fails t => fail t
    | .ok b =>
      let so := field64 b 8
      let d := field64 b 16
      let len := field32 b 24
      if bitsOf h 61 48 ≠ 0 ∨ field32 b 28 ≠ 0 ∨ bitsOf h 47 0 % 32 ≠ 0 then fail { cause := .illegalOperand, cap := list }
      else match firstCapFault [capCheckAs c.asid src so len rCS, capCheckAs c.asid dst d len rCD] with
        | some t => fail t
        | none =>
          let x : CopyCmd := { src := .mem src src.cursor.toNat, dst := .mem dst dst.cursor.toNat, cnt0 := len, soff := so, doff := d }
          let m := s.moveFor c x len
          if m.2.2.2 then .later
          else match m.2.2.1 with
            | some t => .ok (m.1, none, some { t with toff := r })
            | none => match (m.1.writeFor c.who list (r + 7) (natToBytes 1 (h / 2 ^ 56 % 128))).for c with
              | .ok s' => .ok (s', if h.testBit 62 then none else some (bitsOf h 47 0), none)
              | .later => .later
              | .fails t => .ok (m.1, none, some { t with toff := r })
/-- CHAIN_RECORD (R220). Operand: command. -/
def execChainRecord (s : State) : Out :=
  match s.cmd s.operand.n0 with
  | some c => match c.body with
    | .chain dst src list (some r) =>
      if !c.started ∨ c.failed.isSome then notDue "CHAIN_RECORD"
      else match s.chainStep c dst src list r with
        | .ok (s', next, f) => .next (s'.putCmd { c with body := .chain dst src list next, failed := f })
        | _ => notDue "CHAIN_RECORD"
    | _ => notDue "CHAIN_RECORD"
  | none => notDue "CHAIN_RECORD"

/-! ### GWIN, SCRUB and MIGR -/

def maxWindows : Nat := 4096

/-- Install or remove a window's binding (R224). -/
def State.bindWindow (s : State) (w idx elem : Cap) (esize n : Nat) : Option State :=
  let same := fun (x : Window) => x.asid == w.asid.toNat && x.obj == w.obj.toNat
  let rest := s.windows.filter fun x => !same x
  if n = 0 then some { s with windows := rest }
  else if maxWindows ≤ rest.length then none
  else some { s with windows := rest ++ [{
    asid := w.asid.toNat, obj := w.obj.toNat, index := idx, elem := elem, esize := esize, n := n }] }

/-- The sectors of a range, by their physical sector numbers; `none` where one cannot be reached now. -/
def State.sectorsOf (s : State) (c : Cap) (len : Nat) : Option (List (Option Nat)) :=
  (List.range (len / 32)).mapM fun i => match s.locate c (c.cursor.toNat + 32 * i) with
    | .at a => some (some (a / 32))
    | .moving => none
    | .fails _ => some none

/-- Pack bits into bytes, bit k of byte j for sector 8 j + k (Table 8 of chapter 6). -/
def packBits (l : List Bool) : Bytes :=
  (List.range ((l.length + 7) / 8)).map fun j =>
    BitVec.ofNat 8 ((List.range 8).foldl (fun n k => n + 2 ^ k * bit (l.getD (8 * j + k) false)) 0)

/-- Report the uncorrectable sectors of a range. -/
def State.reportRange (s : State) (a n : Nat) : State :=
  (List.range ((a + n + 31) / 32 - a / 32)).foldl
    (fun s' i => if s.bad.contains (a / 32 + i) then s'.reportBad (a / 32 + i) else s') s

/-- The bytes of a range: those of uncorrectable sectors are free values, numbered from `k` on. -/
def State.marred (s : State) (k a n : Nat) : Bytes :=
  if (s.badIn a n).isNone then s.mem.read a n
  else (s.mem.read a n).zipIdx.map fun p =>
    if s.bad.contains ((a + p.2) / 32) then (Config.freeValue (k + p.2)).setWidth 8 else p.1

/-- The free values of `n` bytes have been used. -/
def State.spend (s : State) (n : Nat) : State := { s with fresh := s.fresh + n }

/-- SCRUB's work (R226): correctable sectors are corrected, uncorrectable ones counted, and the result is written. A
range that cannot be translated fails. -/
def State.scrubRange (s : State) (c : Cmd) (cap : Cap) (len out : Nat) : Option (State × Option TrapInfo) :=
  match s.sectorsOf cap len with
  | none => none
  | some l => match l.findIdx? (·.isNone) with
    | some i => match s.locate cap (cap.cursor.toNat + 32 * i) with
      | .fails e => some (s, some { cause := e, toff := cap.cursor.toNat + 32 * i, tinfo := 32, cap := cap })
      | _ => none
    | none =>
      let secs := l.filterMap id
      if secs.any fun a => s.quarterGated (32 * a) then some (s, some { cause := .powerState, toff := cap.cursor.toNat, tinfo := len, cap := cap })
      else if secs.any fun a => s.memHeld (32 * a) then none
      else match secs.findSome? fun a => match s.reach (packageOf (32 * a)) with | .ok => none | r => some (r, packageOf (32 * a)) with
      | some (.broken, p) => some (s, some { cause := .linkError, toff := cap.cursor.toNat, tinfo := p, cap := cap })
      | some _ => none
      | none =>
        let soft := secs.map fun a => s.soft.contains a && !s.bad.contains a
        let nbad := (secs.filter s.bad.contains).length
        let nsoft := (soft.filter id).length
        let s1 := secs.foldl (fun s a =>
          if s.bad.contains a then s.detect a
          else if s.soft.contains a then s.corrected a else s) s
        let s2 := { s1 with soft := s.soft.filter fun a => s.bad.contains a || !secs.contains a }
        let s3 := if s.host.funcmode.getLsbD 5 then s2 else
          s2.post (srcDie (c.core / 72)) kError (BitVec.ofNat 64 (2 ^ 60 * 2 + 32 * secs.headD 0)) (BitVec.ofNat 64 (nsoft + 2 ^ 32 * nbad))
        match s3.writePadOf c.uid out (natToBytes 8 nbad ++ natToBytes 8 nsoft ++ packBits soft) with
        | .ok s4 => some (s4, none)
        | .later => none
        | .fails t => some (s3, some t)

/-- Copy a range of memory (R227). -/
def Memory.copyRange (m : Memory) (src dst n : Nat) : Memory :=
  let cells := m.filter fun p => decide (src ≤ p.1) && decide (p.1 < src + n)
  let rest := m.filter fun p => !(decide (dst ≤ p.1) && decide (p.1 < dst + n))
  cells.foldl (fun m p => Memory.set m (dst + (p.1 - src)) p.2) rest

/-- Clear a range of memory. -/
def Memory.clearRange (m : Memory) (dst n : Nat) : Memory := m.filter fun p => !(decide (dst ≤ p.1) && decide (p.1 < dst + n))

/-- Pin the lines of a frame in its die's slice (R446). -/
def State.pinFrame (s : State) (frame : Nat) : State :=
  (frameLines frame).foldl (fun s l => s.pinLine (hbmDie (frame * pageSize)) l) s

/-- The lines of a frame are pinned no longer. -/
def State.unpinFrame (s : State) (frame : Nat) : State :=
  if !isHbm (frame * pageSize) then s
  else
    let die := hbmDie (frame * pageSize)
    let m := s.slice die
    s.setSlice die { m with lines := m.lines.map (·.unpin frame) }

/-- Accesses sent with a translation into a frame are still to be performed there (R167): loads, writes at the ports and
atomics. -/
def State.sentInto (s : State) (frame : Nat) : Bool :=
  let inside := fun (l : Option (List (Nat × Nat))) => (l.getD []).any fun p => p.1 / pageSize == frame
  (s.ports.any fun p => inside p.sent)
  || (s.units.cmds.any fun c => !c.done && c.sent.any fun t => pageFrame t.entry == frame)
  || ((s.ctx :: s.banks.map (·.2)) ++ s.units.spilled.map (·.ctx)).any fun c => c.acc.loads.any fun l => inside l.sent

/-- A frame cannot be read, or written, as a whole now: the cause that stops a move, or that it must wait. -/
def State.frameBlocked (s : State) (frame : Nat) (read : Bool) : Option (Option Cause) :=
  let a := frame * pageSize
  if s.quarterGated a then some (some .powerState)
  else match s.reach (packageOf a) with
    | .broken => some (some .linkError)
    | .held => some none
    | .ok => if s.memHeld a then some none
      else if read && s.bad.any fun x => 32 * x / pageSize == frame then some (some .eccUncorrectable)
      else none

/-- What keeps a page's move from being made (R212, R227): nothing, a failure, or a wait. -/
def State.moveBlocked (s : State) (old new : Nat) (copy : Bool) : Option (Option Cause) :=
  if !copy then none else s.frameBlocked old true <|> s.frameBlocked new false

/-- MIGR's end (R227): copy the page unless it is absent, and rewrite its entry; a pinned page that cannot go to its
target is not moved, nor one whose copy fails (R212). `none` where it must wait: another migration of the page is still in
progress, or an access sent under the old translation is still to be performed (R167). -/
def State.finishMigr (s : State) (cap : Cap) (loc frame : Nat) (old : Option DWord) : Option (State × Option TrapInfo) :=
  match s.pageEntry cap with
  | none => some (s, some { cause := .capType, toff := cap.cursor.toNat, cap := cap })
  | some (a, now) =>
    match old <|> (if pageLoc now = 3 then none else some now) with
    | none => none
    | some e =>
      let pin := pagePin e
      let refused := pin && (loc == 1 || !(s.slice (hbmDie (frame * pageSize))).canPin frame)
      let fails := fun cause => some (s.setEntry a e, some { cause := cause, toff := cap.cursor.toNat, cap := cap })
      if refused then fails .illegalOperand
      else if pageLoc e ≠ 2 ∧ s.sentInto (pageFrame e) then none
      else match s.moveBlocked (pageFrame e) frame (pageLoc e != 2) with
      | some (some cause) => fails cause
      | some none => none
      | none =>
        let s1 := if pageLoc e = 2 then s else { s with mem := s.mem.copyRange (pageFrame e * pageSize) (frame * pageSize) pageSize }
        let v := BitVec.ofNat 64 (loc * 2 ^ 62 + bit pin * 2 ^ 61 + frame)
        let s2 := (s1.setEntry a v).forgetPage cap.asid.toNat cap.obj.toNat (cap.cursor.toNat / pageSize)
        some (if pin then (s2.unpinFrame (pageFrame e)).pinFrame frame else s2, none)

/-- A multicast group is quiesced: no MCAST to it is in flight that was issued before its change (R222). -/
def State.quiesced (s : State) (table entry : Nat) : Bool :=
  let since := match s.mcEntry table entry with | some m => if m.pending.isSome then m.since else s.units.nextCmd | none => 0
  !s.units.cmds.any fun c => !c.held && decide (c.n < since) && match c.body with
    | .copy x => match x.dst with | .group t g _ _ => t == table && g == entry | _ => false
    | _ => false

/-- The entry with its change made, if it is the one named. -/
def McEntry.apply (m : McEntry) (table entry : Nat) : McEntry :=
  if m.table = table ∧ m.entry = entry then { m with ranks := m.pending.getD m.ranks, pending := none } else m

/-- MCAST_GROUP_CHANGE (R222). Operand: table, entry. -/
def execMcastGroupChange (s : State) : Out :=
  match s.mcEntry s.operand.n0 s.operand.n1 with
  | some m =>
    whenDue "MCAST_GROUP_CHANGE" (m.pending.isSome && s.quiesced s.operand.n0 s.operand.n1)
      { s with units.mcast := s.units.mcast.map (·.apply s.operand.n0 s.operand.n1) }
  | none => notDue "MCAST_GROUP_CHANGE"

end Sys2Proof.Machine
end

