-- ==== Sys2Proof/Machine/Float.lean ====
section
/-! DEFINITION. Number formats (R251 to R259), exact values, and `round_fp` (R76 to R78, R252 to R255). A finite value
is a sign and an exact fraction; a result is formed exactly and rounded once. -/
namespace Sys2Proof.Machine

/-! ## Values -/

/-- A value: NaN, an infinity, or an exact fraction with a sign (a zero has one too). -/
inductive FVal where
  | nan
  | inf (neg : Bool)
  | fin (neg : Bool) (n d : Nat)
  deriving DecidableEq, Repr

def FVal.zero (neg : Bool) : FVal := .fin neg 0 1
def FVal.one : FVal := .fin false 1 1
/-- An exact integer. -/
def FVal.ofInt (i : Int) : FVal := .fin (decide (i < 0)) i.natAbs 1
/-- A sign, an integer and a power of two. -/
def FVal.scaled (neg : Bool) (m : Nat) (e : Int) : FVal := .fin neg (m * 2 ^ e.toNat) (2 ^ (-e).toNat)

def FVal.isNan : FVal → Bool | .nan => true | _ => false
def FVal.isZero : FVal → Bool | .fin _ 0 _ => true | _ => false
def FVal.isInf : FVal → Bool | .inf _ => true | _ => false
def FVal.sign : FVal → Bool | .nan => false | .inf s => s | .fin s _ _ => s

def FVal.neg : FVal → FVal
  | .nan => .nan
  | .inf s => .inf (!s)
  | .fin s n d => .fin (!s) n d

def FVal.abs : FVal → FVal
  | .nan => .nan
  | .inf _ => .inf false
  | .fin _ n d => .fin false n d

/-- A finite value's numerator with its sign. -/
def signed (s : Bool) (n : Nat) : Int := if s then -(n : Int) else n

/-- The exact sum. The sum of zeros of opposite sign, and an exact cancellation, is +0, or −0 under rounding toward −∞
(R252). -/
def FVal.add (down : Bool) : FVal → FVal → FVal
  | .nan, _ => .nan
  | _, .nan => .nan
  | .inf s, .inf t => if s = t then .inf s else .nan
  | .inf s, _ => .inf s
  | _, .inf t => .inf t
  | .fin s n d, .fin t m e =>
    if n = 0 ∧ m = 0 then .fin (if s = t then s else down) 0 1
    else
      let p : Int × Nat :=
        if e % d = 0 then (signed s n * (e / d : Nat) + signed t m, e)
        else if d % e = 0 then (signed s n + signed t m * (d / e : Nat), d)
        else (signed s n * e + signed t m * d, d * e)
      if p.1 = 0 then .fin down 0 1 else .fin (decide (p.1 < 0)) p.1.natAbs p.2

def FVal.sub (down : Bool) (x y : FVal) : FVal := x.add down y.neg

/-- The exact product; zeros take the exclusive-or of the signs (R252), 0 × ∞ is NaN. -/
def FVal.mul : FVal → FVal → FVal
  | .nan, _ => .nan
  | _, .nan => .nan
  | .inf s, .inf t => .inf (s != t)
  | .inf s, .fin t n _ => if n = 0 then .nan else .inf (s != t)
  | .fin s n _, .inf t => if n = 0 then .nan else .inf (s != t)
  | .fin s n d, .fin t m e => .fin (s != t) (n * m) (d * e)

/-- The exact quotient, by the rules of IEEE 754 for zeros and infinities. -/
def FVal.div : FVal → FVal → FVal
  | .nan, _ => .nan
  | _, .nan => .nan
  | .inf _, .inf _ => .nan
  | .inf s, .fin t _ _ => .inf (s != t)
  | .fin s _ _, .inf t => .zero (s != t)
  | .fin s n d, .fin t m e => if m = 0 then (if n = 0 then .nan else .inf (s != t)) else .fin (s != t) (n * e) (d * m)

/-- Whether x < y; false with a NaN. The zeros are equal. -/
def FVal.lt : FVal → FVal → Bool
  | .nan, _ => false
  | _, .nan => false
  | .inf s, .inf t => s && !t
  | .inf s, _ => s
  | _, .inf t => !t
  | .fin s n d, .fin t m e => decide (signed s n * e < signed t m * d)

/-- Whether x = y; false with a NaN. -/
def FVal.eq (x y : FVal) : Bool := !x.isNan && !y.isNan && !x.lt y && !y.lt x
def FVal.le (x y : FVal) : Bool := x.lt y || x.eq y

/-! ## Formats (R251) -/

/-- What the highest exponent field stands for. -/
inductive FmtKind where
  /-- ∞ and NaN. -/
  | ieee
  /-- NaN only, as E4M3. -/
  | e4m3
  /-- Neither. -/
  | plain
  deriving DecidableEq, Repr

structure Fmt where
  ebits : Nat
  mbits : Nat
  bias : Nat
  kind : FmtKind
  deriving DecidableEq, Repr

def fp32 : Fmt := ⟨8, 23, 127, .ieee⟩
def fp16 : Fmt := ⟨5, 10, 15, .ieee⟩
def bf16 : Fmt := ⟨8, 7, 127, .ieee⟩
def e4m3 : Fmt := ⟨4, 3, 7, .e4m3⟩
def e5m2 : Fmt := ⟨5, 2, 15, .ieee⟩
def e2m1 : Fmt := ⟨2, 1, 1, .plain⟩
def e2m3 : Fmt := ⟨2, 3, 1, .plain⟩
def e3m2 : Fmt := ⟨3, 2, 3, .plain⟩

/-- The floating format of a stream format code (R190). -/
def fmtOf : Nat → Fmt
  | 1 => fp16
  | 2 => bf16
  | 3 => e4m3
  | 4 => e5m2
  | _ => fp32

def Fmt.width (f : Fmt) : Nat := 1 + f.ebits + f.mbits
/-- The canonical NaN (Table 1 of chapter 8). -/
def Fmt.nanBits (f : Fmt) : Nat :=
  match f.kind with
  | .e4m3 => 0x7F
  | _ => (2 ^ f.ebits - 1) * 2 ^ f.mbits + 2 ^ (f.mbits - 1)
def Fmt.signBit (f : Fmt) (s : Bool) : Nat := if s then 2 ^ (f.ebits + f.mbits) else 0
def Fmt.infBits (f : Fmt) (s : Bool) : Nat := f.signBit s + (2 ^ f.ebits - 1) * 2 ^ f.mbits

/-- The least quantum's exponent: that of the subnormals. -/
def Fmt.qmin (f : Fmt) : Int := 1 - (f.bias : Int) - f.mbits
/-- The largest finite value is `kmax` × 2 ^ `qmax`. -/
def Fmt.kmax (f : Fmt) : Nat := match f.kind with | .e4m3 => 14 | _ => 2 ^ (f.mbits + 1) - 1
def Fmt.qmax (f : Fmt) : Int :=
  (match f.kind with | .ieee => 2 ^ f.ebits - 2 | _ => 2 ^ f.ebits - 1 : Int) - f.bias - f.mbits

/-- The value of an encoding (`val`, R77). -/
def Fmt.val (f : Fmt) (b : Nat) : FVal :=
  let s := b / 2 ^ (f.ebits + f.mbits) % 2 == 1
  let e := b / 2 ^ f.mbits % 2 ^ f.ebits
  let m := b % 2 ^ f.mbits
  if e = 0 then .scaled s m f.qmin
  else if e = 2 ^ f.ebits - 1 ∧ f.kind = .ieee then (if m = 0 then .inf s else .nan)
  else if e = 2 ^ f.ebits - 1 ∧ f.kind = .e4m3 ∧ m = 2 ^ f.mbits - 1 then .nan
  else .scaled s (2 ^ f.mbits + m) (f.qmin + e - 1)

/-- The encoding of k × 2 ^ q (`enc`, R77). -/
def Fmt.encode (f : Fmt) (s : Bool) (k : Nat) (q : Int) : Nat :=
  let k' := if k = 2 ^ (f.mbits + 1) then 2 ^ f.mbits else k
  let q' := if k = 2 ^ (f.mbits + 1) then q + 1 else q
  f.signBit s + (if k' < 2 ^ f.mbits then k' else (q' - f.qmin + 1).toNat * 2 ^ f.mbits + (k' - 2 ^ f.mbits))

/-! ## Rounding (R78) -/

/-- RND and SAT in force (R65, R77). -/
structure Rnd where
  mode : Nat := 0
  finite : Bool := false
  deriving DecidableEq, Repr

def Rnd.down (r : Rnd) : Bool := r.mode == 4
def Rnd.stochastic (r : Rnd) : Bool := r.mode == 6

/-- One draw of a generator (R78): the new state; the draw is its bits 31 to 16. -/
def rngStep (g : BitVec 32) : BitVec 32 :=
  let s := g ^^^ (g <<< 13)
  let s := s ^^^ (s >>> 17)
  s ^^^ (s <<< 5)
def rngDraw (g : BitVec 32) : Nat := (g.extractLsb' 16 16).toNat

/-- n/d in units of 2^q: the quotient, and the rest over a denominator. -/
def scaleDiv (n d : Nat) (q : Int) : Nat × Nat × Nat :=
  let a := n * 2 ^ (-q).toNat
  let b := d * 2 ^ q.toNat
  (a / b, a % b, b)

/-- The exponent of n/d > 0: the largest e with 2^e ≤ n/d. -/
def expOf (n d : Nat) : Int :=
  let e : Int := (Nat.log2 n : Int) - Nat.log2 d
  if n * 2 ^ (-e).toNat < d * 2 ^ e.toNat then e - 1 else e

/-- Whether the neighbour away from zero is taken, at a fraction num/den (0 < num) of the way from an even or odd
neighbour toward zero. -/
def roundsAway (mode draw : Nat) (neg odd : Bool) (num den : Nat) : Bool :=
  match mode with
  | 2 => false
  | 3 => !neg
  | 4 => neg
  | 5 => decide (den ≤ 2 * num)
  | 6 => decide (draw < 65536 * num / den)
  | _ => decide (den < 2 * num) || (decide (2 * num = den) && odd)

/-- The overflow result (R254). -/
def Fmt.overflow (f : Fmt) (finite neg : Bool) : Nat :=
  if finite then f.encode neg f.kmax f.qmax
  else match f.kind with
    | .ieee => f.infBits neg
    | .e4m3 => f.nanBits
    | .plain => f.encode neg f.kmax f.qmax

/-- Round a finite value with a draw. -/
def Fmt.roundFin (f : Fmt) (r : Rnd) (draw : Nat) (neg : Bool) (n d : Nat) : Nat :=
  if n = 0 then f.signBit neg
  else
    let q := max (expOf n d - f.mbits) f.qmin
    let p := scaleDiv n d q
    let above := decide (f.qmax < q) || (decide (q = f.qmax) && (decide (f.kmax < p.1) || (decide (f.kmax = p.1) && p.2.1 != 0)))
    if above then
      let p := scaleDiv n d f.qmax
      let num := (p.1 - f.kmax) * p.2.2 + p.2.1
      if roundsAway r.mode draw neg (f.kmax % 2 == 1) num p.2.2 then f.overflow r.finite neg
      else f.encode neg f.kmax f.qmax
    else if p.2.1 = 0 then f.encode neg p.1 q
    else if roundsAway r.mode draw neg (p.1 % 2 == 1) p.2.1 p.2.2 then
      (if q = f.qmax ∧ f.kmax < p.1 + 1 then f.overflow r.finite neg else f.encode neg (p.1 + 1) q)
    else f.encode neg p.1 q

/-- `round_fp` with a draw (R78, R252, R254). -/
def Fmt.roundWith (f : Fmt) (r : Rnd) (draw : Nat) : FVal → Nat
  | .nan => f.nanBits
  | .inf s => match f.kind with
    | .ieee => f.infBits s
    | _ => f.overflow r.finite s
  | .fin s n d => f.roundFin r draw s n d

/-- `round_fp`: the encoding and the generator's next state; stochastic rounding draws once for every result. -/
def Fmt.round (f : Fmt) (r : Rnd) (x : FVal) (g : BitVec 32) : Nat × BitVec 32 :=
  if r.stochastic then (f.roundWith r (rngDraw (rngStep g)) x, rngStep g) else (f.roundWith r 0 x, g)

/-- Round to nearest even, with no prefix. -/
def Fmt.rne (f : Fmt) (x : FVal) : Nat := f.roundWith {} 0 x

/-- Round a list in order, each result with its own draw. -/
def roundList (f : Fmt) (r : Rnd) : List FVal → BitVec 32 → List Nat × BitVec 32
  | [], g => ([], g)
  | x :: l, g =>
    let a := f.round r x g
    let b := roundList f r l a.2
    (a.1 :: b.1, b.2)

/-- `osum` (R77): FP32 values in list order, each partial sum rounded to nearest even. The first value starts it. -/
def osum : List FVal → FVal
  | [] => .zero false
  | x :: l => l.foldl (fun s y => fp32.val (fp32.rne (s.add false y))) x

/-- An exact sum of a list (R252); nothing sums to +0. -/
def exactSum (down : Bool) : List FVal → FVal
  | [] => .zero false
  | x :: l => l.foldl (FVal.add down) x

/-! ## Integers (R255) -/

/-- An exact value rounded to an integer with a draw: the integer of a finite value. -/
def roundInt (mode draw : Nat) (neg : Bool) (n d : Nat) : Int :=
  let k := n / d
  let up := n % d != 0 && roundsAway mode draw neg (k % 2 == 1) (n % d) d
  signed neg (if up then k + 1 else k)

/-- Conversion to an 8-bit integer format (R255): SAT NONE clamps, wrap keeps the value modulo 2^8. -/
def toInt8 (sgn wrap : Bool) (mode draw : Nat) (x : FVal) : Nat :=
  let lo : Int := if sgn then -128 else 0
  let hi : Int := if sgn then 127 else 255
  let r : Int := match x with
    | .nan => 0
    | .inf s => if wrap then 0 else if s then lo else hi
    | .fin s n d =>
      let i := roundInt mode draw s n d
      if wrap then i else max lo (min hi i)
  (r % 256).toNat

/-! ## Block formats (R256 to R259) -/

/-- A scale byte of E8M0. -/
def e8m0 (b : Nat) : FVal := if b = 0xFF then .nan else .scaled false 1 ((b : Int) - 127)

/-- A corrupt selector byte (R257, R260). -/
def selCorrupt (b : Nat) : Bool := b % 4 != 2 || b / 4 % 8 != (7 - b / 32 % 8) || b / 32 % 8 == 3
def selOf (b : Nat) : Nat := b / 32 % 8

/-- The level of a 4-bit element under a selector (R258); a table's 16 entries give T0 to T3. -/
def decLevel (sel : Nat) (table : List Nat) (e : Nat) : FVal :=
  match sel with
  | 0 => e2m1.val e
  | 1 => .ofInt (if e < 8 then e else (e : Int) - 16)
  | 2 => if e % 8 = 0 then .zero (e == 8) else .scaled (decide (8 ≤ e)) 1 ((e % 8 : Int) - 4)
  | _ => e4m3.val (table.getD e 0)

/-- The scale of an SBF4 block: E8M0 in mode A; E4M3 times T in mode B (R259). -/
def sbfScale (modeB : Bool) (b : Nat) (t : FVal) : FVal := if modeB then (e4m3.val b).mul t else e8m0 b

/-! ## Functions that are not rational (R290)

Each answers an exact fraction that rounds as the real value does in every format and mode: the real value itself, or
one in the same cell of a grid far finer than any place where rounding decides. -/

/-- Integer square root (fuel: iterations). -/
def isqrtAux : Nat → Nat → Nat → Nat
  | 0, _, x => x
  | f + 1, n, x =>
    let y := (x + n / x) / 2
    if y < x then isqrtAux f n y else x
def isqrt (n : Nat) : Nat := if n = 0 then 0 else isqrtAux 64 n (2 ^ (Nat.log2 n / 2 + 1))

/-- The middle of the cell that holds the interval (lo, hi) in units of 2^-p; none where it spans several. -/
def cellOf (lo hi p : Nat) (e : Int) : Option FVal :=
  let sh := Nat.log2 lo - 60
  if lo / 2 ^ sh = (hi - 1) / 2 ^ sh then some (.scaled false (2 * (lo / 2 ^ sh) + 1) ((sh : Int) - 1 - p + e)) else none

/-- 1/√x for x = n/d > 0. -/
def rsqrtOf (n d : Nat) : FVal :=
  let q := expOf d n / 2 - 60
  let p := scaleDiv d n (2 * q)
  let k := isqrt p.1
  if k * k = p.1 ∧ p.2.1 = 0 then .scaled false k q else .scaled false (2 * k + 1) (q - 1)

/-- Fixed-point digits of the computations below. -/
def fixP : Nat := 256

/-- The binary digits of log2 m for 1 < m < 2, from bounds in units of 2^-256; none where a digit is undecided. -/
def logDigits : Nat → Nat → Nat → Nat → Option Nat
  | 0, _, _, acc => some acc
  | f + 1, lo, hi, acc =>
    let lo := lo * lo / 2 ^ fixP
    let hi := hi * hi / 2 ^ fixP + 1
    if 2 ^ (fixP + 1) ≤ lo then logDigits f (lo / 2) (hi / 2 + 1) (2 * acc + 1)
    else if hi < 2 ^ (fixP + 1) then logDigits f lo hi (2 * acc)
    else none

/-- log2 of n/d > 0. -/
def log2Of (n d : Nat) : Option FVal :=
  let e := expOf n d
  let m := scaleDiv n d (e - fixP)
  if m.1 = 2 ^ fixP ∧ m.2.1 = 0 then some (.ofInt e)
  else (logDigits 160 m.1 (if m.2.1 = 0 then m.1 else m.1 + 1) 0).map fun b =>
    let x : Int := e * 2 ^ 161 + (2 * b + 1)
    .scaled (decide (x < 0)) x.natAbs (-161)

/-- 2^f for a fraction f of `t` binary digits, from the highest on: bounds in units of 2^-256. `rlo` and `rhi` bound
2^(2^-j). -/
def exp2Bits : Nat → Nat → Nat → Nat → Nat → Nat → Nat × Nat
  | 0, _, _, _, lo, hi => (lo, hi)
  | t + 1, f, rlo, rhi, lo, hi =>
    let rlo := isqrt (rlo * 2 ^ fixP)
    let rhi := isqrt (rhi * 2 ^ fixP) + 1
    if f / 2 ^ t % 2 = 1 then exp2Bits t f rlo rhi (lo * rlo / 2 ^ fixP) (hi * rhi / 2 ^ fixP + 1)
    else exp2Bits t f rlo rhi lo hi

/-- 2^x for a finite x; beyond ±1,024 every format has overflowed or holds less than half its least value. -/
def exp2Of (neg : Bool) (n d : Nat) : Option FVal :=
  if 1024 * d ≤ n then some (.scaled false 1 (if neg then -1024 else 1024))
  else
    let t := Nat.log2 d
    let x := signed neg n
    let i := x / d
    let f := (x % d).toNat
    if f = 0 then some (.scaled false 1 i)
    else
      let b := exp2Bits t f (2 ^ (fixP + 1)) (2 ^ (fixP + 1)) (2 ^ fixP) (2 ^ fixP)
      cellOf (max b.1 (2 ^ fixP)) (min b.2 (2 ^ (fixP + 1))) fixP i

/-- The sum of z^j / j! from j on, in units of 2^-256, each term cut off (fuel: the terms). -/
def expTerms : Nat → Nat → Nat → Nat → Nat
  | 0, _, _, _ => 0
  | f + 1, j, z, term =>
    let term := term * z / 2 ^ fixP / j
    term + expTerms f (j + 1) z term

/-- Square bounds in units of 2^-256 a number of times. -/
def squareTimes : Nat → Nat × Nat → Nat × Nat
  | 0, b => b
  | k + 1, b => squareTimes k (b.1 * b.1 / 2 ^ fixP, b.2 * b.2 / 2 ^ fixP + 1)

/-- tanh of n/d > 0. -/
def tanhOf (n d : Nat) : Option FVal :=
  if n * 2 ^ 22 < d then some (.fin false (n * (2 ^ 62 - 1)) (d * 2 ^ 62))
  else if 32 * d ≤ n then some (.fin false (2 ^ 80 - 1) (2 ^ 80))
  else
    let z := n * 2 ^ fixP / (d * 128)
    let s := 2 ^ fixP + expTerms 60 1 z (2 ^ fixP)
    let e := squareTimes 8 (s, s + 256)
    let one := 2 ^ fixP
    let lo := (e.1 - one) * 2 ^ fixP / (e.1 + one)
    let hi := (e.2 - one) * 2 ^ fixP / (e.2 + one) + 1
    cellOf lo hi fixP 0

/-- e^x for x = ±n/d; beyond ±128 FP32 has overflowed or holds less than half its least value. -/
def expOfRat (neg : Bool) (n d : Nat) : Option FVal :=
  if n = 0 then some .one
  else if 128 * d ≤ n then some (.scaled false 1 (if neg then -1024 else 1024))
  else if n * 2 ^ 62 < d then
    some (.fin false (if neg then 2 ^ 64 - 1 else 2 ^ 64 + 1) (2 ^ 64))
  else
    let z := n * 2 ^ fixP / (d * 256)
    let s := 2 ^ fixP + expTerms 60 1 z (2 ^ fixP)
    let e := squareTimes 8 (s, s + 256)
    if neg then cellOf (2 ^ 640 / e.2) (2 ^ 640 / e.1 + 1) 384 0
    else cellOf e.1 e.2 fixP 0

/-- e^x (R330's `ex`); `none` where the model decides no rounding. -/
def fexp : FVal → Option FVal
  | .nan => some .nan
  | .inf s => some (if s then .zero false else .inf false)
  | .fin s n d => expOfRat s n d

/-- 2^x, log2 x, tanh x and 1/√x with the special cases of R290; `none` where the model decides no rounding. -/
def fexp2 : FVal → Option FVal
  | .nan => some .nan
  | .inf s => some (if s then .zero false else .inf false)
  | .fin s n d => exp2Of s n d
def flog2 : FVal → Option FVal
  | .nan => some .nan
  | .inf s => some (if s then .nan else .inf false)
  | .fin s n d => if n = 0 then some (.inf true) else if s then some .nan else log2Of n d
def ftanh : FVal → Option FVal
  | .nan => some .nan
  | .inf s => some (.fin s 1 1)
  | .fin s n d => if n = 0 then some (.zero s) else (tanhOf n d).map fun y => if s then y.neg else y
def frsq : FVal → Option FVal
  | .nan => some .nan
  | .inf s => some (if s then .nan else .zero false)
  | .fin s n d => if n = 0 then some (.inf s) else if s then some .nan else some (rsqrtOf n d)
def frcp (x : FVal) : Option FVal := some (FVal.one.div x)

end Sys2Proof.Machine
end

