-- ==== Sys2Proof/Machine/Vec.lean ====
section
/-! DEFINITION. The vector engine (chapter 9): how an instruction takes its operands and delivers its results (R281 to
R287), and the meanings of its lane operations (R288 to R302). -/
namespace Sys2Proof.Machine

/-- A VEC instruction (R281). -/
def issueVec (i : Instr) (n : Nat) (wf : Option Cause) (eff : Env → M Unit) (s : State) : Out :=
  issue .vec i n wf eff s

/-! ## Lanes and elements (R282) -/

/-- The lanes of a block of bytes. -/
def lanesOf : Nat → Bytes → VReg
  | 0, _ => []
  | n + 1, a :: b :: c :: d :: r => (d ++ c ++ b ++ a) :: lanesOf n r
  | n + 1, l => BitVec.ofNat 32 (bytesToNat l) :: lanesOf n []
/-- The bytes of lanes. -/
def laneBytes (v : VReg) : Bytes := v.flatMap fun w => natToBytes 4 w.toNat

/-- The elements of a register for a lane type: lanes, or the two halves of each lane. -/
def elemsOf (t : Nat) (v : VReg) : List Nat :=
  if t = 0 then v.map (·.toNat) else v.flatMap fun w => [w.toNat % 65536, w.toNat / 65536]
/-- The lanes that elements fill. -/
def pairLanes : List Nat → VReg
  | a :: b :: r => BitVec.ofNat 32 (a % 65536 + 65536 * b) :: pairLanes r
  | _ => []
def lanesFrom (t : Nat) (l : List Nat) : VReg := if t = 0 then l.map (BitVec.ofNat 32) else pairLanes l

/-- The format of a lane type, and the stream format that goes with it (R282). -/
def typeFmt (t : Nat) : Fmt := if t = 1 then bf16 else if t = 2 then fp16 else fp32
def typeStream (t : Nat) : Nat := if t = 1 then 2 else if t = 2 then 1 else 0

/-! ## Operands (R63, R283, R286) -/

/-- A source: its kind and its field. -/
structure VSrc where
  kind : BitVec 2
  reg : BitVec 6
  deriving DecidableEq, Repr

/-- A source is popped: a stream or a queue. -/
def VSrc.popped (x : VSrc) : Bool := x.kind == 1 || x.kind == 2

/-- What an instruction needs of its sources, each of `n` blocks, and its destination before it pops anything (R72, R194,
R23). -/
def vecChecks (all : List VSrc) (n : Nat) (ins : List Nat) (dst : Option VSrc) (outs : List Nat) : M Unit := do
  let s ← get
  let srcs := unheld (s.heldBlocks .vec) ((all.filter (·.popped)).map (·, n))
  srcs.forM fun x => if x.kind = 1 then checkIn .vec x.reg.toNat ins else pure ()
  match dst with
  | some d => if d.kind = 1 then checkOut .vec d.reg.toNat outs else pure ()
  | none => pure ()
  srcs.forM fun x => if x.kind = 2 then needConsumer .vec x.reg.toNat else pure ()
  match dst with
  | some d => if d.kind = 2 then needProducer .vec d.reg.toNat else pure ()
  | none => pure ()

/-- Pop the blocks of a stream or queue source. -/
def vecPop (n : Nat) (ins : List Nat) (x : VSrc) : M (List VReg) := do
  if x.kind = 1 then (List.range n).mapM fun _ => do
    let b ← sourceStream .vec x.reg.toNat ins
    pure (lanesOf 512 b.bytes)
  else if x.kind = 2 then (List.range n).mapM fun _ => do
    let b ← sourceQueue .vec x.reg.toNat
    pure (lanesOf 512 b.bytes)
  else pure []

/-- A register or a mask with an uncorrectable error (R286): its number, or 64 + the mask's. -/
def needGood (l : List Nat) : M Unit := do
  let s ← get
  match l.find? s.ctx.vec.bad.contains with
  | some n => raise { cause := .eccUncorrectable, tinfo := n, bad := .bank }
  | none => pure ()

/-- A k register as the dispatcher read it (R122). -/
def Env.kreg (e : Env) (n : Nat) : Word := e.k.get 0 n

/-- The registers of a source block, once what it pops is there. -/
def vecRead (e : Env) (h w : Nat) (x : VSrc) (popped : List VReg) : M (List VReg) := do
  if x.kind = 0 then do
    needGood (blockRegs x.reg.toNat h w)
    let s ← get
    pure ((blockRegs x.reg.toNat h w).map s.vreg)
  else if x.kind = 3 then pure (List.replicate (h * w) (List.replicate 512 (e.kreg x.reg.toNat)))
  else pure popped

/-- Take every source: pops in operand order, then the first issue cycle, in which registers and masks are read. -/
def vecSources (e : Env) (h w : Nat) (srcs : List VSrc) (ins masks : List Nat) : M (List (List VReg)) := do
  let popped ← srcs.mapM (vecPop (h * w) ins)
  landingGate (h * w)
  let l ← (srcs.zip popped).mapM fun p => vecRead e h w p.1 p.2
  needGood ((masks.filter (· != 0)).map (64 + ·))
  pure l

/-- Deliver a result block (R284): registers keep the lanes that the mask leaves out, other destinations take zeros
there. A stream takes it if its run has one of the formats `outs` (R282). -/
def vecDeliver (h w : Nat) (d : VSrc) (outs : List Nat) (m : BitVec 512) (res : List VReg) : M Unit := do
  landBefore (h * w)
  if d.kind = 0 then modify fun s => s.setBlock d.reg.toNat h w m res
  else
    let dest := if d.kind = 1 then OutDest.stream d.reg.toNat else OutDest.queue d.reg.toNat
    emit .vec (res.map fun v => { dest := dest, fmts := outs, block := { bytes := laneBytes (mergeLanes m VReg.zero v) } })

/-- The sources, destination and mask of a VB instruction. -/
def srcA (o : VB) : VSrc := ⟨o.ka, o.a⟩
def srcB (o : VB) : VSrc := ⟨o.kb, o.b⟩
def srcC (o : VB) : VSrc := ⟨o.kc, o.c⟩
def vdst (o : VB) : VSrc := ⟨o.kd, o.d⟩

/-- A VEC instruction with a block for its destination: checks, sources, results, delivery. `masks` are read besides
m[m]. -/
def vecOp (e : Env) (o : VB) (srcs : List VSrc) (ins outs masks : List Nat)
    (f : State → List (List VReg) → M (List VReg)) : M Unit := do
  vecChecks srcs (o.rows * o.cols) ins (some (vdst o)) outs
  let l ← vecSources e o.rows o.cols srcs ins (o.m.toNat :: masks)
  let s ← get
  let res ← f s l
  vecDeliver o.rows o.cols (vdst o) outs (s.mreg o.m.toNat) res

/-- Write a lane mask where m[m] is 1 (R285, R291, R301). -/
def writeMask (d : Nat) (m v : BitVec 512) : M Unit := do
  landBefore 1
  modify fun s => { s with ctx.vec.m := s.ctx.vec.m.set 0 d ((s.mreg d &&& ~~~m) ||| (v &&& m)) }

/-- A VEC instruction with a mask for its destination (R285). -/
def vecMaskOp (e : Env) (o : VB) (srcs : List VSrc) (ins masks : List Nat)
    (f : State → List (List VReg) → BitVec 512) : M Unit := do
  vecChecks srcs 1 ins none []
  let l ← vecSources e 1 1 srcs ins (o.m.toNat :: masks)
  let s ← get
  writeMask o.d.toNat (s.mreg o.m.toNat) (f s l)

/-- The lanes of a mask from a list of bits. -/
def maskBits : List Bool → Nat
  | [] => 0
  | b :: r => bit b + 2 * maskBits r

/-- The first, second and third source block. -/
def nthSrc (l : List (List VReg)) (n : Nat) : List VReg := l.getD n []

/-- Lane by lane, register by register. -/
def lanes1 (f : Word → Word) (l : List (List VReg)) : List VReg := (nthSrc l 0).map (·.map f)
def lanes2 (f : Word → Word → Word) (l : List (List VReg)) : List VReg :=
  List.zipWith (List.zipWith f) (nthSrc l 0) (nthSrc l 1)
def lanes3 (f : Word → Word → Word → Word) (l : List (List VReg)) : List VReg :=
  List.zipWith (fun ab c => List.zipWith (fun p z => f p.1 p.2 z) ab c)
    (List.zipWith List.zip (nthSrc l 0) (nthSrc l 1)) (nthSrc l 2)

/-! ## Rounded results (R76, R78) -/

/-- RND and SAT as a prefix sets them. -/
def Env.round (e : Env) : Rnd := { mode := e.rnd.toNat, finite := e.sat == satFinite }

/-- Round a list of exact values in order, each with its own draw; a value whose rounding the model does not decide is
a free value. Answers the encodings, the generator and the next free value. -/
def roundAll (f : Fmt) (r : Rnd) : List (Option FVal) → Word → Nat → List Nat × Word × Nat
  | [], g, n => ([], g, n)
  | some x :: l, g, n =>
    let a := f.round r x g
    let b := roundAll f r l a.2 n
    (a.1 :: b.1, b.2)
  | none :: l, g, n =>
    let b := roundAll f r l (if r.stochastic then rngStep g else g) (n + 1)
    ((Config.freeValue n).toNat % 2 ^ f.width :: b.1, b.2)

/-- The state of an engine's generator. -/
def State.generator (s : State) (e : Engine) : Word := s.ctx.gen.get 0 e.code

/-- `roundAll` with the generator of an engine. -/
def roundBy (e : Engine) (f : Fmt) (r : Rnd) (l : List (Option FVal)) : M (List Nat) := do
  let s ← get
  let a := roundAll f r l (s.generator e) s.fresh
  set ({ s with ctx.gen := if r.stochastic then s.ctx.gen.set 0 e.code a.2.1 else s.ctx.gen, fresh := a.2.2 } : State)
  pure a.1

/-- A floating instruction: exact values of every element, rounded in order (R288, R290). -/
def floatOp (e : Env) (o : VB) (srcs : List VSrc) (f : List (List FVal) → List (Option FVal)) : M Unit :=
  let t := o.fn.toNat
  vecOp e o srcs [typeStream t] [typeStream t] [] fun _ l => do
    let regs := List.range (o.rows * o.cols)
    regs.mapM fun r => do
      let vals := l.map fun op => (elemsOf t (op.getD r [])).map (typeFmt t).val
      let res ← roundBy .vec (typeFmt t) e.round (f vals)
      pure (lanesFrom t res)

def vals1 (f : FVal → Option FVal) (l : List (List FVal)) : List (Option FVal) := (l.getD 0 []).map f
def vals2 (f : FVal → FVal → FVal) (l : List (List FVal)) : List (Option FVal) :=
  List.zipWith (fun x y => some (f x y)) (l.getD 0 []) (l.getD 1 [])
def vals3 (f : FVal → FVal → FVal → FVal) (l : List (List FVal)) : List (Option FVal) :=
  List.zipWith (fun p z => some (f p.1 p.2 z)) (List.zip (l.getD 0 []) (l.getD 1 [])) (l.getD 2 [])

/-! ## Floating arithmetic (R288 to R291) -/

def effFadd (o : VB) (e : Env) : M Unit := floatOp e o [srcA o, srcB o] (vals2 fun x y => x.add e.round.down y)
/-- FADD (R288). -/
def execFadd (o : VB) (s : State) : Out := issueVec (.fadd o) 2 (vb2Fault 3 o) (effFadd o) s

def effFsub (o : VB) (e : Env) : M Unit := floatOp e o [srcA o, srcB o] (vals2 fun x y => x.sub e.round.down y)
/-- FSUB (R288). -/
def execFsub (o : VB) (s : State) : Out := issueVec (.fsub o) 2 (vb2Fault 3 o) (effFsub o) s

def effFmul (o : VB) (e : Env) : M Unit := floatOp e o [srcA o, srcB o] (vals2 fun x y => x.mul y)
/-- FMUL (R288). -/
def execFmul (o : VB) (s : State) : Out := issueVec (.fmul o) 2 (vb2Fault 3 o) (effFmul o) s

def effFfma (o : VB) (e : Env) : M Unit :=
  floatOp e o [srcA o, srcB o, srcC o] (vals3 fun x y z => (x.mul y).add e.round.down z)
/-- FFMA (R288): the product is not rounded. -/
def execFfma (o : VB) (s : State) : Out := issueVec (.ffma o) 2 (vb3Fault 3 o) (effFfma o) s

/-- FMIN and FMAX on encodings (R289): −0 is less than +0, and one NaN gives the other operand. -/
def fminBits (f : Fmt) (max : Bool) (x y : Nat) : Nat :=
  let a := f.val x
  let b := f.val y
  if a.isNan then (if b.isNan then f.nanBits else y)
  else if b.isNan then x
  else
    let less := a.lt b || (a.eq b && a.sign && !b.sign)
    if less != max then x else y

/-- An instruction on the encodings of the elements, none of which it rounds. -/
def elemOp (e : Env) (o : VB) (srcs : List VSrc) (f : Fmt → List (List Nat) → List Nat) : M Unit :=
  let t := o.fn.toNat
  vecOp e o srcs [typeStream t] [typeStream t] [] fun _ l =>
    pure ((List.range (o.rows * o.cols)).map fun r =>
      lanesFrom t (f (typeFmt t) (l.map fun op => elemsOf t (op.getD r []))))

def effFmin (o : VB) (e : Env) : M Unit :=
  elemOp e o [srcA o, srcB o] fun f l => List.zipWith (fminBits f false) (l.getD 0 []) (l.getD 1 [])
/-- FMIN (R289). -/
def execFmin (o : VB) (s : State) : Out := issueVec (.fmin o) 2 (vb2Fault 3 o) (effFmin o) s

def effFmax (o : VB) (e : Env) : M Unit :=
  elemOp e o [srcA o, srcB o] fun f l => List.zipWith (fminBits f true) (l.getD 0 []) (l.getD 1 [])
/-- FMAX (R289). -/
def execFmax (o : VB) (s : State) : Out := issueVec (.fmax o) 2 (vb2Fault 3 o) (effFmax o) s

/-- FABS and FNEG on an encoding (R289). -/
def fabsBits (f : Fmt) (x : Nat) : Nat := if (f.val x).isNan then f.nanBits else x % f.signBit true
def fnegBits (f : Fmt) (x : Nat) : Nat :=
  if (f.val x).isNan then f.nanBits else if x < f.signBit true then x + f.signBit true else x - f.signBit true

def effFabs (o : VB) (e : Env) : M Unit := elemOp e o [srcA o] fun f l => (l.getD 0 []).map (fabsBits f)
/-- FABS (R289). -/
def execFabs (o : VB) (s : State) : Out := issueVec (.fabs o) 2 (vb1Fault 3 o) (effFabs o) s

def effFneg (o : VB) (e : Env) : M Unit := elemOp e o [srcA o] fun f l => (l.getD 0 []).map (fnegBits f)
/-- FNEG (R289). -/
def execFneg (o : VB) (s : State) : Out := issueVec (.fneg o) 2 (vb1Fault 3 o) (effFneg o) s

def effFrcp (o : VB) (e : Env) : M Unit := floatOp e o [srcA o] (vals1 frcp)
/-- FRCP (R290). -/
def execFrcp (o : VB) (s : State) : Out := issueVec (.frcp o) 2 (vb1Fault 3 o) (effFrcp o) s

def effFrsq (o : VB) (e : Env) : M Unit := floatOp e o [srcA o] (vals1 frsq)
/-- FRSQ (R290). -/
def execFrsq (o : VB) (s : State) : Out := issueVec (.frsq o) 2 (vb1Fault 3 o) (effFrsq o) s

def effFexp2 (o : VB) (e : Env) : M Unit := floatOp e o [srcA o] (vals1 fexp2)
/-- FEXP2 (R290). -/
def execFexp2 (o : VB) (s : State) : Out := issueVec (.fexp2 o) 2 (vb1Fault 3 o) (effFexp2 o) s

def effFlog2 (o : VB) (e : Env) : M Unit := floatOp e o [srcA o] (vals1 flog2)
/-- FLOG2 (R290). -/
def execFlog2 (o : VB) (s : State) : Out := issueVec (.flog2 o) 2 (vb1Fault 3 o) (effFlog2 o) s

def effFtanh (o : VB) (e : Env) : M Unit := floatOp e o [srcA o] (vals1 ftanh)
/-- FTANH (R290). -/
def execFtanh (o : VB) (s : State) : Out := issueVec (.ftanh o) 2 (vb1Fault 3 o) (effFtanh o) s

/-- The conditions of FCMP (R291). -/
def fcmpCond (c : Nat) (x y : FVal) : Bool :=
  match c with
  | 0 => x.eq y
  | 1 => !x.eq y
  | 2 => x.lt y
  | 3 => x.le y
  | 4 => y.lt x
  | 5 => y.le x
  | 6 => x.isNan || y.isNan
  | _ => !x.isNan && !y.isNan

/-- A comparison: lanes of ones and zeros, or a mask (R291, R295). -/
def vecCompare (e : Env) (o : VB) (fmt : Nat) (c : Word → Word → Bool) : M Unit :=
  if 8 ≤ o.fn.toNat then
    vecOp e o [srcA o, srcB o] [fmt] [fmt] [] fun _ l =>
      pure (lanes2 (fun x y => if c x y then BitVec.allOnes 32 else 0) l)
  else
    vecMaskOp e o [srcA o, srcB o] [fmt] [] fun _ l =>
      BitVec.ofNat 512 (maskBits (List.zipWith c ((nthSrc l 0).getD 0 []) ((nthSrc l 1).getD 0 [])))

def effFcmp (o : VB) (e : Env) : M Unit :=
  vecCompare e o 0 fun x y => fcmpCond (o.fn.toNat % 8) (fp32.val x.toNat) (fp32.val y.toNat)
/-- FCMP (R291). -/
def execFcmp (o : VB) (s : State) : Out := issueVec (.fcmp o) 2 (cmpFault 8 o) (effFcmp o) s

/-! ## Integer and logic (R292 to R295) -/

/-- A lane as an exact integer. -/
def laneInt (sgn : Bool) (v : Word) : Int := if sgn then v.toInt else v.toNat
/-- Whether a function's bit 0 leaves the operands signed. -/
def fnSigned (o : VB) : Bool := !o.fn.getLsbD 0

/-- An integer instruction on lanes of FMT 7 (R282). -/
def intOp2 (e : Env) (o : VB) (f : Word → Word → Word) : M Unit :=
  vecOp e o [srcA o, srcB o] [7] [7] [] fun _ l => pure (lanes2 f l)

/-- An exact result narrowed to a lane (R292). -/
def narrow (e : Env) (o : VB) (x : Int) : Word := satInt e.sat 32 (fnSigned o) x

def effIadd (o : VB) (e : Env) : M Unit :=
  intOp2 e o fun x y => narrow e o (laneInt (fnSigned o) x + laneInt (fnSigned o) y)
/-- IADD (R292). -/
def execIadd (o : VB) (s : State) : Out := issueVec (.iadd o) 2 (vb2Fault 2 o) (effIadd o) s

def effIsub (o : VB) (e : Env) : M Unit :=
  intOp2 e o fun x y => narrow e o (laneInt (fnSigned o) x - laneInt (fnSigned o) y)
/-- ISUB (R292). -/
def execIsub (o : VB) (s : State) : Out := issueVec (.isub o) 2 (vb2Fault 2 o) (effIsub o) s

def effImul (o : VB) (e : Env) : M Unit :=
  intOp2 e o fun x y =>
    let p := laneInt (fnSigned o) x * laneInt (fnSigned o) y
    if 2 ≤ o.fn.toNat then BitVec.ofInt 32 (p / 2 ^ 32) else narrow e o p
/-- IMUL (R292). -/
def execImul (o : VB) (s : State) : Out := issueVec (.imul o) 2 (vb2Fault 4 o) (effImul o) s

def effImad (o : VB) (e : Env) : M Unit :=
  vecOp e o [srcA o, srcB o, srcC o] [7] [7] [] fun _ l =>
    pure (lanes3 (fun x y z => narrow e o (laneInt (fnSigned o) x * laneInt (fnSigned o) y + laneInt (fnSigned o) z)) l)
/-- IMAD (R292). -/
def execImad (o : VB) (s : State) : Out := issueVec (.imad o) 2 (vb3Fault 2 o) (effImad o) s

/-- Whether a lane is less than another. -/
def laneLess (sgn : Bool) (x y : Word) : Bool := decide (laneInt sgn x < laneInt sgn y)

def effImin (o : VB) (e : Env) : M Unit := intOp2 e o fun x y => if laneLess (fnSigned o) y x then y else x
/-- IMIN (R293). -/
def execImin (o : VB) (s : State) : Out := issueVec (.imin o) 2 (vb2Fault 2 o) (effImin o) s

def effImax (o : VB) (e : Env) : M Unit := intOp2 e o fun x y => if laneLess (fnSigned o) x y then y else x
/-- IMAX (R293). -/
def execImax (o : VB) (s : State) : Out := issueVec (.imax o) 2 (vb2Fault 2 o) (effImax o) s

/-- Stream formats that instructions on raw bits accept (R282). -/
def rawFmts : List Nat := List.range 8

/-- An instruction on raw lanes. -/
def rawOp (e : Env) (o : VB) (srcs : List VSrc) (masks : List Nat) (f : State → List (List VReg) → List VReg) : M Unit :=
  vecOp e o srcs rawFmts rawFmts masks fun s l => pure (f s l)

def effVecAnd (o : VB) (e : Env) : M Unit := rawOp e o [srcA o, srcB o] [] fun _ l => lanes2 (fun x y => x &&& y) l
/-- AND (R293). -/
def execVecAnd (o : VB) (s : State) : Out := issueVec (.vecAnd o) 2 (vb2Fault 1 o) (effVecAnd o) s

def effVecOr (o : VB) (e : Env) : M Unit := rawOp e o [srcA o, srcB o] [] fun _ l => lanes2 (fun x y => x ||| y) l
/-- OR (R293). -/
def execVecOr (o : VB) (s : State) : Out := issueVec (.vecOr o) 2 (vb2Fault 1 o) (effVecOr o) s

def effVecXor (o : VB) (e : Env) : M Unit := rawOp e o [srcA o, srcB o] [] fun _ l => lanes2 (fun x y => x ^^^ y) l
/-- XOR (R293). -/
def execVecXor (o : VB) (s : State) : Out := issueVec (.vecXor o) 2 (vb2Fault 1 o) (effVecXor o) s

/-- A truth table on a word: bit j of the result is TT[4 a + 2 b + c] (R294). -/
def truthTable (tt : BitVec 8) (a b c : Word) : Word :=
  (List.range 8).foldl (fun r i =>
    if tt.getLsbD i then
      r ||| ((if i / 4 % 2 = 1 then a else ~~~a) &&& (if i / 2 % 2 = 1 then b else ~~~b) &&& (if i % 2 = 1 then c else ~~~c))
    else r) 0

def effLop3 (o : Lop3) (e : Env) : M Unit := do
  let h := o.h.toNat + 1
  let w := o.w.toNat + 1
  let srcs : List VSrc := [⟨o.ka, o.a⟩, ⟨o.kb, o.b⟩, ⟨0, o.c⟩]
  vecChecks srcs (h * w) rawFmts (some ⟨o.kd, o.d⟩) rawFmts
  let l ← vecSources e h w srcs rawFmts []
  vecDeliver h w ⟨o.kd, o.d⟩ rawFmts (BitVec.allOnes 512) (lanes3 (truthTable o.tt) l)
/-- LOP3 (R294): no mask. -/
def execLop3 (o : Lop3) (s : State) : Out := issueVec (.lop3 o) 2 (lop3Fault o) (effLop3 o) s

/-- A lane's shift count (R293). -/
def laneCount (y : Word) : Nat := y.toNat % 32

def effVecShl (o : VB) (e : Env) : M Unit :=
  rawOp e o [srcA o, srcB o] [] fun _ l => lanes2 (fun x y => x <<< laneCount y) l
/-- SHL (R293). -/
def execVecShl (o : VB) (s : State) : Out := issueVec (.vecShl o) 2 (vb2Fault 1 o) (effVecShl o) s

def effVecShr (o : VB) (e : Env) : M Unit :=
  rawOp e o [srcA o, srcB o] [] fun _ l => lanes2 (fun x y => x >>> laneCount y) l
/-- SHR (R293). -/
def execVecShr (o : VB) (s : State) : Out := issueVec (.vecShr o) 2 (vb2Fault 1 o) (effVecShr o) s

def effVecSra (o : VB) (e : Env) : M Unit :=
  rawOp e o [srcA o, srcB o] [] fun _ l => lanes2 (fun x y => x.sshiftRight (laneCount y)) l
/-- SRA (R293). -/
def execVecSra (o : VB) (s : State) : Out := issueVec (.vecSra o) 2 (vb2Fault 1 o) (effVecSra o) s

def effFshl (o : VB) (e : Env) : M Unit :=
  rawOp e o [srcA o, srcB o, srcC o] [] fun _ l =>
    lanes3 (fun x y z => ((x ++ y) <<< laneCount z).extractLsb' 32 32) l
/-- FSHL (R293). -/
def execFshl (o : VB) (s : State) : Out := issueVec (.fshl o) 2 (vb3Fault 1 o) (effFshl o) s

def effFshr (o : VB) (e : Env) : M Unit :=
  rawOp e o [srcA o, srcB o, srcC o] [] fun _ l =>
    lanes3 (fun x y z => ((x ++ y) >>> laneCount z).extractLsb' 0 32) l
/-- FSHR (R293). -/
def execFshr (o : VB) (s : State) : Out := issueVec (.fshr o) 2 (vb3Fault 1 o) (effFshr o) s

def effVecPopc (o : VB) (e : Env) : M Unit :=
  rawOp e o [srcA o] [] fun _ l => lanes1 (fun x => BitVec.ofNat 32 (oneBits x)) l
/-- POPC (R293). -/
def execVecPopc (o : VB) (s : State) : Out := issueVec (.vecPopc o) 2 (vb1Fault 1 o) (effVecPopc o) s

def effVecClz (o : VB) (e : Env) : M Unit :=
  rawOp e o [srcA o] [] fun _ l => lanes1 (fun x => BitVec.ofNat 32 (leadingZeros x)) l
/-- CLZ (R293). -/
def execVecClz (o : VB) (s : State) : Out := issueVec (.vecClz o) 2 (vb1Fault 1 o) (effVecClz o) s

/-- The conditions of ICMP (R295). -/
def icmpCond (c : Nat) (x y : Word) : Bool :=
  match c with
  | 0 => x == y
  | 1 => x != y
  | 2 => x.slt y
  | 3 => x.sle y
  | 4 => x.ult y
  | _ => x.ule y

def effIcmp (o : VB) (e : Env) : M Unit := vecCompare e o 7 (icmpCond (o.fn.toNat % 8))
/-- ICMP (R295). -/
def execIcmp (o : VB) (s : State) : Out := issueVec (.icmp o) 2 (cmpFault 6 o) (effIcmp o) s

/-! ## Movement (R296) -/

def effMov (o : VB) (e : Env) : M Unit := rawOp e o [srcA o] [] fun _ l => nthSrc l 0
/-- MOV (R296). -/
def execMov (o : VB) (s : State) : Out := issueVec (.mov o) 2 (vb1Fault 1 o) (effMov o) s

def effSel (o : VB) (e : Env) : M Unit :=
  rawOp e o [srcA o, srcB o] [o.c.toNat] fun s l =>
    List.zipWith (fun a b => mergeLanes (s.mreg o.c.toNat) b a) (nthSrc l 0) (nthSrc l 1)
/-- SEL (R296). -/
def execSel (o : VB) (s : State) : Out := issueVec (.sel o) 2 (selFault o) (effSel o) s

def effBcst (o : VB) (e : Env) : M Unit := do
  need (decide ((e.kreg o.c.toNat).toNat < 512)) .illegalOperand
  rawOp e o [srcA o] [] fun _ l =>
    (nthSrc l 0).map fun v => List.replicate 512 (v.getD (e.kreg o.c.toNat).toNat 0)
/-- BCST (R296). -/
def execBcst (o : VB) (s : State) : Out := issueVec (.bcst o) 2 (bcstFault o) (effBcst o) s

def effPerm (o : VB) (e : Env) : M Unit :=
  rawOp e o [srcA o, srcB o] [] fun _ l =>
    List.zipWith (fun a b => b.map fun i => a.getD (i.toNat % 512) 0) (nthSrc l 0) (nthSrc l 1)
/-- PERM (R296). -/
def execPerm (o : VB) (s : State) : Out := issueVec (.perm o) 2 (vb2Fault 1 o) (effPerm o) s

def effRot (o : VB) (e : Env) : M Unit :=
  let k := (e.kreg o.c.toNat).toNat % 512
  rawOp e o [srcA o] [] fun _ l => (nthSrc l 0).map fun v => v.drop k ++ v.take k
/-- ROT (R296). -/
def execRot (o : VB) (s : State) : Out := issueVec (.rot o) 2 (bcstFault o) (effRot o) s

/-! ## CVT (R297) -/

/-- The stream formats of a conversion's source and destination (Table 3). -/
def cvtIn (f : Nat) : Nat := if f < 2 then 7 else if f < 6 then 0 else if f < 8 then 2 else 1
def cvtOut (f : Nat) : Nat := if f < 2 then 0 else if f < 4 then 7 else if f = 4 then 2 else if f = 5 then 1 else 0

/-- An exact value as an integer of 32 bits (R255 with 32 bits, R297). -/
def toInt32 (sgn wrap : Bool) (mode draw : Nat) (x : FVal) : Nat :=
  let lo : Int := if sgn then -(2 ^ 31) else 0
  let hi : Int := if sgn then 2 ^ 31 - 1 else 2 ^ 32 - 1
  let r : Int := match x with
    | .nan => 0
    | .inf s => if wrap then 0 else if s then lo else hi
    | .fin s n d =>
      let i := roundInt mode draw s n d
      if wrap then i else max lo (min hi i)
  (r % 2 ^ 32).toNat

/-- Integers in order, each with its own draw. -/
def intAll (sgn wrap : Bool) (r : Rnd) : List FVal → Word → List Nat × Word
  | [], g => ([], g)
  | x :: l, g =>
    let g' := if r.stochastic then rngStep g else g
    let b := intAll sgn wrap r l g'
    (toInt32 sgn wrap r.mode (rngDraw g') x :: b.1, b.2)

/-- The exact values that a conversion rounds for one register of each source, in draw order. -/
def cvtVals (f : Nat) (a b : VReg) : List (Option FVal) :=
  match f with
  | 0 => a.map fun x => some (.ofInt x.toInt)
  | 1 => a.map fun x => some (.ofInt x.toNat)
  | 4 | 5 => (a.zip b).flatMap fun p => [some (fp32.val p.1.toNat), some (fp32.val p.2.toNat)]
  | 6 => a.map fun x => some (bf16.val (x.toNat % 65536))
  | 7 => a.map fun x => some (bf16.val (x.toNat / 65536))
  | 8 => a.map fun x => some (fp16.val (x.toNat % 65536))
  | _ => a.map fun x => some (fp16.val (x.toNat / 65536))

/-- One register of a conversion. -/
def cvtReg (e : Env) (f : Nat) (a b : VReg) : M VReg := do
  if f = 2 ∨ f = 3 then do
    let s ← get
    let r := intAll (f == 2) (e.sat == satWrap) e.round (a.map fun x => fp32.val x.toNat) (s.generator .vec)
    if e.round.stochastic then set ({ s with ctx.gen := s.ctx.gen.set 0 Engine.vec.code r.2 } : State)
    pure (lanesFrom 0 r.1)
  else if f = 4 ∨ f = 5 then do
    let r ← roundBy .vec (if f = 4 then bf16 else fp16) e.round (cvtVals f a b)
    pure (lanesFrom 1 r)
  else do
    let r ← roundBy .vec fp32 e.round (cvtVals f a b)
    pure (lanesFrom 0 r)

def effCvt (o : VB) (e : Env) : M Unit :=
  let f := o.fn.toNat
  vecOp e o (if f = 4 ∨ f = 5 then [srcA o, srcB o] else [srcA o]) [cvtIn f] [cvtOut f] [] fun _ l =>
    (List.range (o.rows * o.cols)).mapM fun r => cvtReg e f ((nthSrc l 0).getD r []) ((nthSrc l 1).getD r [])
/-- CVT (R297). -/
def execCvt (o : VB) (s : State) : Out := issueVec (.cvt o) 2 (cvtFault o) (effCvt o) s

/-! ## Reductions (R298 to R300) -/

/-- The sums of neighbours. -/
def pairUp {α : Type} (f : α → α → α) : List α → List α
  | a :: b :: r => f a b :: pairUp f r
  | l => l

/-- A level of RSUM's tree: each node rounded in order. -/
def sumLevel (e : Env) (l : List Nat) : M (List Nat) :=
  roundBy .vec fp32 e.round ((pairUp (fun x y => match x, y with
    | some x, some y => some (FVal.add e.round.down x y)
    | _, _ => none) (l.map fun x => some (fp32.val x))))

/-- The nine levels of RSUM's tree (fuel: the levels). -/
def sumTree (e : Env) : Nat → List Nat → M (List Nat)
  | 0, l => pure l
  | n + 1, l => do
    let l' ← sumLevel e l
    sumTree e n l'

/-- The sum of a list modulo 2^32. -/
def wrapSum (l : List Word) : Word := l.foldl (· + ·) 0

/-- The source lanes of a reduction: those that m[c] leaves out give a fill value. -/
def maskedLanes (m : BitVec 512) (fill : Word) (v : VReg) : VReg := mergeLanes m (List.replicate 512 fill) v

/-- The stream format of a reduction's type. -/
def reduceFmt (o : VB) : List Nat := if o.fn.getLsbD 0 then [7] else [0]

def effRsum (o : VB) (e : Env) : M Unit :=
  vecOp e o [srcA o] (reduceFmt o) (reduceFmt o) [o.c.toNat] fun s l =>
    (nthSrc l 0).mapM fun v => do
      let x := maskedLanes (s.mreg o.c.toNat) 0 v
      if o.fn.getLsbD 0 then pure (List.replicate 512 (wrapSum x))
      else do
        let t ← sumTree e 9 (x.map (·.toNat))
        pure (List.replicate 512 (BitVec.ofNat 32 (t.getD 0 0)))
/-- RSUM (R298). -/
def execRsum (o : VB) (s : State) : Out := issueVec (.rsum o) 2 (rsumFault o) (effRsum o) s

/-- What a masked lane contributes to RMAX and RMIN (R299). -/
def reduceFill (o : VB) (max : Bool) : Word :=
  match o.fn.toNat with
  | 0 => if max then 0xFF800000 else 0x7F800000
  | 1 => if max then 0x80000000 else 0x7FFFFFFF
  | _ => if max then 0 else 0xFFFFFFFF

/-- The greater or lesser of two lanes for RMAX and RMIN (R299). -/
def reducePick (o : VB) (max : Bool) (x y : Word) : Word :=
  match o.fn.toNat with
  | 0 => BitVec.ofNat 32 (fminBits fp32 max x.toNat y.toNat)
  | 1 => if laneLess true y x != max then y else x
  | _ => if laneLess false y x != max then y else x

/-- The levels of a tree of nine (fuel: the levels). -/
def reduceTree (f : Word → Word → Word) : Nat → List Word → List Word
  | 0, l => l
  | n + 1, l => reduceTree f n (pairUp f l)

/-- RMAX and RMIN. -/
def reduceOp (e : Env) (o : VB) (max : Bool) : M Unit :=
  vecOp e o [srcA o] (reduceFmt o) (reduceFmt o) [o.c.toNat] fun s l =>
    pure ((nthSrc l 0).map fun v =>
      let x := maskedLanes (s.mreg o.c.toNat) (reduceFill o max) v
      List.replicate 512 ((reduceTree (reducePick o max) 9 x).getD 0 0))

def effRmax (o : VB) (e : Env) : M Unit := reduceOp e o true
/-- RMAX (R299). -/
def execRmax (o : VB) (s : State) : Out := issueVec (.rmax o) 2 (rmaxFault o) (effRmax o) s

def effRmin (o : VB) (e : Env) : M Unit := reduceOp e o false
/-- RMIN (R299). -/
def execRmin (o : VB) (s : State) : Out := issueVec (.rmin o) 2 (rmaxFault o) (effRmin o) s

/-- Prefix sums of FP32 values from −0 on, each rounded, with the generator (R300). Answers the sums before and after
each lane. -/
def scanSums (r : Rnd) : List Nat → Nat → Word → List (Nat × Nat) × Word
  | [], _, g => ([], g)
  | x :: l, s, g =>
    let a := fp32.round r ((fp32.val s).add r.down (fp32.val x)) g
    let b := scanSums r l a.1 a.2
    ((s, a.1) :: b.1, b.2)

/-- Prefix sums modulo 2^32. -/
def scanInts : List Word → Word → List (Word × Word)
  | [], _ => []
  | x :: l, s => (s, s + x) :: scanInts l (s + x)

def effScan (o : VB) (e : Env) : M Unit :=
  let excl := o.fn.getLsbD 1
  vecOp e o [srcA o] (reduceFmt o) (reduceFmt o) [o.c.toNat] fun s l =>
    (nthSrc l 0).mapM fun v => do
      let x := maskedLanes (s.mreg o.c.toNat) 0 v
      if o.fn.getLsbD 0 then pure ((scanInts x 0).map fun p => if excl then p.1 else p.2)
      else do
        let s ← get
        let r := scanSums e.round (x.map (·.toNat)) 0x80000000 (s.generator .vec)
        if e.round.stochastic then set ({ s with ctx.gen := s.ctx.gen.set 0 Engine.vec.code r.2 } : State)
        pure (r.1.map fun p => BitVec.ofNat 32 (if excl then p.1 else p.2))
/-- SCAN (R300). -/
def execScan (o : VB) (s : State) : Out := issueVec (.scan o) 2 (scanFault o) (effScan o) s

/-! ## Masks (R301, R302) -/

def effMset (o : VB) (e : Env) : M Unit :=
  let a := o.a.toNat
  let b := o.b.toNat
  match o.fn.toNat with
  | 0 => vecMaskOp e o [srcA o] rawFmts [] fun _ l =>
      BitVec.ofNat 512 (maskBits (((nthSrc l 0).getD 0 []).map (· != 0)))
  | 1 => vecMaskOp e o [] [] [a, b] fun s _ => s.mreg a &&& s.mreg b
  | 2 => vecMaskOp e o [] [] [a, b] fun s _ => s.mreg a ||| s.mreg b
  | 3 => vecMaskOp e o [] [] [a, b] fun s _ => s.mreg a ^^^ s.mreg b
  | 4 => vecMaskOp e o [] [] [a, b] fun s _ => s.mreg a &&& ~~~(s.mreg b)
  | 5 => vecMaskOp e o [] [] [a] fun s _ => ~~~(s.mreg a)
  | _ => vecMaskOp e o [] [] [] fun _ _ => BitVec.ofNat 512 (2 ^ (min (e.kreg o.c.toNat).toNat 512) - 1)
/-- MSET (R301). -/
def execMset (o : VB) (s : State) : Out := issueVec (.mset o) 2 (msetFault o) (effMset o) s

/-- What VCMPB pushes (R302). -/
def vcmpbBit (f : Nat) (sel a : BitVec 512) : Bool :=
  match f with
  | 0 => a &&& sel != 0
  | 1 => a &&& sel == sel
  | _ => a &&& sel == 0

def effVcmpb (o : VB) (_ : Env) : M Unit := do
  let s ← get
  need (s.ctx.bq.producer == some .vec) .queueProtocol
  landingGate 1
  needGood (([o.m.toNat, o.a.toNat].filter (· != 0)).map (64 + ·))
  emit .vec [{ dest := .branch, block := { bytes := [] }, bit := vcmpbBit o.fn.toNat (s.mreg o.m.toNat) (s.mreg o.a.toNat) }]
/-- VCMPB (R302). -/
def execVcmpb (o : VB) (s : State) : Out := issueVec (.vcmpb o) 2 (vcmpbFault o) (effVcmpb o) s

end Sys2Proof.Machine
end

