-- ==== Sys2Proof/Machine/Qnt.lean ====
section
/-! DEFINITION. The converter engine (chapter 8): operands (R262 to R264), Hadamard transforms (R265), the quantising
store (R266 to R270), code tables (R271, R272), decoding and conversion (R274 to R276) and inspection (R277 to R279). -/
namespace Sys2Proof.Machine

/-- A QNT instruction (R261). -/
def issueQnt (i : Instr) (n : Nat) (wf : Option Cause) (eff : Env → M Unit) (s : State) : Out :=
  issue .qnt i n wf eff s

/-! ## Operands (R262 to R264) -/

/-- A data operand with its use; of a source, the blocks that the instruction pops. -/
structure QOp where
  reg : BitVec 5
  fmts : List Nat
  out : Bool
  blocks : Nat := 1
  deriving DecidableEq, Repr

def QOp.isStream (o : QOp) : Bool := decide (o.reg.toNat < 16)
def QOp.queue (o : QOp) : Nat := o.reg.toNat - 16

/-- The stream of an operand fits its use (R263). -/
def QOp.streamOk (o : QOp) (s : State) : Bool :=
  let t := s.stream o.reg.toNat
  t.desc.engn == Engine.qnt.code && t.desc.out == o.out && o.fmts.contains t.desc.fmt

/-- Wait until every stream named has a run, and check the operands (R263); the sources stand first, in pop order. -/
def qntChecks (all : List QOp) : M Unit := do
  let s ← get
  let l := unheld (s.heldBlocks .qnt) (all.map fun o => (o, if o.out then 0 else o.blocks))
  await (l.all fun o => !o.isStream || (s.stream o.reg.toNat).st != .idle)
  need (l.all fun o => !o.isStream || o.streamOk s) .illegalOperand
  l.forM fun o =>
    if o.isStream then pure ()
    else if o.out then needProducer .qnt o.queue
    else needConsumer .qnt o.queue

/-- Pop source blocks through the hold buffer (R264). -/
def qntPop (a : BitVec 5) (n : Nat) (fmts : List Nat) : M (List Block) :=
  (List.range n).mapM fun _ =>
    if a.toNat < 16 then sourceStream .qnt a.toNat fmts else sourceQueue .qnt (a.toNat - 16)

/-- The destination that a field names. -/
def outDest (d : BitVec 5) : OutDest := if d.toNat < 16 then .stream d.toNat else .queue (d.toNat - 16)

/-- Blocks of 2,048 bytes, the last filled with zeros. -/
def toBlocks (b : Bytes) : List Block := (chunks 2048 ((b.length + 2047) / 2048) b).map fun x => { bytes := entry x }

/-- Write destination blocks; a stream takes them if its run has one of the formats `fmts`. -/
def qntEmit (d : BitVec 5) (l : List Block) (fmts : List Nat) : M Unit :=
  emit .qnt (l.map fun b => { dest := outDest d, block := b, fmts := fmts })

/-- Numbers of `k` bytes. -/
def numbersOf (k n : Nat) (b : Bytes) : List Nat := (chunks k n b).map bytesToNat
/-- The bytes of numbers. -/
def numberBytes (k : Nat) (l : List Nat) : Bytes := l.flatMap (natToBytes k)

/-- The bytes of an element, and its format, for IFMT and OFMT: FP32, FP16, BF16. -/
def qelemBytes (f : Nat) : Nat := if f = 0 then 4 else 2
def qelemFmt (f : Nat) : Fmt := if f = 1 then fp16 else if f = 2 then bf16 else fp32

/-- The exact values of the first `n` elements of blocks. -/
def elemVals (f n : Nat) (l : List Block) : List FVal :=
  (numbersOf (qelemBytes f) n (l.flatMap (·.bytes))).map (qelemFmt f).val

/-! ## Hadamard transforms (R265) -/

/-- Sums and differences of pairs, each rounded with its own draw, the sum first. -/
def hadPairs (r : Rnd) : List (Nat × Nat) → Word → List (Nat × Nat) × Word
  | [], g => ([], g)
  | p :: l, g =>
    let a := fp32.round r ((fp32.val p.1).add r.down (fp32.val p.2)) g
    let b := fp32.round r ((fp32.val p.1).sub r.down (fp32.val p.2)) a.2
    let c := hadPairs r l b.2
    ((a.1, b.1) :: c.1, c.2)

/-- One stage over pieces of 2 h elements. -/
def hadStage (r : Rnd) (h : Nat) : List (List Nat) → Word → List Nat × Word
  | [], g => ([], g)
  | y :: l, g =>
    let a := hadPairs r ((y.take h).zip (y.drop h)) g
    let b := hadStage r h l a.2
    (a.1.map (·.1) ++ a.1.map (·.2) ++ b.1, b.2)

/-- The stages in increasing h (fuel: the stages), and the division by c. -/
def hadGroup (r : Rnd) (c n : Nat) : Nat → Nat → List Nat → Word → List Nat × Word
  | 0, _, y, g => roundList fp32 r (y.map fun x => (fp32.val x).mul (.fin false 1 c)) g
  | f + 1, h, y, g =>
    let a := hadStage r h (chunks (2 * h) (n / (2 * h)) y) g
    hadGroup r c n f (2 * h) a.1 a.2

/-- Every group of n elements. -/
def hadAll (r : Rnd) (c n : Nat) : List (List Nat) → Word → List Nat × Word
  | [], g => ([], g)
  | y :: l, g =>
    let a := hadGroup r c n (if n = 32 then 5 else 4) 1 y g
    let b := hadAll r c n l a.2
    (a.1 ++ b.1, b.2)

/-- The transform of a list of FP32 encodings in groups of n. -/
def hadamard (r : Rnd) (c n : Nat) (l : List Nat) (g : Word) : List Nat × Word :=
  hadAll r c n (chunks n (l.length / n) l) g

/-- HAD and HADW: one block, divided by c after the stages. -/
def hadOp (e : Env) (d a : BitVec 5) (n c : Nat) : M Unit := do
  qntChecks [⟨a, [0], false, 1⟩, ⟨d, [0], true, 0⟩]
  let l ← qntPop a 1 [0]
  let s ← get
  let y := hadamard e.round c n (numbersOf 4 512 (l.flatMap (·.bytes))) (s.generator .qnt)
  if e.round.stochastic then set ({ s with ctx.gen := s.ctx.gen.set 0 Engine.qnt.code y.2 } : State)
  qntEmit d (toBlocks (numberBytes 4 y.1)) [0]

/-- The group length that N names. -/
def hadN (n : BitVec 1) : Nat := if n = 1 then 32 else 16

def effHad (d a : BitVec 5) (n : BitVec 1) (e : Env) : M Unit := hadOp e d a (hadN n) 4
/-- HAD (R265). -/
def execHad (d a : BitVec 5) (n : BitVec 1) (s : State) : Out := issueQnt (.had d a n) 1 (hadFault d a) (effHad d a n) s

def effHadw (d a : BitVec 5) (n : BitVec 1) (e : Env) : M Unit := hadOp e d a (hadN n) (if n = 1 then 8 else 4)
/-- HADW (R265). -/
def execHadw (d a : BitVec 5) (n : BitVec 1) (s : State) : Out := issueQnt (.hadw d a n) 1 (hadFault d a) (effHadw d a n) s

/-! ## Code tables (R271, R272) -/

/-- The 16 entries of a table's bank. -/
def QntSt.bank (q : QntSt) (n k : Nat) : List Nat := ((q.tables.get (List.replicate 16 0) (2 * n + k)).map (·.toNat))

/-- Capture the active banks at issue; an instruction that has captured them keeps them (R272). -/
def captureBanks (e : Engine) : M (BitVec 4) := do
  let s ← get
  let h := s.hold e
  match h.banks with
  | some b => pure b
  | none => do
    set (s.setHold e { h with banks := some s.ctx.qnt.active })
    pure s.ctx.qnt.active

/-- The entries of the table of a selector under captured banks; the other selectors have none. -/
def State.tableOf (s : State) (banks : BitVec 4) (sel : Nat) : List Nat :=
  if sel < 4 then [] else s.ctx.qnt.bank (sel - 4) (bit (banks.getLsbD (sel - 4)))

/-- An instruction that has issued and not retired holds a bank of a table: at the head of its queue, or parked. -/
def State.bankHeld (s : State) (n k : Nat) : Bool :=
  let of := fun (l : Sparse Hold) => [Engine.mat, Engine.qnt].any fun e =>
    match (l.get {} e.code).banks with
    | some b => bit (b.getLsbD n) == k
    | none => false
  of s.ctx.hold || match s.ctx.parked with
    | some p => of p.hold
    | none => false

def effCtbl (d b : BitVec 5) (e : Env) : M Unit := do
  let n := d.toNat
  let entries := (List.range 4).flatMap fun j => natToBytes 4 (e.kreg (b.toNat + j)).toNat
  need (entries.all fun x => x.toNat % 128 != 0x7F) .illegalOperand
  let s ← get
  let k := 1 - bit (s.ctx.qnt.active.getLsbD n)
  await (!s.bankHeld n k)
  set ({ s with ctx.qnt.tables := s.ctx.qnt.tables.set (List.replicate 16 0) (2 * n + k) entries
                ctx.qnt.active := s.ctx.qnt.active ^^^ (1#4 <<< n) } : State)
/-- CTBL (R271). -/
def execCtbl (d b : BitVec 5) (s : State) : Out := issueQnt (.ctbl d b) 1 (ctblFault d b) (effCtbl d b) s

/-! ## Selection (R269) -/

/-- The largest magnitude of a selector's levels that QST uses (Table 4). -/
def selMax (sel : Nat) (table : List Nat) : FVal :=
  match sel with
  | 0 => .ofInt 6
  | 1 => .ofInt 7
  | 2 => .ofInt 8
  | _ => table.foldl (fun m e => let v := (e4m3.val e).abs; if m.lt v then v else m) (.zero false)

/-- The smallest integer e with M ≤ L × 2^e, clamped (step 4, mode A). -/
def scaleExp (m l : FVal) : Int :=
  match m, l with
  | .fin _ n d, .fin _ ln ld =>
    if n = 0 ∨ ln = 0 then -127
    else
      let e := expOf (n * ld) (d * ln)
      let p := scaleDiv (n * ld) (d * ln) e
      max (-127) (min 127 (if p.1 = 1 ∧ p.2.1 = 0 then e else e + 1))
  | _, _ => 127

/-- The smallest positive finite E4M3 encoding u with M ≤ L × u; 448 where there is none (step 4, mode B). -/
def scaleE4m3 (m l : FVal) : Nat := ((List.range' 1 126).find? fun c => m.le (l.mul (e4m3.val c))).getD 0x7E

/-- The codes that QST may produce under a selector, in the order in which a tie goes to the earlier one: even codes
before odd ones for F, I and L, entries by index for a table. The zero of F and L stands once, and I has no −8. -/
def selCodes (sel : Nat) : List Nat :=
  match sel with
  | 0 | 2 => [0, 2, 4, 6, 10, 12, 14, 1, 3, 5, 7, 9, 11, 13, 15]
  | 1 => [0, 2, 4, 6, 10, 12, 14, 1, 3, 5, 7, 9, 11, 13, 15]
  | _ => List.range 16

/-- Whether level a lies nearer to x than level b; an infinite x is nearest to the greatest or the least level. -/
def nearer (x a b : FVal) : Bool :=
  match x with
  | .inf s => if s then a.lt b else b.lt a
  | _ => (x.sub false a).abs.lt (x.sub false b).abs

/-- The code of the nearest level among scaled levels, the earlier on a tie. -/
def nearestCode (x : FVal) : List (Nat × FVal) → Nat × FVal
  | [] => (0, .zero false)
  | p :: l => l.foldl (fun best q => if nearer x q.2 best.2 then q else best) p

/-- A candidate's result for one block: the selector, the error, the scale byte, the codes. -/
structure Candidate where
  sel : Nat
  err : FVal
  scale : Nat
  codes : List Nat
  deriving DecidableEq, Repr

/-- Quantise one value: its code and its squared error. -/
def quantOne (sel : Nat) (levels : List (Nat × FVal)) (x : FVal) : Nat × FVal :=
  let p := nearestCode x levels
  let code := if (sel = 0 ∨ sel = 2) ∧ p.2.isZero then (if x.sign then 8 else 0) else p.1
  let dif := x.sub false p.2
  (code, fp32.val (fp32.rne (dif.mul dif)))

/-- Steps 4 to 6 for one candidate. -/
def quantWith (modeB : Bool) (sel : Nat) (table : List Nat) (xs : List FVal) (m : FVal) : Candidate :=
  let l := selMax sel table
  let scale := if modeB then scaleE4m3 m l else (scaleExp m l + 127).toNat
  let u := if modeB then e4m3.val scale else e8m0 scale
  let levels := (selCodes sel).map fun c => (c, (decLevel sel table c).mul u)
  let q := xs.map (quantOne sel levels)
  { sel := sel, err := osum (q.map (·.2)), scale := scale, codes := q.map (·.1) }

/-- The result of the selection of one block. -/
inductive Chosen where
  | nanBlock
  | cands (l : List Candidate)
  deriving DecidableEq, Repr

/-- R269 for one block of exact values: the candidates with their errors. -/
def selection (modeB : Bool) (t : FVal) (cands : List (Nat × List Nat)) (xs : List FVal) : Chosen :=
  if xs.any fun x => x.isNan || x.isInf then .nanBlock
  else
    let ys := if modeB then xs.map fun x => fp32.val (fp32.rne (x.div t)) else xs
    if ys.any (·.isNan) then .nanBlock
    else
      let m := ys.foldl (fun m x => if m.lt x.abs then x.abs else m) (.zero false)
      let l := cands.filter fun c => m.isZero || !(selMax c.1 c.2).isZero
      .cands (l.map fun c => quantWith modeB c.1 c.2 ys m)

/-- The candidate with the least error, the lower selector on a tie. -/
def leastError : List Candidate → Option Candidate
  | [] => none
  | c :: l => some (l.foldl (fun best x => if x.err.lt best.err then x else best) c)

/-- The selector byte of a selector (Table 3). -/
def selByte (sel : Nat) : Nat := 32 * sel + 4 * (7 - sel) + 2

/-- The payload of 32 codes: two to a byte, the first in the low nibble. -/
def nibbles : List Nat → Bytes
  | a :: b :: r => BitVec.ofNat 8 (a + 16 * b) :: nibbles r
  | _ => []

/-! ## The quantising store (R266 to R268) -/

def effQsel (hmode : BitVec 1) (mask : BitVec 8) (_ : Env) : M Unit :=
  modify fun s => { s with ctx.qnt.selmask := mask, ctx.qnt.hmode := hmode == 1 }
/-- QSEL (R266). -/
def execQsel (hmode : BitVec 1) (mask : BitVec 8) (s : State) : Out := issueQnt (.qsel hmode mask) 1 (qselFault mask) (effQsel hmode mask) s

/-- A stored block: its header, its payload, and the selector and error of a block that is not a NaN block. -/
structure Stored where
  hdr : Bytes
  payload : Bytes
  stat : Option (Nat × FVal)
  deriving DecidableEq, Repr

/-- A header: the scale byte, and for SBF4 the selector byte. -/
def headerOf (mx : Bool) (scale sel : Nat) : Bytes :=
  if mx then [BitVec.ofNat 8 scale] else [BitVec.ofNat 8 scale, BitVec.ofNat 8 (selByte sel)]

/-- Quantise one block; none where step 3 leaves no candidate. -/
def storeBlock (mx modeB : Bool) (t : FVal) (cands : List (Nat × List Nat)) (xs : List FVal) : Option Stored :=
  match selection modeB t cands xs with
  | .nanBlock => some { hdr := headerOf mx (if modeB then 0x7F else 0xFF) 0, payload := List.replicate 16 0, stat := none }
  | .cands l => (leastError l).map fun c =>
      { hdr := headerOf mx c.scale c.sel, payload := nibbles c.codes, stat := some (c.sel, c.err) }

/-- Count a stored block (R279). -/
def QntSt.count (q : QntSt) (b : Stored) : QntSt :=
  match b.stat with
  | none => { q with nanblk := satInc q.nanblk }
  | some (sel, e) =>
    { q with blksel := q.blksel.set 0 sel (satInc (q.blksel.get 0 sel))
             errsum := BitVec.ofNat 32 (fp32.rne ((fp32.val q.errsum.toNat).add false e)) }

/-- The values of a source, transformed where HADN asks for it (R268). -/
def qstVals (ifmt hadn n : Nat) (l : List Block) : List FVal :=
  let xs := elemVals ifmt n l
  if hadn = 0 then xs
  else ((hadamard {} 4 (if hadn = 1 then 16 else 32) (xs.map fp32.rne) 0).1).map fp32.val

/-- The enabled selectors with the tables they decode through. -/
def State.enabled (s : State) (banks : BitVec 4) : List (Nat × List Nat) :=
  ((List.range 8).filter fun n => s.ctx.qnt.selmask.getLsbD n && n != 3).map fun n => (n, s.tableOf banks n)

/-- QST and QSTM: `sel` is QSTM's selector. The blocks that it forms fit the format of the run that the destination has
then, MX or SBF4. -/
def qstOp (e : Env) (d a b : BitVec 5) (blk ifmt hadn : Nat) (sel : Option Nat) : M Unit := do
  let n := (blk * 32 * qelemBytes ifmt + 2047) / 2048
  let banks ← captureBanks .qnt
  qntChecks [⟨a, [ifmt], false, n⟩, ⟨d, [8, 9], true, 0⟩]
  let src ← qntPop a n [ifmt]
  let s ← get
  let mx := (s.stream d.toNat).desc.fmt == 8
  let modeB := s.ctx.qnt.hmode && !mx
  let cands := if mx then [(0, [])] else match sel with
    | some n => [(n, s.tableOf banks n)]
    | none => s.enabled banks
  let xs := qstVals ifmt hadn (32 * blk) src
  let blocks := (chunks 32 blk xs).map (storeBlock mx modeB (fp32.val (e.kreg b.toNat).toNat) cands)
  match blocks.findIdx? (·.isNone) with
  | some j => raise { cause := .illegalOperand, tinfo := j }
  | none => do
    let done := blocks.filterMap id
    let absent := headerOf mx (if modeB then 0x38 else 0) 0
    set ({ s with ctx.qnt := done.foldl QntSt.count s.ctx.qnt } : State)
    qntEmit d [{ bytes := entry (done.flatMap (·.payload))
                 hdrs := done.flatMap (·.hdr) ++ (List.replicate (128 - blk) absent).flatten }] [if mx then 8 else 9]

def effQst (d a b : BitVec 5) (blk : BitVec 7) (ifmt hadn : BitVec 2) (e : Env) : M Unit :=
  qstOp e d a b (blk.toNat + 1) ifmt.toNat hadn.toNat none
/-- QST (R267 to R270). -/
def execQst (d a b : BitVec 5) (blk : BitVec 7) (ifmt hadn : BitVec 2) (s : State) : Out :=
  issueQnt (.qst d a b blk ifmt hadn) 2 (qstFault d a b ifmt hadn 0) (effQst d a b blk ifmt hadn) s

def effQstm (d a b : BitVec 5) (blk : BitVec 7) (ifmt hadn : BitVec 2) (sel : BitVec 3) (e : Env) : M Unit :=
  qstOp e d a b (blk.toNat + 1) ifmt.toNat hadn.toNat (some sel.toNat)
/-- QSTM (R267 to R270). -/
def execQstm (d a b : BitVec 5) (blk : BitVec 7) (ifmt hadn : BitVec 2) (sel : BitVec 3) (s : State) : Out :=
  issueQnt (.qstm d a b blk ifmt hadn sel) 2 (qstFault d a b ifmt hadn sel.toNat) (effQstm d a b blk ifmt hadn sel) s

/-! ## Decoding (R260, R274) -/

/-- The first corrupt selector byte of the headers of SBF4 blocks. -/
def firstCorrupt (n : Nat) (hdrs : Bytes) : Option Nat :=
  (List.range n).find? fun j => selCorrupt (hdrs.getD (2 * j + 1) 0).toNat

/-- The trap record of a corrupt block of a stream (R260). The block has been popped. -/
def State.corruptTrap (s : State) (i j : Nat) : TrapInfo :=
  let t := s.stream i
  let k := 128 * (t.done - 1) + j
  { cause := .selectorCorrupt, cap := t.lhcap, toff := addOff t.hcur (t.desc.header t.dcur k) + 1
    tinfo := i + 256 * (k % 2 ^ 40) }

/-- The headers of a block are those of MX: a byte for each of its 128 blocks, where SBF4 has two (R190). -/
def mxHdrs (hdrs : Bytes) : Bool := hdrs.length == 128

/-- The nibble codes of a payload. -/
def codesOf (b : Bytes) : List Nat := b.flatMap fun x => [x.toNat % 16, x.toNat / 16]

/-- The exact values of one 32-element block (R256, R258, R259). -/
def blockVals (mx modeB : Bool) (t : FVal) (table : Nat → List Nat) (hdr payload : Bytes) : List FVal :=
  let scale := (hdr.getD 0 0).toNat
  let sel := if mx then 0 else selOf (hdr.getD 1 0).toNat
  let u := if mx then e8m0 scale else sbfScale modeB scale t
  (codesOf payload).map fun c => if u.isNan then .nan else (decLevel sel (table sel) c).mul u

def effDeq (d a b : BitVec 5) (blk : BitVec 7) (ofmt : BitVec 2) (e : Env) : M Unit := do
  let n := blk.toNat + 1
  let i := a.toNat
  let banks ← captureBanks .qnt
  qntChecks [⟨a, [8, 9], false, 1⟩, ⟨d, [ofmt.toNat], true, 0⟩]
  let src ← qntPop a 1 [8, 9]
  let s ← get
  let hdrs := src.flatMap (·.hdrs)
  let mx := mxHdrs hdrs
  let hb := if mx then 1 else 2
  match if mx then none else firstCorrupt n hdrs with
  | some j => raise (s.corruptTrap i j)
  | none => do
    let data := src.flatMap (·.bytes)
    let vals := (List.range n).flatMap fun j =>
      blockVals mx s.ctx.qnt.hmode (fp32.val (e.kreg b.toNat).toNat) (s.tableOf banks)
        ((hdrs.drop (hb * j)).take hb) ((data.drop (16 * j)).take 16)
    let out ← roundBy .qnt (qelemFmt ofmt.toNat) e.round (vals.map some)
    qntEmit d (toBlocks (numberBytes (qelemBytes ofmt.toNat) out)) [ofmt.toNat]
/-- DEQ (R274). -/
def execDeq (d a b : BitVec 5) (blk : BitVec 7) (ofmt : BitVec 2) (s : State) : Out :=
  issueQnt (.deq d a b blk ofmt) 2 (deqFault d a b ofmt) (effDeq d a b blk ofmt) s

/-! ## Conversion (R275, R276) -/

/-- The fields of `w` bits of a number, the lowest first. -/
def fieldsOf (w : Nat) : Nat → Nat → List Nat
  | 0, _ => []
  | n + 1, x => x % 2 ^ w :: fieldsOf w n (x / 2 ^ w)

/-- The E4M3 encodings of packed elements (R275): four to a byte for INT2, four to three bytes for FP6. -/
def expandPacked (pf : Nat) (b : Bytes) : List Nat :=
  if pf = 0 then b.flatMap fun x =>
    (fieldsOf 2 4 x.toNat).map fun v => e4m3.rne (.ofInt (BitVec.ofNat 2 v).toInt)
  else (chunks 3 (b.length / 3) b).flatMap fun g =>
    (fieldsOf 6 4 (bytesToNat g)).map fun v => e4m3.rne ((if pf = 1 then e2m3 else e3m2).val v)

def effCvtx (d a : BitVec 5) (clr : BitVec 1) (pf : BitVec 2) (_ : Env) : M Unit := do
  let s ← get
  let carry := if clr = 1 then [] else s.ctx.qnt.carry
  let want := if pf = 0 then 512 else 1536
  let n := (want - carry.length + 2047) / 2048
  qntChecks [⟨a, [6], false, n⟩, ⟨d, [3], true, 0⟩]
  let src ← qntPop a n [6]
  let all := carry ++ src.flatMap (·.bytes)
  modify fun s => { s with ctx.qnt.carry := all.drop want }
  qntEmit d (toBlocks (numberBytes 1 (expandPacked pf.toNat (all.take want)))) [3]
/-- CVTX (R275). -/
def execCvtx (d a : BitVec 5) (clr : BitVec 1) (pf : BitVec 2) (s : State) : Out :=
  issueQnt (.cvtx d a clr pf) 1 (cvtxFault d a pf) (effCvtx d a clr pf) s

/-- The stream format code and the size of CVTN's OFMT: the codes of R190. -/
def cvtnBytes (f : Nat) : Nat := if f < 3 then 2 else 1

/-- Integers of 8 bits in order, each with its own draw. -/
def int8All (sgn wrap : Bool) (r : Rnd) : List FVal → Word → List Nat × Word
  | [], g => ([], g)
  | x :: l, g =>
    let g' := if r.stochastic then rngStep g else g
    let b := int8All sgn wrap r l g'
    (toInt8 sgn wrap r.mode (rngDraw g') x :: b.1, b.2)

def effCvtn (d a b : BitVec 5) (ofmt : BitVec 3) (e : Env) : M Unit := do
  let f := ofmt.toNat
  let n := 4 / cvtnBytes f
  qntChecks [⟨a, [0], false, n⟩, ⟨d, [f], true, 0⟩]
  let src ← qntPop a n [0]
  let k := fp32.val (e.kreg b.toNat).toNat
  let vals := (elemVals 0 (2048 / cvtnBytes f) src).map (·.mul k)
  let out ← if 5 ≤ f then do
      let s ← get
      let r := int8All (f == 5) (e.sat == satWrap) e.round vals (s.generator .qnt)
      if e.round.stochastic then set ({ s with ctx.gen := s.ctx.gen.set 0 Engine.qnt.code r.2 } : State)
      pure r.1
    else roundBy .qnt (fmtOf f) e.round (vals.map some)
  qntEmit d (toBlocks (numberBytes (cvtnBytes f) out)) [f]
/-- CVTN (R276). -/
def execCvtn (d a b : BitVec 5) (ofmt : BitVec 3) (s : State) : Out :=
  issueQnt (.cvtn d a b ofmt) 1 (cvtnFault d a b ofmt) (effCvtn d a b ofmt) s

/-! ## Inspection (R277 to R279) -/

/-- The byte of Table 10 for a header. -/
def qhdrByte (mx modeB : Bool) (h : Bytes) : Byte :=
  let scale := (h.getD 0 0).toNat
  let sel := (h.getD 1 0).toNat
  if mx then BitVec.ofNat 8 (64 * bit (scale == 0xFF))
  else BitVec.ofNat 8 (128 * bit (selCorrupt sel)
    + 64 * bit (if modeB then (e4m3.val scale).isNan else scale == 0xFF) + selOf sel)

def effQhdr (d a : BitVec 5) (flt : BitVec 1) (_ : Env) : M Unit := do
  let i := a.toNat
  qntChecks [⟨a, [8, 9], false, 1⟩, ⟨d, [6], true, 0⟩]
  let src ← qntPop a 1 [8, 9]
  let s ← get
  let hdrs := src.flatMap (·.hdrs)
  let mx := mxHdrs hdrs
  let hb := if mx then 1 else 2
  match if mx || flt != 1 then none else firstCorrupt 128 hdrs with
  | some j => raise (s.corruptTrap i j)
  | none =>
    qntEmit d [{ bytes := entry ((List.range 128).map fun j => qhdrByte mx s.ctx.qnt.hmode ((hdrs.drop (hb * j)).take hb)) }] [6]
/-- QHDR (R277). -/
def execQhdr (d a : BitVec 5) (flt : BitVec 1) (s : State) : Out := issueQnt (.qhdr d a flt) 1 (qhdrFault d a) (effQhdr d a flt) s

/-- The eight words of QERR for one block. -/
def qerrWords (c : Chosen) : List Nat :=
  (List.range 8).map fun n => match c with
    | .nanBlock => fp32.nanBits
    | .cands l => match l.find? (·.sel == n) with
      | some x => fp32.rne x.err
      | none => fp32.nanBits

def effQerr (d a b : BitVec 5) (ifmt : BitVec 2) (e : Env) : M Unit := do
  let f := ifmt.toNat
  let banks ← captureBanks .qnt
  qntChecks [⟨a, [f], false, 1⟩, ⟨d, [0], true, 0⟩]
  let src ← qntPop a 1 [f]
  let s ← get
  let n := 64 / qelemBytes f
  let blocks := (chunks 32 n (elemVals f (32 * n) src)).map
    (selection s.ctx.qnt.hmode (fp32.val (e.kreg b.toNat).toNat) (s.enabled banks))
  qntEmit d [{ bytes := entry (numberBytes 4 (blocks.flatMap qerrWords)) }] [0]
/-- QERR (R278). -/
def execQerr (d a b : BitVec 5) (ifmt : BitVec 2) (s : State) : Out :=
  issueQnt (.qerr d a b ifmt) 1 (qerrFault d a b ifmt) (effQerr d a b ifmt) s

/-- The block of Table 11. -/
def QntSt.statBlock (q : QntSt) : Bytes :=
  (List.range 8).flatMap (fun n => natToBytes 8 (q.blksel.get 0 n).toNat)
    ++ natToBytes 8 q.nanblk.toNat ++ natToBytes 8 q.errsum.toNat
    ++ natToBytes 8 (2 ^ 24 * q.selmask.toNat + 2 ^ 20 * bit q.hmode + 2 ^ 16 * q.active.toNat + q.carry.length)

def effQstat (d : BitVec 5) (clr : BitVec 1) (_ : Env) : M Unit := do
  qntChecks [⟨d, [7], true, 0⟩]
  let s ← get
  let b := s.ctx.qnt.statBlock
  if clr = 1 then set ({ s with ctx.qnt.blksel := [], ctx.qnt.nanblk := 0, ctx.qnt.errsum := 0 } : State)
  qntEmit d [{ bytes := entry b }] [7]
/-- QSTAT (R279). -/
def execQstat (d : BitVec 5) (clr : BitVec 1) (s : State) : Out := issueQnt (.qstat d clr) 1 (qstatFault d) (effQstat d clr) s

end Sys2Proof.Machine
end

