-- ==== Sys2Proof/Machine/Sync.lean ====
section
/-! DEFINITION. The synchronisation engine's instructions and steps (R229 to R250). -/
namespace Sys2Proof.Machine

/-! ## Homes and atomic lines (R229, R230) -/

/-- The home engine of a location of this package. -/
def homeOf (a : Nat) : Nat := if isHbm a then hbmDie a else localOf a / 2 ^ 12 % 4

def State.home (s : State) (die : Nat) : HomeSt := s.units.homes.get {} die
def State.setHome (s : State) (die : Nat) (h : HomeSt) : State := { s with units.homes := s.units.homes.set {} die h }

/-- Entries of an engine's SRAM: 4 MiB of 64 bytes each. -/
def homeEntries : Nat := 65536

/-- An atomic line leaves its engine: to the MSC, or to the second tier, which the MSC never caches (R230). -/
def State.lineBack (s : State) (line : Nat) : State :=
  let a := 128 * line
  if isHbm a then
    let die := hbmDie a
    let m := s.slice die
    match m.find (mscLine a) with
    | some l =>
      let s1 := if l.dirty.isNone then s.sideStore die else s
      let m1 := s1.slice die
      s1.setSlice die { m1 with lines := m1.lines.map (·.dirtyAt (mscLine a) m1.clock (s1.beneath die (mscLine a))), clock := m1.clock + 1 }
    | none => s.mscFill die (mscLine a) true
  else s

/-- Remove a line from an engine, by write-back. -/
def State.dropAtomic (s : State) (die line : Nat) : State :=
  let h := s.home die
  (s.setHome die { h with lines := h.lines.filter fun l => l.1 != line }).lineBack line

/-- The entries of the pool that are in use: one for an object, two for a line (R229). -/
def HomeSt.used (h : HomeSt) : Nat := 2 * h.lines.length + h.objs.length

/-- The engine with an object as the one used last. -/
def HomeSt.useObj (h : HomeSt) (index : Nat) : HomeSt :=
  { h with objs := (h.objs.filter fun o => o.1 != index) ++ [(index, h.clock)], clock := h.clock + 1 }

/-- The location of a command's atomic lies in a line. -/
def State.targets (s : State) (d : Cmd) (c : Cap) (o line : Nat) : Bool :=
  match s.locateBy d.sent c o with
  | .at a => a / 128 == line
  | _ => false

/-- An operation on a line is pending. -/
def State.linePending (s : State) (line : Nat) : Bool :=
  s.units.cmds.any fun c => !c.held && !c.done && c.body.atoms.any fun p => s.targets c p.1 p.2.1 line

/-- An object has a holder, a waiter or an operation pending. -/
def State.objBusy (s : State) (k : Nat × Nat × Nat) : Bool :=
  (s.units.objs.any fun o => o.1 == k) || s.units.cmds.any fun c => !c.done && match c.body with
    | .bind h .. | .rel h _ => handleKey h == k
    | _ => false

/-- What the pool of an engine can give up: a line or an object. -/
inductive PoolItem where
  | line (n : Nat) | obj (index : Nat)
  deriving DecidableEq, Repr

/-- The entry of an engine that was used longest ago, among those with no holder, waiter or operation pending (R230). -/
def State.poolVictim (s : State) (die : Nat) : Option PoolItem :=
  let h := s.home die
  let l := (h.lines.filter fun x => !s.linePending x.1).map (fun x => (PoolItem.line x.1, x.2))
    ++ (h.objs.filter fun x => !s.objBusy (s.myPkg, die, x.1)).map fun x => (PoolItem.obj x.1, x.2)
  (l.foldl (fun (b : Option (PoolItem × Nat)) x => match b with
    | some y => if x.2 < y.2 then some x else b
    | none => some x) none).map (·.1)

/-- An entry leaves its engine: a line is written back; an object's record stands in the overflow area (R239). -/
def State.poolDrop (s : State) (die : Nat) (i : PoolItem) : State :=
  match i with
  | .line n => s.dropAtomic die n
  | .obj n => s.setHome die { s.home die with objs := (s.home die).objs.filter fun o => o.1 != n }

/-- Free entries until `n` are there (fuel: the entries); none where none can be freed. -/
def State.poolRoom (s : State) (die n : Nat) : Nat → Option State
  | 0 => if (s.home die).used + n ≤ homeEntries then some s else none
  | f + 1 =>
    if (s.home die).used + n ≤ homeEntries then some s
    else match s.poolVictim die with
      | some i => (s.poolDrop die i).poolRoom die n f
      | none => none

/-- The line of an address moves from the memory-side cache, or from memory, into its engine, which then holds the only
copy; a pinned line keeps its place. `uid` is the context that waits for the line (R444); 0 for none. -/
def State.fetchLine (s : State) (a : Nat) (uid : Nat := 0) : State :=
  if isHbm a then
    let die := hbmDie a
    let m := s.slice die
    match m.find (mscLine a) with
    | some l => s.setSlice die { m.count 0 1 with lines := if l.pinned then m.lines else m.lines.filter fun x => x.line != l.line }
    | none => s.setSlice die { m.count 1 1 with missing := m.missing ++ [(mscLine a, uid)] }
  else s

/-- The engine holds the line of a location, replacing what was used longest ago where the pool is full. `none` where
nothing can be replaced (R230). -/
def State.takeLine (s : State) (a : Nat) (uid : Nat := 0) : Option State :=
  if packageOf a ≠ s.myPkg then some s
  else
    let die := homeOf a
    if (s.home die).has a then some (s.setHome die ((s.home die).useLine (a / 128)))
    else (s.poolRoom die 2 2).map fun s1 => (s1.fetchLine a uid).setHome die ((s1.home die).useLine (a / 128))

/-- The engine of an object of this package holds it; another package's engine is its own. `none` where it has no entry
to give (R230). -/
def State.takeObj (s : State) (k : Nat × Nat × Nat) : Option State :=
  if k.1 ≠ s.myPkg then some s
  else if (s.home k.2.1).objs.any (·.1 == k.2.2) then some (s.setHome k.2.1 ((s.home k.2.1).useObj k.2.2))
  else (s.poolRoom k.2.1 1 1).map fun s1 => s1.setHome k.2.1 ((s1.home k.2.1).useObj k.2.2)

/-- ATOMIC_LINE_WRITEBACK (R230). Operand: die, physical line number. -/
def execAtomicLineWriteback (s : State) : Out :=
  let die := s.operand.n0
  let line := s.operand.n1
  whenDue "ATOMIC_LINE_WRITEBACK" ((s.home die).lines.any (·.1 == line) && !s.linePending line) (s.dropAtomic die line)

/-! ## Atomics (R232 to R237) -/

/-- The lesser and the greater of two numbers of `n` bytes, signed (Table 3 of chapter 7). -/
def signedLess (n x y : Nat) : Bool := decide ((BitVec.ofNat (8 * n) x).toInt < (BitVec.ofNat (8 * n) y).toInt)

/-- Table 3 of chapter 7; operation 8 is ATOMF (R233). -/
def atomNew (op n old v cmp : Nat) : Nat :=
  match op with
  | 0 => (old + v) % 2 ^ (8 * n)
  | 1 => if signedLess n old v then old else v
  | 2 => if signedLess n old v then v else old
  | 3 => old &&& v
  | 4 => old ||| v
  | 5 => old ^^^ v
  | 6 => v
  | 7 => if old = cmp then v else old
  | _ => fp32.rne ((fp32.val old).add false (fp32.val v))

def atomF : Nat := 8

/-- The checks of an atomic at issue (R233, R234), which drop the line of the core's L1 (R231). -/
def atomCheck (c : Cap) (n align : Nat) : M Unit := do
  let o ← accessAt c 0 n [tyData] [rAT]
  if o % align ≠ 0 then raise { cause := .capBounds, toff := o, tinfo := align, cap := c }
  let s ← get
  await (!s.marked c o n)
  modify fun s => (s.placeRange c o n).foldl (fun s p => match p.1 with
    | .at a => (List.range ((a + p.2 - 1) / 128 + 1 - a / 128)).foldl (fun s i => s.l1DropLine (a + 128 * i)) s
    | _ => s) s

/-- Issue an atomic: a returning one is outstanding as a load, another is a tl1 command (R235). -/
def issueAtom (c : Cap) (op n : Nat) (v cmp : DWord) (ret : Option Nat) (addr : Nat) : M Unit := do
  let s ← get
  match ret with
  | some d => do
    notInTask
    atomCheck c n n
    await s.loadRoom
    modify fun s => (s.addLoad (.x d n false) (.answer s.units.nextCmd) addr (wrote := true)).addCmd
      { s.freeCmd (.atom c op n v cmp (some s.ctx.acc.nextLoad)) with sent := s.sendTrans c c.cursor.toNat n }
  | none => do
    atomCheck c n n
    if s.ctx.job.task then commitRoom 1
    modify fun s => s.issueCmd 1 true s.ctx.job.task false none (.atom c op n v cmp none)
      (if s.ctx.job.task then [] else s.sendTrans c c.cursor.toNat n)

def effAtom (d a b : BitVec 5) (ret size : BitVec 1) (op : BitVec 3) (e : Env) : M Unit := do
  let c ← rdC a
  let v ← rdX b
  let cmp ← if op = 7 then rdX d else pure 0
  if ret = 1 then freeX d
  issueAtom c op.toNat (if size = 1 then 8 else 4) v cmp (if ret = 1 then some d.toNat else none) e.addr
/-- ATOM (R232, R233). -/
def execAtom (d a b : BitVec 5) (ret size : BitVec 1) (op : BitVec 3) (s : State) : Out :=
  issueAcc (.atom d a b ret size op) 1 (atomFault d a ret (op == 7)) (effAtom d a b ret size op) s

def effAtomf (d a b : BitVec 5) (ret : BitVec 1) (e : Env) : M Unit := do
  let c ← rdC a
  let v ← rdX b
  if ret = 1 then freeX d
  issueAtom c atomF 4 v 0 (if ret = 1 then some d.toNat else none) e.addr
/-- ATOMF (R232, R233). -/
def execAtomf (d a b : BitVec 5) (ret : BitVec 1) (s : State) : Out :=
  issueAcc (.atomf d a b ret) 1 (atomFault d a ret false) (effAtomf d a b ret) s

/-- The FP32 elements of a queue entry, numbered. -/
def fpElems (b : Bytes) (n : Nat) : List (Nat × BitVec 32) :=
  (List.range n).map fun i => (i, BitVec.ofNat 32 (bytesToNat ((b.drop (4 * i)).take 4)))

def effAtomfQ (a b : BitVec 5) (_ : Env) : M Unit := do
  let c ← rdC a
  needConsumer .acc b.toNat
  atomCheck c 2048 4
  let s ← get
  if s.ctx.job.task then commitRoom 65
  let v ← popQ .acc b.toNat
  modify fun s =>
    let s1 := s.issueCmd 1 true s.ctx.job.task false none (.atomQ c (fpElems v 512))
      (if s.ctx.job.task then [] else s.sendTrans c c.cursor.toNat 2048)
    if s.ctx.job.task then
      s1.modAcc fun q => { q with commit := q.commit ++ List.replicate 64 (.payload s.units.nextCmd) }
    else s1
/-- ATOMF.q (R234, R235). -/
def execAtomfQ (a b : BitVec 5) (s : State) : Out :=
  issueAcc (.atomfQ a b) 1 (opnd (bad16 a || bad8 b)) (effAtomfQ a b) s

/-- The context that waits for what a command's atomic reads (R444). -/
def Cmd.reader (c : Cmd) : Nat :=
  match c.body with
  | .atom _ _ _ _ _ (some _) => c.uid
  | _ => 0

/-- One atomic at its home: the new state and the old value. A failure leaves the location unchanged (R237). -/
def State.applyAtom (s : State) (core : Nat) (sent : List Trans) (cap : Cap) (o n op : Nat) (v cmp : DWord) (uid : Nat := 0) :
    Did (State × Nat) :=
  let info := fun cause => ({ cause := cause, toff := o, tinfo := n, cap := cap } : TrapInfo)
  match s.locateBy sent cap o with
  | .moving => .later
  | .fails e => .fails (info e)
  | .at a =>
    if s.quarterGated a then .fails (info .powerState)
    else if s.memHeld a then .later
    else match s.reach (packageOf a) with
      | .broken => .fails { info .linkError with tinfo := packageOf a }
      | .held => .later
      | .ok => match s.badIn (a / 128 * 128) 128 with
        | some e => .fails { info .eccUncorrectable with toff := o + e - a, bad := .sectors (s.badSectors (a / 128 * 128) 128 []) }
        | none => match s.takeLine a uid with
          | none => .later
          | some s1 =>
            let old := bytesToNat (s.mem.read a n)
            let m := 2 ^ (8 * n)
            let s2 := s1.homeWrite a (natToBytes n (atomNew op n old (v.toNat % m) (cmp.toNat % m)))
            let t := s2.l1.get [] core
            .ok ({ s2 with l1 := s2.l1.set [] core (Sparse.erase t (a / 128)) }, old)

/-- Earlier accesses of the context to these bytes are still to be performed (R236). -/
def State.atomBehind (s : State) (c : Cmd) (cap : Cap) (o n : Nat) : Bool :=
  s.earlier c.uid c.stamp cap o n

/-- An outstanding load gets its answer. -/
def Load.answer (l : Load) (n : Nat) (src : LoadSrc) : Load := if l.n = n then { l with src := src } else l
def Ctx.answerLoad (c : Ctx) (n : Nat) (src : LoadSrc) : Ctx :=
  { c with acc.loads := c.acc.loads.map (·.answer n src) }

/-- The elements of a list of additions, one applied: those left and the first failure. -/
def State.applyOne (s : State) (c : Cmd) (cap : Cap) (o : Nat) (v : BitVec 32) : Option (State × Cmd) :=
  match (s.applyAtom c.core c.sent cap o 4 atomF (v.setWidth 64) 0).for c with
  | .later => none
  | .fails t => some (s, { c with failed := c.failed <|> some t })
  | .ok r => some (r.1, c)

/-- Of two failures the one at the lower offset (R334). -/
def lowestFail (a b : Option TrapInfo) : Option TrapInfo :=
  match a, b with
  | some x, some y => some (if y.toff < x.toff then y else x)
  | some x, none => some x
  | none, y => y

/-- ATOMIC_AT_HOME (R233 to R237, R334). Operand: command, and the place in the list of one that makes several
additions. -/
def execAtomicAtHome (s : State) : Out :=
  match s.cmd s.operand.n0 with
  | none => notDue "ATOMIC_AT_HOME"
  | some c =>
    if c.held ∨ c.done then notDue "ATOMIC_AT_HOME"
    else match c.body with
      | .atom cap op n v cmp ret =>
        if s.atomBehind c cap cap.cursor.toNat n then notDue "ATOMIC_AT_HOME"
        else match (s.applyAtom c.core c.sent cap cap.cursor.toNat n op v cmp c.reader).for c, ret with
          | .later, _ => notDue "ATOMIC_AT_HOME"
          | .ok r, none => .next (r.1.putCmd { c with done := true })
          | .fails t, none => .next (s.putCmd { c with done := true, failed := some t })
          | .ok r, some l => .next ((r.1.modJob c.uid (·.answerLoad l (.ready (natToBytes n r.2)))).dropCmd c.n)
          | .fails t, some l => .next ((s.modJob c.uid (·.answerLoad l (.failed { t with noskip := true }))).dropCmd c.n)
      | .atomQ cap l => match l[s.operand.n1]? with
        | none => notDue "ATOMIC_AT_HOME"
        | some p =>
          if s.atomBehind c cap (cap.cursor.toNat + 4 * p.1) 4 then notDue "ATOMIC_AT_HOME"
          else match s.applyOne c cap (cap.cursor.toNat + 4 * p.1) p.2 with
            | none => notDue "ATOMIC_AT_HOME"
            | some r =>
              let rest := l.eraseIdx s.operand.n1
              .next (r.1.putCmd { r.2 with body := .atomQ cap rest, done := rest.isEmpty })
      | .mass cap l => match l[s.operand.n1]? with
        | none => notDue "ATOMIC_AT_HOME"
        | some p =>
          if s.atomBehind c cap p.1 4 then notDue "ATOMIC_AT_HOME"
          else match s.applyOne { c with failed := none } cap p.1 p.2 with
            | none => notDue "ATOMIC_AT_HOME"
            | some r =>
              let rest := l.eraseIdx s.operand.n1
              let fail := r.2.failed.map fun t => { t with toff := p.1 }
              .next (r.1.putCmd { r.2 with body := .mass cap rest, done := rest.isEmpty, failed := lowestFail c.failed fail })
      | _ => notDue "ATOMIC_AT_HOME"

/-! ## Sync objects (R238 to R240) -/

/-- Packages of a domain have numbers below 640 (R432). -/
def maxPackage : Nat := 640

/-- What of a handle raises ILLEGAL_OPERAND (R238). -/
def handleBad (h : DWord) : Bool :=
  h.extractLsb' 52 12 != 0 || h.extractLsb' 34 8 != 0 || h.extractLsb' 20 12 != 0
    || decide (maxPackage ≤ (handleKey h).1)

/-- The physical address of an object's record (R239, R457). -/
def State.recAddr (s : State) (k : Nat × Nat × Nat) : Nat :=
  (if k.1 = s.myPkg then (s.host.syncBase.get 0 k.2.1).toNat % 2 ^ 52
    else 2 ^ 42 * k.1 + (Config.remoteSyncBase k.1 k.2.1).toNat) + 64 * k.2.2

/-- The fields of a record (Table 6 of chapter 7). -/
def recValid (w : DWord) : Bool := w.getLsbD 63
def recScope (w : DWord) : Nat := (w.extractLsb' 32 3).toNat
def recNreg (w : DWord) : Nat := min 2 (w.extractLsb' 16 2).toNat
def recAsid (w : DWord) : Nat := (w.extractLsb' 0 14).toNat

/-- The bound regions: object, start, length. -/
def State.recRegions (s : State) (k : Nat × Nat × Nat) : List (Nat × Nat × Nat) :=
  let a := s.recAddr k
  (List.range (recNreg (s.mem8 a))).map fun i =>
    ((s.mem8 (a + 16 + 24 * i)).toNat % 2 ^ 32, (s.mem8 (a + 24 + 24 * i)).toNat % 2 ^ 48,
      (s.mem8 (a + 32 + 24 * i)).toNat % 2 ^ 48)

/-- What an operation on an object raises (R240). -/
def State.objFault (s : State) (h : DWord) (asid : Nat) : Option TrapInfo :=
  let w := s.mem8 (s.recAddr (handleKey h))
  if (s.badIn (s.recAddr (handleKey h)) 64).isSome then 
    some { cause := .eccUncorrectable, tinfo := h.toNat, bad := .sectors (s.badSectors (s.recAddr (handleKey h)) 64 []) }
  else if !recValid w then some { cause := .illegalOperand }
  else if recAsid w ≠ asid then some { cause := .capType, tinfo := h.toNat }
  else none

/-- An object's holds and waiters. -/
def State.obj (s : State) (k : Nat × Nat × Nat) : SyncObj :=
  match s.units.objs.find? fun o => o.1 == k with
  | some o => o.2
  | none => {}
def State.setObj (s : State) (k : Nat × Nat × Nat) (o : SyncObj) : State :=
  { s with units.objs := (s.units.objs.filter fun x => x.1 != k) ++ (if o = {} then [] else [(k, o)]) }

/-! ### Holds (R98, R246, R247) -/

/-- A hold could begin at once under R98. -/
def SyncObj.open (o : SyncObj) (excl : Bool) : Bool := if excl then o.holds.isEmpty else o.holds.all fun h => !h.excl

/-- The request with its answer, and the regions and scope in effect (R242). -/
def Ask.grant (a : Ask) (n : Nat) (regions : List (Nat × Nat × Nat)) (scope : Nat) : Ask :=
  if a.n = n then { a with done := true, regions := regions, scope := scope } else a

/-- Tell the holder that its hold has begun; another package's is told over the link. -/
def State.tellHolder (s : State) (k : Nat × Nat × Nat) (w : Owner) : State :=
  match w with
  | .ctx uid a | .attention uid a =>
    s.modJob uid fun c => { c with units.asks := c.units.asks.map (·.grant a (s.recRegions k) (recScope (s.mem8 (s.recAddr k)))) }
  | .evict n => match s.cmd n with
    | some c => match c.body with
      | .evict e => s.putCmd { c with body := .evict { e with granted := true } }
      | _ => s
    | none => s
  | .remote .. => s

/-- A request at the home of an object that is resident: its hold begins, or it joins the list (R246). -/
def State.joinObj (s : State) (k : Nat × Nat × Nat) (h : ObjHold) : State :=
  let o := s.obj k
  if o.waiters = [] ∧ o.open h.excl then (s.setObj k { o with holds := o.holds ++ [h] }).tellHolder k h.who
  else s.setObj k { o with waiters := o.waiters ++ [h] }

/-- Another request waits for an entry of the object's engine: later ones stand behind it. -/
def State.poolQueued (s : State) (k : Nat × Nat × Nat) : Bool := k.1 == s.myPkg && !(s.home k.2.1).full.isEmpty

/-- The request of `who` arrives: its hold begins, or it joins the list; where the engine has no entry for the object, it
waits at the engine (R230, R246). -/
def State.request (s : State) (k : Nat × Nat × Nat) (h : ObjHold) : State :=
  match if s.poolQueued k then none else s.takeObj k with
  | some s1 => s1.joinObj k h
  | none => s.setHome k.2.1 { s.home k.2.1 with full := (s.home k.2.1).full ++ [(k.2.2, h)] }

/-- The waiters that a grant takes: an exclusive head alone, a shared head with the shared ones behind it (R246). -/
def SyncObj.run (o : SyncObj) : List ObjHold :=
  match o.waiters with
  | [] => []
  | h :: r => if h.excl then [h] else h :: r.takeWhile fun x => !x.excl

/-- Grant the head of the list (R246). -/
def State.grantHead (s : State) (k : Nat × Nat × Nat) : State :=
  let o := s.obj k
  o.run.foldl (fun s h => s.tellHolder k h.who)
    (s.setObj k { holds := o.holds ++ o.run, waiters := o.waiters.drop o.run.length })

/-- The head of the list can be granted. -/
def SyncObj.canGrant (o : SyncObj) : Bool :=
  match o.waiters with
  | [] => false
  | h :: _ => o.open h.excl

/-- The first request that waits for an entry of an engine gets one, where one has freed (R230). -/
def State.poolServe (s : State) (k : Nat × Nat × Nat) : Option State :=
  match (s.home k.2.1).full with
  | [] => none
  | r :: l =>
    if k.1 ≠ s.myPkg ∨ r.1 ≠ k.2.2 then none
    else (s.takeObj k).map fun s1 => (s1.setHome k.2.1 { s1.home k.2.1 with full := l }).joinObj k r.2

/-- HOLD_GRANT (R230, R246): the head of an object's list is granted, or the request that has waited longest for an entry
gets it. Operand: package, die, index. -/
def execHoldGrant (s : State) : Out :=
  let k := (s.operand.n0, s.operand.n1, s.operand.n2)
  if (s.obj k).canGrant then .next (s.grantHead k)
  else match s.poolServe k with
    | some s1 => .next s1
    | none => notDue "HOLD_GRANT"

/-- A holder's hold ends. -/
def SyncObj.endHold (o : SyncObj) (w : Owner) : SyncObj := { o with holds := o.holds.filter fun h => h.who != w }

/-- A REL's hold ends (R245): the one that a request obtained. -/
def SyncObj.release (o : SyncObj) (uid id : Nat) : SyncObj := o.endHold (.ctx uid id)

/-- The stores and the atomics that a job issued before a number have been acknowledged (R39, R235). -/
def State.storesBefore (s : State) (w : Who) : Bool :=
  !(s.acks.any fun a => a.uid == w.uid && decide (a.stamp < w.stamp))
  && !(s.units.cmds.any fun x => x.uid == w.uid && decide (x.stamp < w.stamp) && !x.held && !x.body.atoms.isEmpty)
  && !((s.jobCtx w.uid).any fun c => c.acc.loads.any fun l => l.wrote && decide (l.n < w.stamp))

/-- Every write that R100 lets a REL wait for has been acknowledged: those that preceded it, and those of earlier
commands. -/
def State.writesBefore (s : State) (w : Who) : Bool :=
  s.storesBefore w && !s.units.cmds.any fun x => x.uid == w.uid && decide (x.stamp < w.stamp) && x.counted && !x.held

/-- An operation that the context issued before a command, on the same object, is still to be applied: an earlier BIND, and
for a BIND an earlier REL too (R242). -/
def State.objBehind (s : State) (c : Cmd) (k : Nat × Nat × Nat) : Bool :=
  s.units.cmds.any fun x => x.uid == c.uid && decide (x.stamp < c.stamp) && !x.done && match x.body with
    | .bind h .. | .rel h _ => handleKey h == k
    | _ => false

/-- HOLD_RELEASE (R100, R245). Operand: command. -/
def execHoldRelease (s : State) : Out :=
  match s.cmd s.operand.n0 with
  | some c => match c.body with
    | .rel h id =>
      let due := !c.done && s.writesBefore c.who && !s.objBehind c (handleKey h)
      match s.reach (handleKey h).1 with
      | .ok =>
        let o := (s.obj (handleKey h)).release c.uid id
        whenDue "HOLD_RELEASE" due ((s.setObj (handleKey h) o).putCmd { c with done := true })
      | .held => notDue "HOLD_RELEASE"
      | .broken => whenDue "HOLD_RELEASE" due
          (s.putCmd { c with done := true, failed := some { cause := .linkError, tinfo := (handleKey h).1 } })
    | _ => notDue "HOLD_RELEASE"
  | none => notDue "HOLD_RELEASE"

/-! ### Acquiring (R99) -/

/-- A physical line lies in a region of an object of an address space. -/
def State.lineInRegion (s : State) (asid line : Nat) (r : Nat × Nat × Nat) : Bool :=
  match s.objEntry asid r.1 with
  | none => false
  | some e => (pagesOf r.2.1 r.2.2).any fun p =>
      let f := pageFrame (s.mem8 (e.entryAddr (p.1 / pageSize))) * pageSize + p.1 % pageSize
      decide (f / 128 ≤ line) && decide (128 * line < f + p.2)

/-- The L1 lines that bound regions cover are dropped (R99). -/
def State.dropRegions (s : State) (asid : Nat) (rs : List (Nat × Nat × Nat)) : State :=
  match s.l1.get [] s.cur.core with
  | [] => s
  | t => { s with l1 := s.l1.set [] s.cur.core (t.filter fun l => !rs.any (s.lineInRegion asid l.1)) }

/-- The hold of the focus context begins for it: its table gets it, and it acquires (R99, R241). -/
def State.beginHold (s : State) (h : DWord) (excl : Bool) (id : Nat) (rs : List (Nat × Nat × Nat)) (scope : Nat) : State :=
  (s.modCtx fun c => { c with
      units.holds := c.units.holds ++ [{ handle := h, excl := excl, id := id, regions := rs, scope := scope }] }).dropRegions
    s.ctx.job.code.asid.toNat rs

/-- Entries of a hold table (R241). -/
def holdEntries : Nat := 8

/-- A BIND of the focus context on an object is still to be applied (R242). -/
def State.bindPending (s : State) (k : Nat × Nat × Nat) : Bool :=
  s.units.cmds.any fun c => c.uid == s.ctx.job.uid && !c.done && match c.body with
    | .bind h .. => handleKey h == k
    | _ => false

/-- The checks of ACQ and TRYACQ (R238, R240, R241), and of the way to the home (R437). -/
def acquireCheck (h : DWord) (addr : Nat) : M Unit := do
  notInTask
  let s ← get
  need (!handleBad h) .illegalOperand
  need (!(holdsKey s.ctx.units.holds (handleKey h)) && decide (s.ctx.units.holds.length < holdEntries)) .illegalOperand
  match s.reach (handleKey h).1 with
  | .broken => raise { cause := .linkError, tinfo := (handleKey h).1, noskip := true, taddr := some addr }
  | .held => wait
  | .ok => do
    check (s.objFault h s.ctx.job.code.asid.toNat)
    await (!s.bindPending (handleKey h))

/-- A context's request is answered and forgotten. -/
def Ctx.dropAsk (c : Ctx) (n : Nat) : Ctx := { c with units.asks := c.units.asks.filter fun a => a.n != n }

/-- Add a request of the instruction at an address. -/
def State.addAsk (s : State) (addr : Nat) (arg : DWord) : State :=
  s.modCtx fun c => { c with
    units.asks := c.units.asks ++ [{ addr := addr, n := c.units.nextAsk, arg := arg, gts := s.gts }]
    units.nextAsk := c.units.nextAsk + 1
    blockedAt := some s.gts }

/-- The request of the instruction at an address. -/
def State.askAt (s : State) (addr : Nat) : Option Ask := s.ctx.units.asks.find? fun a => a.addr == addr

/-- Take the answer of a request that has one: the hold, or the failure of its way to the home (R437). -/
def takeGrant (addr : Nat) (excl : Bool) : M Unit := do
  let s ← get
  match s.askAt addr with
  | some a => do
    await a.done
    match a.failed with
    | some t => do
      set (s.modCtx fun c => c.dropAsk a.n)
      raise t
    | none => set ((s.modCtx fun c => c.dropAsk a.n).beginHold a.arg excl a.n a.regions a.scope)
  | none => wait

def effAcq (a : BitVec 5) (sh : BitVec 1) (e : Env) : M Unit := do
  let h ← rdX a
  let s ← get
  match s.askAt e.addr with
  | some _ => takeGrant e.addr (sh == 0)
  | none => do
    acquireCheck h e.addr
    modify fun s => (s.addAsk e.addr h).request (handleKey h) { who := .ctx s.ctx.job.uid s.ctx.units.nextAsk, excl := sh == 0 }
    takeGrant e.addr (sh == 0)
/-- ACQ (R243). -/
def execAcq (a : BitVec 5) (sh : BitVec 1) (s : State) : Out := issueAcc (.acq a sh) 1 none (effAcq a sh) s

def effTryacq (d a : BitVec 5) (sh : BitVec 1) (e : Env) : M Unit := do
  let h ← rdX a
  freeX d
  acquireCheck h e.addr
  let s ← get
  let k := handleKey h
  match if s.poolQueued k then none else s.takeObj k with
  | none => wait
  | some s1 =>
    let o := s1.obj k
    let id := s1.ctx.units.nextAsk
    if o.waiters = [] ∧ o.open (sh == 0) then do
      set (((s1.setObj k { o with holds := o.holds ++ [{ who := .ctx s1.ctx.job.uid id, excl := sh == 0 }] }).modCtx fun c =>
        { c with units.nextAsk := id + 1 }).beginHold h (sh == 0) id (s1.recRegions k) (recScope (s1.mem8 (s1.recAddr k))))
      wrX d 1
    else do
      set s1
      wrX d 0
/-- TRYACQ (R244). -/
def execTryacq (d a : BitVec 5) (sh : BitVec 1) (s : State) : Out :=
  issueAcc (.tryacq d a sh) 1 none (effTryacq d a sh) s

def effRel (a : BitVec 5) (_ : Env) : M Unit := do
  notInTask
  let h ← rdX a
  let s ← get
  need (!handleBad h && holdsKey s.ctx.units.holds (handleKey h)) .illegalOperand
  deliverStoreFail
  deliverLinkFail
  let id := ((s.ctx.units.holds.find? fun t => handleKey t.handle == handleKey h).map (·.id)).getD 0
  modify fun s => (s.issueCmd 1 false false false none (.rel h id)).modCtx fun c => { c with
    units.holds := c.units.holds.filter fun t => handleKey t.handle != handleKey h }
/-- REL (R245). -/
def execRel (a : BitVec 5) (s : State) : Out := issueAcc (.rel a) 1 none (effRel a) s

/-! ### BIND (R242) -/

def effBind (d a b : BitVec 5) (rep : BitVec 1) (scope : BitVec 3) (_ : Env) : M Unit := do
  notInTask
  let h ← rdX d
  let c ← rdC a
  let len ← rdX b
  need (!handleBad h && len != 0 && decide (len.toNat < 2 ^ 48)) .illegalOperand
  let _ ← accessAt c 0 len.toNat [tyData] [rR]
  modify fun s => s.issueCmd 1 false false false none (.bind h c len.toNat scope.toNat (rep == 1))
/-- BIND (R242). -/
def execBind (d a b : BitVec 5) (rep : BitVec 1) (scope : BitVec 3) (s : State) : Out :=
  issueAcc (.bind d a b rep scope) 1 (opnd (bad16 a || decide (5 ≤ scope.toNat))) (effBind d a b rep scope) s

/-- The record with a region bound, or a failure (R240, R242): the region's object, its start and its length. -/
def State.bindRecord (s : State) (asid : Nat) (h : DWord) (obj start len scope : Nat) (rep : Bool) : Did State :=
  match s.objFault h asid with
  | some t => .fails t
  | none =>
    let a := s.recAddr (handleKey h)
    let w := s.mem8 a
    let n := if rep then 0 else recNreg w
    if n = 2 then .fails { cause := .illegalOperand }
    else
      let w' := (w.toNat / 2 ^ 35 * 2 ^ 35 + 2 ^ 32 * scope + w.toNat / 2 ^ 18 % 2 ^ 14 * 2 ^ 18 + 2 ^ 16 * (n + 1) + w.toNat % 2 ^ 16)
      .ok ((s.homeWrite a (natToBytes 8 w')).homeWrite (a + 16 + 24 * n)
        (natToBytes 8 obj ++ natToBytes 8 (start % 2 ^ 48) ++ natToBytes 8 len))

/-- BIND_APPLY (R242). Operand: command. -/
def execBindApply (s : State) : Out :=
  match s.cmd s.operand.n0 with
  | some c => match c.body with
    | .bind h cap len scope rep =>
      if c.done || s.objBehind c (handleKey h) || s.poolQueued (handleKey h) then notDue "BIND_APPLY"
      else match s.reach (handleKey h).1 with
        | .held => notDue "BIND_APPLY"
        | .broken => .next (s.putCmd { c with done := true, failed := some { cause := .linkError, tinfo := (handleKey h).1 } })
        | .ok => match s.takeObj (handleKey h) with
          | none => notDue "BIND_APPLY"
          | some s0 => match s0.bindRecord c.asid h cap.obj.toNat cap.cursor.toNat len scope rep with
            | .ok s1 => .next (s1.putCmd { c with done := true })
            | .fails t => .next (s0.putCmd { c with done := true, failed := some t })
            | .later => notDue "BIND_APPLY"
    | _ => notDue "BIND_APPLY"
  | none => notDue "BIND_APPLY"

/-! ## Timelines and wait slots (R249, R250) -/

def effTlget (d : BitVec 5) (iss : BitVec 1) (cls : BitVec 2) (_ : Env) : M Unit := do
  freeX d
  let s ← get
  let t := s.ctx.units.tl.get {} cls.toNat
  wrX d (BitVec.ofNat 64 (if iss = 1 then t.issued else t.counter))
/-- TLGET (R249). -/
def execTlget (d : BitVec 5) (iss : BitVec 1) (cls : BitVec 2) (s : State) : Out :=
  issueAcc (.tlget d iss cls) 1 none (effTlget d iss cls) s

def effTlarm (d a b : BitVec 5) (kind : BitVec 3) (_ : Env) : M Unit := do
  let v ← rdX a
  let slot ← match kind.toNat with
    | 0 => pure (WaitSlot.timeline b.toNat v)
    | 1 => do
      let o ← rdX b
      if o.toNat % 16 ≠ 0 ∨ padSize < o.toNat + 16 then raise { cause := .capBounds, toff := o.toNat, tinfo := 16 }
      pure (WaitSlot.gen o.toNat (v.setWidth 32))
    | 2 => pure (WaitSlot.gts v)
    | 3 => pure (WaitSlot.phase v)
    | _ => pure WaitSlot.unarmed
  modSeq fun q => { q with slots := q.slots.set .unarmed d.toNat slot }
/-- TLARM (R250). -/
def execTlarm (d a b : BitVec 5) (kind : BitVec 3) (s : State) : Out :=
  issueAcc (.tlarm d a b kind) 1 (tlarmFault d a b kind) (effTlarm d a b kind) s

end Sys2Proof.Machine
end

