-- ==== Sys2Proof/Machine/Mat.lean ====
section
/-! DEFINITION. The matrix engine (chapter 10): shapes (R311), operand rings and their pumps (R312 to R316), products
(R318 to R322), the other tile instructions (R323 to R327), attention (R328 to R334) and status (R335, R336). -/
namespace Sys2Proof.Machine

/-- A MAT instruction. -/
def issueMat (i : Instr) (n : Nat) (wf : Option Cause) (eff : Env → M Unit) (s : State) : Out :=
  issue .mat i n wf eff s

/-! ## Accumulators (R308, R311) -/

def State.mat (s : State) (a : BitVec 2) : MatAcc := s.ctx.mat.acc.get {} a.toNat
def State.setMat (s : State) (a : BitVec 2) (v : MatAcc) : State := { s with ctx.mat.acc := s.ctx.mat.acc.set {} a.toNat v }

/-- An FP32 −∞. -/
def negInf : Word := 0xFF800000
def MatAcc.mOf (v : MatAcc) (r : Nat) : Word := v.rowM.get negInf r
def MatAcc.lOf (v : MatAcc) (r : Nat) : Word := v.rowL.get 0 r
/-- Granted rows and columns (R311). -/
def MatAcc.mg (v : MatAcc) : Nat := 16 * ((v.m + 15) / 16)
def MatAcc.ng (v : MatAcc) : Nat := 16 * ((v.n + 15) / 16)
/-- Elements zero, statistics and score buffer as after SHAPE. -/
def MatAcc.cleared (v : MatAcc) : MatAcc := { v.zeroed with rowM := [], rowL := [], sbv := false }

/-- A shaped accumulator: ILLEGAL_OPERAND with TINFO = acc for another (R311). -/
def shaped (a : BitVec 2) : M MatAcc := do
  let s ← get
  if (s.mat a).valid then pure (s.mat a) else raise { cause := .illegalOperand, tinfo := a.toNat }

/-- The shape that SHAPE sets. -/
def MatAcc.ofShape (smode : BitVec 1) (fb fa : BitVec 4) (m n : BitVec 7) (kb : BitVec 3) (ta tb : Word) : MatAcc :=
  MatAcc.zeroed
    { valid := true, fa := fa.toNat, fb := fb.toNat, smode := smode == 1, int := intFmt fa.toNat, m := m.toNat + 1,
      n := n.toNat + 1, kb := kb.toNat + 1, ta := ta, tb := tb }

def effShape (acc : BitVec 2) (smode : BitVec 1) (fb fa : BitVec 4) (m n : BitVec 7) (kb : BitVec 3) (kta ktb : BitVec 4)
    (e : Env) : M Unit :=
  modify fun s => s.setMat acc (MatAcc.ofShape smode fb fa m n kb (e.kreg kta.toNat) (e.kreg ktb.toNat))
/-- SHAPE (R310, R311). -/
def execShape (acc : BitVec 2) (smode : BitVec 1) (fb fa : BitVec 4) (m n : BitVec 7) (kb : BitVec 3) (kta ktb : BitVec 4)
    (s : State) : Out :=
  issueMat (.shape acc smode fb fa m n kb kta ktb) 2 (shapeFault fa fb) (effShape acc smode fb fa m n kb kta ktb) s

/-! ## Rings (R312 to R316) -/

def State.ring (s : State) (g : Nat) : TileRing := s.ctx.mat.rings.get {} g
def State.setRing (s : State) (g : Nat) (r : TileRing) : State := { s with ctx.mat.rings := s.ctx.mat.rings.set {} g r }
def State.pump (s : State) (g : Nat) : Option Pump := s.ctx.acc.pumps.get none g

def TileRing.payload (r : TileRing) : Nat := tilePayload r.fmt r.rows r.kb
def TileRing.hdrAt (r : TileRing) : Nat := tileHeaders r.fmt r.rows r.kb
/-- The scratchpad offset of a slot. -/
def TileRing.slotAt (r : TileRing) (n : Nat) : Nat := r.start + r.size * n
def TileRing.tail (r : TileRing) : Nat := (r.head + r.filled.length) % max 1 r.slots
/-- Element blocks of a tile. -/
def TileRing.blocks32 (r : TileRing) : Nat := r.rows * r.kb
/-- Blocks of a run that a tile takes (R314). -/
def TileRing.pumpBlocks (r : TileRing) : Nat := (r.payload + 2047) / 2048

/-- The regions of two rings share a byte. -/
def TileRing.overlaps (r q : TileRing) : Bool :=
  decide (r.start < q.start + q.size * q.slots) && decide (q.start < r.start + r.size * r.slots)

def ringOverrun {α : Type} (g : Nat) : M α := raise { cause := .ringOverrun, tinfo := g }

def effRingdef (ring : BitVec 3) (off : BitVec 1) (fmt : BitVec 4) (base : BitVec 10) (slots : BitVec 5) (rows : BitVec 8)
    (kb : BitVec 3) (_ : Env) : M Unit := do
  let g := ring.toNat
  let s ← get
  let old := s.ring g
  let new : TileRing := if off = 1 then {} else
    { defined := true, fmt := fmt.toNat, base := base.toNat, slots := slots.toNat + 1, rows := rows.toNat + 1
      kb := kb.toNat + 1 }
  if old.defined ∧ (old.filled ≠ [] ∨ old.part.isSome ∨ (s.pump g).isSome) then ringOverrun g
  else if off = 0 ∧ (List.range 8).any fun j => j != g && (s.ring j).defined && new.overlaps (s.ring j) then ringOverrun g
  else set (s.setRing g new)
/-- RINGDEF (R313, R316). -/
def execRingdef (ring : BitVec 3) (off : BitVec 1) (fmt : BitVec 4) (base : BitVec 10) (slots : BitVec 5) (rows : BitVec 8)
    (kb : BitVec 3) (s : State) : Out :=
  issueMat (.ringdef ring off fmt base slots rows kb) 2 (ringdefFault off fmt base slots rows kb)
    (effRingdef ring off fmt base slots rows kb) s

/-! ### Pumps (R200, R314) -/

/-- The bytes of a slot are written with no translation and no watermark of their own. -/
def State.padPut (s : State) (o : Nat) (b : Bytes) : State := { s with ctx.pad := s.ctx.pad.write o b }

/-- Place block `b` of the run as block `n` of the tile in a slot at `at'` (R314). -/
def State.placeTile (s : State) (r : TileRing) (at' n : Nat) (b : Block) : State :=
  let hb := hdrBytes r.fmt
  let s1 := s.padPut (at' + 2048 * n) (b.bytes.take (r.payload - 2048 * n))
  if hb = 0 then s1 else s1.padPut (at' + r.hdrAt + 128 * hb * n) (b.hdrs.take (hb * r.blocks32 - 128 * hb * n))

/-- The rest of a tile whose run has ended: zeros, and the headers of absent blocks (R314). -/
def State.fillTileRest (s : State) (r : TileRing) (at' n : Nat) : State :=
  let hb := hdrBytes r.fmt
  let s1 := s.padPut (at' + 2048 * n) (List.replicate (r.payload - 2048 * n) 0)
  if hb = 0 then s1
  else s1.padPut (at' + r.hdrAt + 128 * hb * n) ((List.replicate (r.blocks32 - 128 * n) (emptyHdr r.fmt)).flatten)

/-- The tail slot is marked filled. -/
def TileRing.markFilled (r : TileRing) : TileRing :=
  { r with filled := r.filled ++ r.part.toList, part := none, placed := 0 }

/-- The pump of a ring ends; a tile that it has begun is completed (R200, R201, R314). -/
def State.endPump (s : State) (g : Nat) : State :=
  let r := s.ring g
  let s1 := s.modAcc fun a => { a with pumps := a.pumps.set none g none }
  match r.part with
  | none => s1
  | some _ => (s1.fillTileRest r (r.slotAt r.tail) r.placed).setRing g r.markFilled

/-- The pumps that take a stream's run, which has been popped to its end: each ends (R200). -/
def State.endPumpsOf (s : State) (i : Nat) : State :=
  s.ctx.acc.pumps.foldl (fun s p => match p.2 with
    | some q => if q.stream = i ∧ !q.waiting then s.endPump p.1 else s
    | none => s) s

/-- The next block of a pump's run. A step of the pump itself records a failing fill in the stream and raises nothing. -/
def pumpPop (quiet : Bool) (i : Nat) : M Block := do
  if quiet then do
    let s ← get
    await ((s.stream i).st != .fault || !(s.stream i).buf.isEmpty)
    if (s.stream i).buf.isEmpty then set (s.fillStream i).1
    let s ← get
    await (!(s.stream i).buf.isEmpty)
    popStream .mat i
  else popStream .mat i

/-- What a pump records when it begins a tile (R314). -/
def Stream.tileRecord (t : Stream) : RingSlot :=
  { fmt := t.desc.fmt, sp := t.desc.sp, cap := t.ldcap
    origin := (t.dcur : Int) + t.desc.offset (t.done * blockElems t.desc.fmt) }

/-- One block of a pump, or its end. -/
def pumpStep (quiet : Bool) (g : Nat) : M Unit := do
  let s ← get
  match s.pump g with
  | none => wait
  | some p => do
    let r := s.ring g
    await (!p.waiting && r.defined && decide (r.filled.length < r.slots))
    let t := s.stream p.stream
    if p.stopping ∨ t.st = .idle ∨ t.st = .ended then set (s.endPump g)
    else do
      check (s.padCheck (r.slotAt r.tail) r.size)
      await (!s.padWaits (r.slotAt r.tail) r.size)
      let b ← pumpPop quiet p.stream
      let s ← get
      let part := r.part.getD t.tileRecord
      let n := r.placed
      let full := r.pumpBlocks ≤ n + 1
      let r1 := { r with part := some part, placed := n + 1 }
      let s1 := (s.placeTile r (r.slotAt r.tail) n b).setRing g (if full then r1.markFilled else r1)
      set (if (s1.stream p.stream).st = .ended then s1.endPumpsOf p.stream else s1)

/-- Fill the tail slot (fuel: its blocks and one). -/
def fillSlot (quiet : Bool) (g : Nat) : Nat → Nat → M Unit
  | 0, _ => pure ()
  | f + 1, have' => do
    let s ← get
    if (s.ring g).filled.length ≠ have' then pure ()
    else do
      pumpStep quiet g
      let s ← get
      if (s.pump g).isNone then pure () else fillSlot quiet g f have'

/-- PUMP_SLOT_FILL (R314). Operand: ring. -/
def execPumpSlotFill (s : State) : Out :=
  let g := s.operand.n0
  match fillSlot true g ((s.ring g).pumpBlocks + 1) (s.ring g).filled.length s with
  | .ok _ s1 => .next s1
  | .error .wait s1 => if s1 = s then notDue "PUMP_SLOT_FILL" else .next s1
  | .error _ _ => notDue "PUMP_SLOT_FILL"

/-! ### Reading tiles (R309, R315) -/

/-- What a wait counts in the counters of R336: one for each attempt that waits. -/
def counting (f : MatSt → MatSt) (x : M Unit) : M Unit := fun s =>
  match x s with
  | .error .wait s' => .error .wait { s' with ctx.mat := f s'.ctx.mat }
  | r => r

/-- Wait until a ring's head tile is filled (R309). -/
def awaitTile (g : Nat) : M Unit := do
  let s ← get
  if (s.ring g).filled ≠ [] then pure ()
  else do
    fillSlot false g ((s.ring g).pumpBlocks + 1) 0
    let s ← get
    await (decide ((s.ring g).filled ≠ []))

/-- The head tiles of an instruction's rings are filled; where a ring is not defined there is no tile to wait for. -/
def awaitTiles (l : List Nat) : M Unit := do
  let s ← get
  if l.any fun g => !(s.ring g).defined then pure ()
  else counting (fun q => { q with rwait := satInc q.rwait }) (l.forM awaitTile)

/-- The rings of an instruction are defined (R316). -/
def needRings (l : List Nat) : M Unit := do
  let s ← get
  match l.find? fun g => !(s.ring g).defined with
  | some g => ringOverrun g
  | none => pure ()

/-- A tile fits Table 4, and was filled in its ring's format (R315, R318). A ring that is not defined has no tile. -/
def tileFits (g : Nat) (fmts : List Nat) (rows k : Nat) : M Unit := do
  let s ← get
  let r := s.ring g
  let ok := (r.filled.head?.all (·.fmt == r.fmt)) && fmts.contains r.fmt && r.rows == rows && 32 * r.kb == k
  if !r.defined || ok then pure () else raise { cause := .illegalOperand, tinfo := g }

/-- A tile that has been read: its ring as it stands, the slot's record, its payload and its headers. -/
structure Tile where
  ring : TileRing
  slot : Option RingSlot
  bytes : Bytes
  hdrs : Bytes
  deriving DecidableEq, Repr

/-- The payload bytes and the header bytes of the first rows of a tile (R312). -/
def TileRing.rowBytes (r : TileRing) (rows : Nat) : Nat := if r.rows ≤ rows then r.payload else rows * r.kb * 32 * fmtBits r.fmt / 8
def TileRing.rowHdrs (r : TileRing) (rows : Nat) : Nat := min rows r.rows * r.kb * hdrBytes r.fmt

/-- A tile's bytes in the scratchpad can be reached (R72 step 7). -/
def tilePower (g : Nat) : M Unit := do
  let s ← get
  let r := s.ring g
  if r.defined then check (s.padCheck (r.slotAt r.head) r.payload)

/-- Read bytes of a tile; a data fault is precise (R318). -/
def readTileAt (o n : Nat) : M Bytes := fun s =>
  if n = 0 then .ok [] s
  else match readPad o n s with
    | .error (.trap t) s' => .error (.trap { t with noskip := false }) s'
    | x => x

/-- Read the first rows of a head tile into the hold buffer (R309); the other rows are not read, and stand as zeros. -/
def readRows (g rows : Nat) : M Tile := do
  let s ← get
  let r := s.ring g
  let b ← takeSource .mat (do
    let p ← readTileAt (r.slotAt r.head) (r.rowBytes rows)
    let h ← readTileAt (r.slotAt r.head + r.hdrAt) (r.rowHdrs rows)
    pure { bytes := padTo r.payload 0 p, hdrs := padTo (r.rowHdrs r.rows) 0 h })
  pure { ring := r, slot := r.filled.head?, bytes := b.bytes, hdrs := b.hdrs }

/-- Read a head tile. -/
def readTile (g : Nat) : M Tile := do
  let s ← get
  readRows g (s.ring g).rows

/-- The head tile goes (R315). -/
def State.popRing (s : State) (g : Nat) : State :=
  let r := s.ring g
  s.setRing g { r with head := (r.head + 1) % max 1 r.slots, filled := r.filled.tail }

/-- The pops of an instruction's two rings at its retirement (R315). -/
def State.popTiles (s : State) (ra rb : Nat) (keepa keepb : BitVec 1) : State :=
  if ra = rb then (if keepa = 1 ∨ keepb = 1 then s else s.popRing ra)
  else
    let s1 := if keepa = 1 then s else s.popRing ra
    if keepb = 1 then s1 else s1.popRing rb

/-! ### Elements (R319) -/

/-- The exact values of a tile's elements in order. -/
def Tile.vals (t : Tile) (modeB : Bool) (scale : Word) (table : Nat → List Nat) : List FVal :=
  let n := 32 * t.ring.blocks32
  match t.ring.fmt with
  | 0 => (numbersOf 4 n t.bytes).map fp32.val
  | 5 => (numbersOf 1 n t.bytes).map fun x => .ofInt (BitVec.ofNat 8 x).toInt
  | 6 => (numbersOf 1 n t.bytes).map fun (x : Nat) => .ofInt x
  | f =>
    if f = 8 ∨ f = 9 then
      let hb := hdrBytes f
      (List.range t.ring.blocks32).flatMap fun j =>
        blockVals (f == 8) modeB (fp32.val scale.toNat) table ((t.hdrs.drop (hb * j)).take hb) ((t.bytes.drop (16 * j)).take 16)
    else (numbersOf (fmtBits f / 8) n t.bytes).map (fmtOf f).val

/-- The integers of an INT8 or UINT8 tile. -/
def Tile.ints (t : Tile) : List Int :=
  t.bytes.map fun b => if t.ring.fmt = 5 then b.toInt else (b.toNat : Int)

/-- The first corrupt selector of a tile, as R318 records it. -/
def Tile.corrupt (t : Tile) (g : Nat) : Option TrapInfo :=
  if t.ring.fmt ≠ 9 then none
  else (firstCorrupt t.ring.blocks32 t.hdrs).map fun j =>
    { cause := .selectorCorrupt, toff := t.ring.slotAt t.ring.head + t.ring.hdrAt + 2 * j + 1
      tinfo := g + 16 + 256 * j
      cap := match t.slot with
        | some r => if r.sp then Cap.null else r.cap
        | none => Cap.null }

/-- Rows of `k` elements. -/
def rowsOf {α : Type} (rows k : Nat) (l : List α) : List (List α) := chunks k rows l
/-- Columns of rows. -/
def columnsOf {α : Type} (d : α) (k : Nat) (l : List (List α)) : List (List α) := (List.range k).map fun j => l.map (·.getD j d)

/-- Element block `q` of each row. -/
def blocksAt {α : Type} (q : Nat) (l : List (List α)) : List (List α) := l.map fun r => (r.drop (32 * q)).take 32

/-! ### Products (R320, R321) -/

/-- The exact sum of the products of two lists. -/
def exactDot (down : Bool) (a b : List FVal) : FVal := exactSum down (List.zipWith FVal.mul a b)

/-- The block steps of a floating product from block `q` on (fuel: the blocks): C in row-major order, the generator. -/
def productSteps (r : Rnd) (a b : List (List FVal)) : Nat → Nat → List Nat × Word → List Nat × Word
  | 0, _, c => c
  | f + 1, q, c =>
    let bq := blocksAt q b
    let p := (blocksAt q a).flatMap fun x => bq.map fun y => exactDot r.down x y
    productSteps r a b f (q + 1)
      (roundList fp32 r (List.zipWith (fun c p => (fp32.val c).add r.down p) c.1 p) c.2)

/-- The block steps of an integer product. -/
def intSteps (sat : BitVec 2) (a b : List (List Int)) : Nat → Nat → List Word → List Word
  | 0, _, c => c
  | f + 1, q, c =>
    let bq := blocksAt q b
    let p := (blocksAt q a).flatMap fun x => bq.map fun y => (List.zipWith (· * ·) x y).foldl (· + ·) 0
    intSteps sat a b f (q + 1) (List.zipWith (fun (c : Word) p => satInt sat 32 true (c.toInt + p)) c p)

/-- Rounded results become the elements of an accumulator; the generator of MAT goes on. -/
def setElems (acc : BitVec 2) (v : MatAcc) (e : Env) (r : List Nat × Word) : M Unit :=
  modify fun s =>
    let s1 : State := if e.round.stochastic then { s with ctx.gen := s.ctx.gen.set 0 Engine.mat.code r.2 } else s
    s1.setMat acc { v with elems := r.1.map (BitVec.ofNat 32) }

/-- Multiply-accumulates at the granted shape (R336). -/
def addMacs (n : Nat) : M Unit := modify fun s => { s with ctx.mat.macs := s.ctx.mat.macs + BitVec.ofNat 64 n }

/-- MMA and MMAT (R318 to R322). `tr` names the transposed form. -/
def mmaOp (e : Env) (tr : Bool) (acc : BitVec 2) (ra rb : Nat) (zero keepb keepa : BitVec 1) : M Unit := do
  awaitTiles [ra, rb]
  let banks ← captureBanks .mat
  let v ← shaped acc
  need (!(v.int && e.rnd != 0)) .illegalOperand
  let k := 32 * v.kb
  if tr then do
    tileFits ra [v.fa] k v.m
    tileFits rb [v.fb] k v.n
  else do
    tileFits ra [v.fa] v.m k
    tileFits rb [v.fb] v.n k
  [ra, rb].forM tilePower
  needRings [ra, rb]
  let ta ← readTile ra
  let tb ← readTile rb
  check (orCheck (ta.corrupt ra) (tb.corrupt rb))
  let s ← get
  let c := if zero = 1 then v.zeroed else v
  if v.int then
    let a := if tr then columnsOf 0 v.m (rowsOf k v.m ta.ints) else rowsOf v.m k ta.ints
    let b := if tr then columnsOf 0 v.n (rowsOf k v.n tb.ints) else rowsOf v.n k tb.ints
    set (s.setMat acc { c with elems := intSteps e.sat a b v.kb 0 c.elems })
  else do
    let z := FVal.zero false
    let xa := ta.vals v.smode v.ta (s.tableOf banks)
    let xb := tb.vals v.smode v.tb (s.tableOf banks)
    let a := if tr then columnsOf z v.m (rowsOf k v.m xa) else rowsOf v.m k xa
    let b := if tr then columnsOf z v.n (rowsOf k v.n xb) else rowsOf v.n k xb
    setElems acc c e (productSteps e.round a b v.kb 0 (c.elems.map (·.toNat), s.generator .mat))
  addMacs (v.mg * v.ng * k)
  modify fun s => s.popTiles ra rb keepa keepb

def effMma (acc : BitVec 2) (ra rb : BitVec 3) (zero keepb keepa : BitVec 1) (e : Env) : M Unit :=
  mmaOp e false acc ra.toNat rb.toNat zero keepb keepa
/-- MMA (R322). -/
def execMma (acc : BitVec 2) (ra rb : BitVec 3) (zero keepb keepa : BitVec 1) (s : State) : Out :=
  issueMat (.mma acc ra rb zero keepb keepa) 1 none (effMma acc ra rb zero keepb keepa) s

def effMmat (acc : BitVec 2) (ra rb : BitVec 3) (zero keepb keepa : BitVec 1) (e : Env) : M Unit :=
  mmaOp e true acc ra.toNat rb.toNat zero keepb keepa
/-- MMAT (R322). -/
def execMmat (acc : BitVec 2) (ra rb : BitVec 3) (zero keepb keepa : BitVec 1) (s : State) : Out :=
  issueMat (.mmat acc ra rb zero keepb keepa) 1 none (effMmat acc ra rb zero keepb keepa) s

/-! ## The other tile instructions (R323 to R327) -/

def effMzero (acc : BitVec 2) (_ : Env) : M Unit := do
  let v ← shaped acc
  modify fun s => s.setMat acc v.cleared
/-- MZERO (R323). -/
def execMzero (acc : BitVec 2) (s : State) : Out := issueMat (.mzero acc) 1 none (effMzero acc) s

def effMadd (acc : BitVec 2) (ra : BitVec 3) (keepa : BitVec 1) (e : Env) : M Unit := do
  awaitTiles [ra.toNat]
  let v ← shaped acc
  need (!v.int) .illegalOperand
  tileFits ra.toNat [0, 2] v.m v.n
  tilePower ra.toNat
  needRings [ra.toNat]
  let t ← readTile ra.toNat
  let s ← get
  let x := List.zipWith (fun (c : Word) y => (fp32.val c.toNat).add e.round.down y) v.elems (t.vals false 0 fun _ => [])
  setElems acc v e (roundList fp32 e.round x (s.generator .mat))
  modify fun s => s.popTiles ra.toNat ra.toNat keepa keepa
/-- MADD (R324). -/
def execMadd (acc : BitVec 2) (ra : BitVec 3) (keepa : BitVec 1) (s : State) : Out :=
  issueMat (.madd acc ra keepa) 1 none (effMadd acc ra keepa) s

/-- The exact value of an element. -/
def MatAcc.exact (v : MatAcc) (c : Word) : FVal := if v.int then .ofInt c.toInt else fp32.val c.toNat

def effMscl (acc : BitVec 2) (norm : BitVec 1) (k : BitVec 4) (e : Env) : M Unit := do
  let v ← shaped acc
  need (!(norm == 1 && v.int)) .illegalOperand
  let s ← get
  let x := if norm = 1 then
      (rowsOf v.m v.n v.elems).zipIdx.flatMap fun r => r.1.map fun c => (fp32.val c.toNat).div (fp32.val (v.lOf r.2).toNat)
    else v.elems.map fun c => (v.exact c).mul (fp32.val (e.kreg k.toNat).toNat)
  setElems acc { v with int := false } e (roundList fp32 e.round x (s.generator .mat))
/-- MSCL (R325). -/
def execMscl (acc : BitVec 2) (norm : BitVec 1) (k : BitVec 4) (s : State) : Out :=
  issueMat (.mscl acc norm k) 1 (msclFault norm k) (effMscl acc norm k) s

/-- A destination of MAT (R326): a stream with a run, or a queue that MAT produces for. -/
def matDest (d : BitVec 5) (fmt : Nat) : M Unit := do
  let s ← get
  if d.toNat < 16 then do
    let t := s.stream d.toNat
    await (t.st != .idle)
    need (t.desc.out && t.desc.engn == Engine.mat.code && t.desc.fmt == fmt) .illegalOperand
  else needProducer .mat (d.toNat - 16)

/-- The formats of MDRAIN (R326): the stream's code, and the bytes of an element. -/
def drainFmt (ofmt : BitVec 2) : Nat := match ofmt.toNat with | 0 => 0 | 1 => 2 | 2 => 1 | _ => 7
def drainBytes (ofmt : BitVec 2) : Nat := if ofmt = 0 ∨ ofmt = 3 then 4 else 2

def effMdrain (acc : BitVec 2) (clr : BitVec 1) (ofmt : BitVec 2) (d : BitVec 5) (e : Env) : M Unit := do
  let v ← shaped acc
  need (!(ofmt == 3 && !v.int)) .illegalOperand
  matDest d (drainFmt ofmt)
  let out ← if ofmt = 3 then pure (v.elems.map (·.toNat))
    else roundBy .mat (fmtOf (drainFmt ofmt)) e.round (v.elems.map fun c => some (v.exact c))
  emit .mat ((toBlocks (numberBytes (drainBytes ofmt) out)).map fun b => { dest := outDest d, block := b, fmts := [drainFmt ofmt] })
    (if clr = 1 then .zeroAcc acc.toNat else .nothing)
/-- MDRAIN (R326). -/
def execMdrain (acc : BitVec 2) (clr : BitVec 1) (ofmt : BitVec 2) (d : BitVec 5) (s : State) : Out :=
  issueMat (.mdrain acc clr ofmt d) 1 (opnd (qopBad d)) (effMdrain acc clr ofmt d) s

/-- Pop tiles one by one; the hold buffer counts those already popped (R327). -/
def skipTiles (g : Nat) : Nat → M Unit
  | 0 => pure ()
  | n + 1 => do
    needRings [g]
    awaitTiles [g]
    modify fun s =>
      let h := s.hold .mat
      (s.popRing g).setHold .mat { h with blocks := h.blocks ++ [{ bytes := [] }] }
    skipTiles g n

def effRskip (ra : BitVec 3) (n : BitVec 5) (_ : Env) : M Unit := do
  let s ← get
  skipTiles ra.toNat (n.toNat + 1 - (s.hold .mat).blocks.length)
/-- RSKIP (R327). -/
def execRskip (ra : BitVec 3) (n : BitVec 5) (s : State) : Out := issueMat (.rskip ra n) 1 none (effRskip ra n) s

/-! ## Row statistics and status (R335, R336) -/

/-- The block of ROWST: m[r], then l[r]; −∞ and +0 at and beyond M. -/
def MatAcc.rowBlock (v : MatAcc) : Bytes :=
  numberBytes 4 (((List.range 128).map fun r => if r < v.m then (v.mOf r).toNat else negInf.toNat)
    ++ (List.range 128).map fun r => if r < v.m then (v.lOf r).toNat else 0)

/-- Row statistics from a tile of two rows. -/
def MatAcc.loadRows (v : MatAcc) (l : List Nat) : MatAcc :=
  (List.range v.m).foldl (fun v r =>
    { v with rowM := v.rowM.set negInf r (BitVec.ofNat 32 (l.getD r 0))
             rowL := v.rowL.set 0 r (BitVec.ofNat 32 (l.getD (128 + r) 0)) }) v

def effRowst (acc : BitVec 2) (ra : BitVec 3) (keepa load : BitVec 1) (d : BitVec 5) (_ : Env) : M Unit := do
  if load = 1 then awaitTiles [ra.toNat]
  let v ← shaped acc
  if load = 1 then do
    tileFits ra.toNat [0] 2 128
    tilePower ra.toNat
    needRings [ra.toNat]
    let t ← readTile ra.toNat
    modify fun s => (s.setMat acc (v.loadRows (numbersOf 4 256 t.bytes))).popTiles ra.toNat ra.toNat keepa keepa
  else do
    matDest d 0
    emit .mat [{ dest := outDest d, block := { bytes := entry v.rowBlock }, fmts := [0] }]
/-- ROWST (R335). -/
def execRowst (acc : BitVec 2) (ra : BitVec 3) (keepa load : BitVec 1) (d : BitVec 5) (s : State) : Out :=
  issueMat (.rowst acc ra keepa load d) 1 (rowstFault ra keepa load d) (effRowst acc ra keepa load d) s

/-- The word of an accumulator in Table 8. -/
def MatAcc.status (v : MatAcc) : Nat :=
  if !v.valid then 0
  else v.fa * 2 ^ 56 + v.fb * 2 ^ 60 + 2 ^ 52 + 2 ^ 53 * bit v.int + 2 ^ 54 * bit v.smode + 2 ^ 55 * bit v.sbv
    + 2 ^ 32 * (v.mg - 1) + 2 ^ 40 * (v.ng - 1) + (v.m - 1) + 2 ^ 8 * (v.n - 1) + 2 ^ 16 * (v.kb - 1)

/-- The word of a ring in Table 8. -/
def State.ringStatus (s : State) (g : Nat) : Nat :=
  let r := s.ring g
  2 ^ 63 * bit r.defined + 2 ^ 62 * bit (s.pump g).isSome + 2 ^ 16 * r.filled.length + 2 ^ 8 * r.head + r.tail

/-- The block of MSTAT (Table 8 of chapter 10). -/
def State.matStatus (s : State) : Bytes :=
  numberBytes 8 (((List.range 4).map fun n => (s.ctx.mat.acc.get {} n).status) ++ ((List.range 8).map s.ringStatus)
    ++ [s.ctx.mat.macs.toNat, s.ctx.mat.rwait.toNat, s.ctx.mat.hwait.toNat])

def effMstat (clr : BitVec 1) (d : BitVec 5) (_ : Env) : M Unit := do
  matDest d 7
  let s ← get
  let b := s.matStatus
  emit .mat [{ dest := outDest d, block := { bytes := entry b }, fmts := [7] }] (if clr = 1 then .clearMat else .nothing)
/-- MSTAT (R336). -/
def execMstat (clr : BitVec 1) (d : BitVec 5) (s : State) : Out :=
  issueMat (.mstat clr d) 1 (opnd (qopBad d)) (effMstat clr d) s

end Sys2Proof.Machine
end

