-- ==== Sys2Proof/Machine/Attend.lean ====
section
/-! DEFINITION. The attention instructions (R328 to R334, R337, R338): holds, token-page records, scores and masses. -/
namespace Sys2Proof.Machine

/-! ## Holds (R330, R337) -/

/-- The handle that k[kH] and k[kH + 1] hold. -/
def attHandle (e : Env) (kh : BitVec 4) : DWord := e.kreg (kh.toNat + 1) ++ e.kreg kh.toNat

/-- A request of the instruction at an address that needs no hold of its own: the context's table has the object. -/
def Ask.grantAt (a : Ask) (addr : Nat) : Ask := if a.addr = addr then { a with done := true } else a

/-- What a handle raises at issue, and the way to its home (R238, R240, R330, R437). -/
def attHandleCheck (h : DWord) : M Unit := do
  need (!handleBad h) .illegalOperand
  let s ← get
  match s.reach (handleKey h).1 with
  | .broken => raise { cause := .linkError, tinfo := (handleKey h).1 }
  | .held => wait
  | .ok => do
    check (s.objFault h s.ctx.job.code.asid.toNat)
    await (!s.bindPending (handleKey h))

/-- Request the shared hold of an attention instruction, once. Within a hold of the context's own table it is granted
at once (R247, R330). -/
def attRequest (addr : Nat) (h : DWord) : M Unit := do
  let s ← get
  match s.askAt addr with
  | some _ => pure ()
  | none => do
    attHandleCheck h
    modify fun s =>
      let s1 := s.addAsk addr h
      if holdsKey s.ctx.units.holds (handleKey h) then
        s1.modCtx fun c => { c with units.asks := c.units.asks.map (·.grantAt addr) }
      else s1.request (handleKey h) { who := .attention s.ctx.job.uid s.ctx.units.nextAsk, excl := false }

/-- Wait until the hold has begun. -/
def attHold (addr : Nat) (h : DWord) : M Unit := do
  attRequest addr h
  counting (fun q => { q with hwait := satInc q.hwait }) (do
    let s ← get
    match s.askAt addr with
    | none => wait
    | some a => do
      await a.done
      match a.failed with
      | some t => raise t
      | none => pure ())

/-- An attention hold of a job's request goes, or the request where it still waits. -/
def SyncObj.endAttention (o : SyncObj) (uid n : Nat) : SyncObj :=
  { holds := o.holds.filter fun h => h.who != .attention uid n
    waiters := o.waiters.filter fun h => h.who != .attention uid n }

/-- The same of an engine's requests that wait for an entry. -/
def HomeSt.endAttention (h : HomeSt) (uid n : Nat) : HomeSt :=
  { h with full := h.full.filter fun r => r.2.who != .attention uid n }

/-- The hold of the instruction at an address ends, and its request is forgotten (R330, R337). -/
def State.endAttention (s : State) (addr : Nat) : State :=
  match s.askAt addr with
  | none => s
  | some a =>
    let k := handleKey a.arg
    let s1 := (s.setObj k ((s.obj k).endAttention s.ctx.job.uid a.n)).modCtx (·.dropAsk a.n)
    s1.setHome k.2.1 ((s1.home k.2.1).endAttention s.ctx.job.uid a.n)

/-- A trap raised under the hold ends it (R337). -/
def underHold {α : Type} (addr : Nat) (x : M α) : M α := fun s =>
  match x s with
  | .error (.trap t) s' => .error (.trap t) (s'.endAttention addr)
  | r => r

/-! ## Records (R328, R329, R331) -/

/-- Bytes of a record that an instruction checks and reads. -/
def recordBytes : Nat := 0x240

/-- The record base of a slot (R329). -/
def RingSlot.record (r : RingSlot) : Int := r.origin - 0x400

/-- The checks of a record's range (R331). -/
def recordCheck (r : RingSlot) (rights : List Nat) : M Unit := do
  let s ← get
  check (s.capCheck r.cap (r.record - r.cap.cursor.toNat) recordBytes [tyData] (rightsOf rights))
  let o := r.record.toNat
  match (s.placeRange r.cap o recordBytes).findSome? fun p => match p.1 with | .fails c => some c | _ => none with
  | some c => raise { cause := c, toff := o, tinfo := recordBytes, cap := r.cap }
  | none => pure ()

/-- LIVE of a record: a plain read at package scope, not served by L1 (R331). -/
def readLive (r : RingSlot) : M Nat := do
  let s ← get
  let o := r.record.toNat
  await (!s.marked r.cap o recordBytes && !s.follows r.cap o recordBytes)
  match s.readOwn r.cap o 4 with
  | .later => wait
  | .bad t => raise t
  | .dataBad t => raise { t with noskip := false }
  | .bytes b => do
    let live := bytesToNat b
    if live ≤ 64 then pure live else raise { cause := .illegalOperand, toff := o }

/-! ## Scores (R332, R334) -/

/-- A value rounded to FP32. -/
def toFp32 (x : FVal) : FVal := fp32.val (fp32.rne x)

/-- `dotq`: blocks of 32 in order, each added with one rounding. -/
def dotq (kb : Nat) (x y : List FVal) : FVal :=
  (List.range kb).foldl (fun d q =>
    toFp32 (d.add false (exactDot false ((x.drop (32 * q)).take 32) ((y.drop (32 * q)).take 32)))) (.zero false)

/-- `ex`; where the model decides no rounding, the free value of a number. -/
def exOf (fresh : Nat) (a b : FVal) : FVal :=
  if a = .inf true then .zero false
  else match fexp (a.sub false b) with
    | some y => toFp32 y
    | none => fp32.val ((Config.freeValue fresh).toNat % 2 ^ 32)

/-- The score of a query row and a key row. -/
def scoreOf (kb : Nat) (sigma : FVal) (q k : List FVal) : FVal := toFp32 (sigma.mul (dotq kb q k))

/-- One row of ATTS: the new maximum and sum, α, and p. -/
structure RowScore where
  m : FVal
  l : FVal
  alpha : FVal
  p : List FVal
  deriving DecidableEq, Repr

/-- Scores of the 64 tokens; −∞ at and beyond LIVE. -/
def rowScores (kb live : Nat) (sigma : FVal) (q : List FVal) (keys : List (List FVal)) : List FVal :=
  (List.range 64).map fun t => if t < live then scoreOf kb sigma q (keys.getD t []) else .inf true

/-- The larger value, by FMAX (R289). -/
def maxFp32 (x y : FVal) : FVal := fp32.val (fminBits fp32 true (fp32.rne x) (fp32.rne y))

/-- One row of ATTS (R332). -/
def rowStep (fresh : Nat) (m l : FVal) (s : List FVal) : RowScore :=
  let mn := s.foldl maxFp32 m
  let alpha := if mn = .inf true then .one else exOf fresh m mn
  let p := (List.range 64).zipWith (fun t x => exOf (fresh + 1 + t) x mn) s
  { m := mn, l := toFp32 ((toFp32 (l.mul alpha)).add false (osum p)), alpha := alpha, p := p }

/-- The word of an FP32 value. -/
def wordOf (x : FVal) : Word := BitVec.ofNat 32 (fp32.rne x)
/-- The value of an FP32 word. -/
def valOf (w : Word) : FVal := fp32.val w.toNat

/-- Free values that a row of ATTS may take. -/
def rowFresh : Nat := 65

/-- ATTS over the rows of an accumulator (R332). -/
def MatAcc.scored (v : MatAcc) (fresh live : Nat) (nov : Bool) (sigma : FVal) (qs keys : List (List FVal)) : MatAcc :=
  let rows := (List.range v.m).map fun r =>
    rowStep (fresh + rowFresh * r) (valOf (v.mOf r)) (valOf (v.lOf r)) (rowScores v.kb live sigma (qs.getD r []) keys)
  let v1 := rows.zipIdx.foldl (fun v x =>
    { v with rowM := v.rowM.set negInf x.2 (wordOf x.1.m), rowL := v.rowL.set 0 x.2 (wordOf x.1.l) }) v
  if nov then
    { v1 with elems := ((rowsOf v.m v.n v.elems).zip rows).flatMap fun x =>
        x.1.map fun c => wordOf ((valOf c).mul x.2.alpha) }
  else
    { v1 with sb := rows.zipIdx.map fun x => (x.2, x.1.p.map wordOf)
              alpha := rows.zipIdx.foldl (fun t x => t.set 0 x.2 (wordOf x.1.alpha)) []
              sblive := live, sbv := true }

/-- The weights of ATTM for one token, and their sum (R334). -/
def MatAcc.massOf (v : MatAcc) (fresh : Nat) (sigma : FVal) (qs : List (List FVal)) (key : List FVal) : BitVec 32 :=
  wordOf (osum ((List.range v.m).map fun r =>
    let m := valOf (v.mOf r)
    let l := valOf (v.lOf r)
    if m = .inf true ∨ l.isZero then .zero false
    else toFp32 ((exOf (fresh + r) (scoreOf v.kb sigma (qs.getD r []) key) m).div l)))

/-- ATTV (R333): O scaled by ALPHA, then two half pages of the score buffer added, each with one rounding. -/
def MatAcc.attended (v : MatAcc) (rows : List (List FVal)) : MatAcc :=
  let half := fun (p : List FVal) (lo hi c : Nat) =>
    exactSum false ((List.range' lo (min hi v.sblive - lo)).map fun t => (p.getD t (.zero false)).mul ((rows.getD t []).getD c (.zero false)))
  let elems := (rowsOf v.m v.n v.elems).zipIdx.flatMap fun x =>
    let p := (v.sb.get [] x.2).map valOf
    let alpha := valOf (v.alpha.get 0 x.2)
    x.1.zipIdx.map fun c =>
      let y := toFp32 ((valOf c.1).mul alpha)
      let y := toFp32 (y.add false (half p 0 32 c.2))
      wordOf (y.add false (half p 32 64 c.2))
  { v with elems := elems, sbv := false }

/-! ## The instructions -/

/-- A shape that attention takes (R329). -/
def MatAcc.attends (v : MatAcc) : Bool :=
  v.n == 32 * v.kb && decide (1 ≤ v.fa) && decide (v.fa ≤ 4) && decide (1 ≤ v.fb) && decide (v.fb ≤ 4)

/-- The checks of the record that ring b's head tile names, where the ring has one (R329, R331). -/
def slotCheck (addr rb : Nat) (rights : List Nat) : M Unit := do
  let s ← get
  match (s.ring rb).filled.head? with
  | some r => underHold addr (recordCheck r rights)
  | none => pure ()

/-- The tiles of ATTS and ATTM and the record that they name, checked in the order of R72; `rights` is empty where the
record has been checked before. -/
def attTiles (addr : Nat) (v : MatAcc) (ra rb : Nat) (rights : List Nat) : M (Tile × Tile × RingSlot) := do
  tileFits ra [v.fa] v.m v.n
  tileFits rb [v.fb] 64 v.n
  let s ← get
  need (!((s.ring rb).filled.head?.any (·.sp))) .illegalOperand
  if rights ≠ [] then slotCheck addr rb rights
  [ra, rb].forM tilePower
  needRings [ra, rb]
  let ta ← readTile ra
  let tb ← readTile rb
  match tb.slot with
  | some r => pure (ta, tb, r)
  | none => wait

/-- Rows of values of a tile. -/
def Tile.rowVals (t : Tile) (rows k : Nat) : List (List FVal) := rowsOf rows k (t.vals false 0 fun _ => [])

def effAtts (acc : BitVec 2) (ra rb : BitVec 3) (nov keepb keepa : BitVec 1) (ks kh : BitVec 4) (e : Env) : M Unit := do
  awaitTiles [ra.toNat, rb.toNat]
  let v ← shaped acc
  need (v.attends && !(v.sbv && nov == 0)) .illegalOperand
  let h := attHandle e kh
  need (!handleBad h) .illegalOperand
  let t ← attTiles e.addr v ra.toNat rb.toNat [rR]
  attHold e.addr h
  let live ← underHold e.addr (readLive t.2.2)
  let s ← get
  let v1 := v.scored s.fresh live (nov == 1) (valOf (e.kreg ks.toNat)) (t.1.rowVals v.m v.n) (t.2.1.rowVals 64 v.n)
  set ((({ s with fresh := s.fresh + rowFresh * v.m }.setMat acc v1).popTiles ra.toNat rb.toNat keepa keepb).endAttention e.addr)
  addMacs (v.mg * 64 * v.n)
/-- ATTS (R332). -/
def execAtts (acc : BitVec 2) (ra rb : BitVec 3) (nov keepb keepa : BitVec 1) (ks kh : BitVec 4) (s : State) : Out :=
  issueMat (.atts acc ra rb nov keepb keepa ks kh) 2 (attFault kh) (effAtts acc ra rb nov keepb keepa ks kh) s

def effAttv (acc : BitVec 2) (rb : BitVec 3) (keepb : BitVec 1) (kh : BitVec 4) (e : Env) : M Unit := do
  awaitTiles [rb.toNat]
  let v ← shaped acc
  need (v.attends && v.sbv) .illegalOperand
  let h := attHandle e kh
  need (!handleBad h) .illegalOperand
  tileFits rb.toNat [v.fb] 64 v.n
  tilePower rb.toNat
  needRings [rb.toNat]
  let t ← readRows rb.toNat v.sblive
  attHold e.addr h
  modify fun s => (((s.setMat acc (v.attended (t.rowVals 64 v.n))).popTiles rb.toNat rb.toNat keepb keepb).endAttention e.addr)
  addMacs (v.mg * 64 * v.n)
/-- ATTV (R333). -/
def execAttv (acc : BitVec 2) (rb : BitVec 3) (keepb : BitVec 1) (kh : BitVec 4) (s : State) : Out :=
  issueMat (.attv acc rb keepb kh) 2 (attFault kh) (effAttv acc rb keepb kh) s

/-- An addition of the focus context at its home, now; it follows the earlier accesses to its location. -/
def State.addMass (s : State) (cap : Cap) (p : Nat × BitVec 32) : Did (State × Nat) :=
  if s.follows cap p.1 4 then .later else s.applyAtom s.cur.core [] cap p.1 4 atomF (p.2.setWidth 64) 0

/-- Make the additions that can be made now: what is left, and the failure at the lowest offset. -/
def State.addMasses (s : State) (cap : Cap) : List (Nat × BitVec 32) → State × List (Nat × BitVec 32) × Option TrapInfo
  | [] => (s, [], none)
  | p :: r =>
    match s.addMass cap p with
    | .ok x => x.1.addMasses cap r
    | .fails t =>
      let y := s.addMasses cap r
      (y.1, y.2.1, lowestFail (some { t with toff := p.1 }) y.2.2)
    | .later =>
      let y := s.addMasses cap r
      (y.1, p :: y.2.1, y.2.2)

/-- The request waits for a command. -/
def Ask.await (a : Ask) (addr n : Nat) : Ask := if a.addr = addr then { a with cmd := some n } else a

/-- Start the additions of ATTM. Where the schedule lets answers come later, or a page moves, the rest are a command
of the home engines; the instruction waits for it. Answers the failure once all are made. -/
def startMasses (addr : Nat) (cap : Cap) (l : List (Nat × BitVec 32)) : M (Option TrapInfo) := do
  let s ← get
  let r := if s.late then (s, l, none) else s.addMasses cap l
  if r.2.1 = [] then do
    set r.1
    pure r.2.2
  else do
    let n := r.1.units.nextCmd
    set ((r.1.addCmd { r.1.freeCmd (.mass cap r.2.1) with failed := r.2.2, sent := r.2.1.flatMap fun p => r.1.sendTrans cap p.1 4 }).modCtx
      fun c => { c with acc.nextLoad := c.acc.nextLoad + 1, units.asks := c.units.asks.map (·.await addr n) })
    wait

/-- The additions of ATTM, started once (R334). -/
def finishMasses (n : Nat) : M (Option TrapInfo) := do
  let s ← get
  match s.cmd n with
  | none => pure none
  | some c => do
    await c.done
    set (s.dropCmd n)
    pure c.failed

/-- MASS[t] of a record (Table 6 of chapter 10). -/
def RingSlot.massAt (r : RingSlot) (t : Nat) : Nat := r.record.toNat + 0x40 + 4 * t

/-- The additions of ATTM under its hold. -/
def attMasses (v : MatAcc) (e : Env) (ks : BitVec 4) (t : Tile × Tile × RingSlot) : M (Option TrapInfo) := do
  let s ← get
  match (s.askAt e.addr).bind (·.cmd) with
  | some n => finishMasses n
  | none => do
    let live ← readLive t.2.2
    let s ← get
    let keys := t.2.1.rowVals 64 v.n
    let l := (List.range live).map fun i =>
      (t.2.2.massAt i, v.massOf (s.fresh + 128 * i) (valOf (e.kreg ks.toNat)) (t.1.rowVals v.m v.n) (keys.getD i []))
    set { s with fresh := s.fresh + 128 * live }
    startMasses e.addr t.2.2.cap l

def effAttm (acc : BitVec 2) (ra rb : BitVec 3) (keepb keepa : BitVec 1) (ks kh : BitVec 4) (e : Env) : M Unit := do
  awaitTiles [ra.toNat, rb.toNat]
  notInTask
  let v ← shaped acc
  need v.attends .illegalOperand
  let h := attHandle e kh
  need (!handleBad h) .illegalOperand
  let s ← get
  let t ← attTiles e.addr v ra.toNat rb.toNat (if ((s.askAt e.addr).bind (·.cmd)).isNone then [rR, rAT] else [])
  attHold e.addr h
  let failed ← underHold e.addr (attMasses v e ks t)
  modify fun s => (s.popTiles ra.toNat rb.toNat keepa keepb).endAttention e.addr
  addMacs (v.mg * 64 * v.n)
  match failed with
  | some t => raise { t with noskip := true, taddr := some e.addr }
  | none => pure ()
/-- ATTM (R334). -/
def execAttm (acc : BitVec 2) (ra rb : BitVec 3) (keepb keepa : BitVec 1) (ks kh : BitVec 4) (s : State) : Out :=
  issueMat (.attm acc ra rb keepb keepa ks kh) 2 (attFault kh) (effAttm acc ra rb keepb keepa ks kh) s

end Sys2Proof.Machine
end

