-- ==== Sys2Proof/Machine/Csr.lean ====
section
/-! DEFINITION. The system registers of the context range (R51, R52, R76, R124, R142, R473): what they read, who may
access them, and what a write does. -/
namespace Sys2Proof.Machine

/-- CSTAT (Table 3 of chapter 4). -/
def State.cstat (s : State) : DWord :=
  BitVec.ofNat 64 (bit s.ctx.seq.sup + 2 * bit s.ctx.seq.psup + 4 * bit s.ctx.seq.intrap
    + 512 * bit s.ctx.job.task + 1024 * s.cur.bank + 4096 * s.ctx.seq.wsat.toNat)

/-- The engines whose markers of a PHASE have been placed and have not retired (Table 7 of chapter 1). -/
def State.phasePending (s : State) : BitVec 6 := s.ctx.seq.phases.foldl (fun m p => m ||| p.pending) 0
/-- An engine is held behind a retired phase marker. -/
def State.phaseHeld (s : State) : Bool := s.ctx.seq.phases.any fun p => (p.mask &&& ~~~p.pending) != 0

/-- PHST (Table 7 of chapter 1). -/
def State.phst (s : State) : DWord :=
  BitVec.ofNat 64 (2 ^ 32 * s.ctx.seq.phnum.toNat + 4 * s.phasePending.toNat + 2 * bit s.ctx.seq.flag
    + bit s.phaseHeld)

/-- LSTAT (Table 5 of chapter 4). -/
def State.lstat (s : State) : DWord :=
  BitVec.ofNat 64 (s.ldepth
    + 16 * ((List.range 4).foldl (fun n i => n + 2 ^ i * bit (s.ctx.seq.loops.any fun l => l.ctr == i)) 0)
    + 256 * ((List.range 4).foldl (fun n i =>
        n + 2 ^ i * bit (s.ctx.seq.loops.any fun l => l.ctr == i && l.kind == .queued)) 0))

/-- What a register of the context range reads. -/
def State.readCtxReg (s : State) (n : Nat) : DWord :=
  let q := s.ctx.seq
  match n with
  | 0x000 => s.cstat
  | 0x001 => q.tvec
  | 0x002 => q.tscr
  | 0x003 => BitVec.ofNat 64 q.entry
  | 0x010 => q.dmemb
  | 0x011 => s.phst
  | 0x012 => q.freezeCyc
  | 0x013 => q.rngseed.setWidth 64
  | 0x014 => s.lstat
  | 0x018 | 0x019 | 0x01A | 0x01B => (s.lc (n - 0x018)).setWidth 64
  | 0x020 => q.trap.tcause
  | 0x021 => q.trap.tgts
  | 0x022 => q.trap.taddr
  | 0x023 => q.trap.toff
  | 0x024 => q.trap.tinfo
  | 0x028 | 0x029 | 0x02A | 0x02B => q.trap.tcap.words.getD (n - 0x028) 0
  | 0x030 | 0x031 | 0x032 | 0x033 | 0x034 | 0x035 => q.trap.epc.get 0 (n - 0x030)
  | _ => 0

/-- The registers of the context range that a task may read (Table 2 of chapter 4). -/
def taskReads (n : Nat) : Bool :=
  n == 0x000 || n == 0x001 || n == 0x003 || (0x010 ≤ n && n ≤ 0x014) || (0x018 ≤ n && n ≤ 0x01B)

/-- Limits of DMEMB (R47): the members of a group at each level. -/
def levelLimit : Nat → Nat
  | 0 => 1
  | 1 => 8
  | 2 => 72
  | 3 => 288
  | _ => 184320

/-- The fields of DMEMB (Table 6 of chapter 1). -/
def dmembRank (v : DWord) : Nat := (v.extractLsb' 46 18).toNat
def dmembSize (v : DWord) : Nat := (v.extractLsb' 28 18).toNat
def dmembGroup (v : DWord) : Nat := (v.extractLsb' 8 20).toNat
def dmembLevel (v : DWord) : Nat := (v.extractLsb' 0 3).toNat

/-- A value of DMEMB that R47 allows. -/
def dmembOk (v : DWord) : Bool :=
  decide (dmembLevel v < 5) && decide (dmembRank v < dmembSize v) && decide (dmembSize v ≤ levelLimit (dmembLevel v))

/-- The generator seed of an engine (R76). -/
def seedOf (seed : Word) (e : Engine) : Word :=
  let v := seed ^^^ BitVec.ofNat 32 (e.code * 0x9E3779B9)
  if v = 0 then 1 else v

/-- Seed an engine's generator in its program order (R76). -/
def State.seedEngine (s : State) (seed : Word) (e : Engine) : State :=
  if s.queue e = [] then { s with ctx.gen := s.ctx.gen.set 0 e.code (seedOf seed e) }
  else s.enqueue e (.seed (seedOf seed e) s.ctx.seq.fetch)

/-- What CSRW leaves in a register (R148): write, set, or clear. -/
def csrValue (f : Nat) (old x : DWord) : DWord :=
  match f with
  | 0 => x
  | 1 => old ||| x
  | _ => old &&& ~~~x

/-- Write a register of the context range at a level that may: the fields marked RW take the value, a value that the
register forbids raises ILLEGAL_OPERAND (R148). -/
def writeCtxReg (n : Nat) (v : DWord) : M Unit := do
  let s ← get
  match n with
  | 0x001 => modSeq fun q => { q with tvec := v &&& 0x0000FFFFFFFFFFFD }
  | 0x002 => modSeq fun q => { q with tscr := v }
  | 0x010 => do
    need (dmembOk v && s.phasePending == 0 && !s.ctx.seq.flag && !s.phaseHeld) .illegalOperand
    modify State.depart
    modSeq fun q => { q with dmemb := v &&& ~~~0xF8 }
    modify State.rejoin
  | 0x012 => modSeq fun q => { q with freezeCyc := v }
  | 0x013 => do
    await (engines.all fun e => s.room e 1)
    modSeq fun q => { q with rngseed := v.setWidth 32 }
    modify fun s => engines.foldl (fun s e => s.seedEngine (v.setWidth 32) e) s
  | 0x018 | 0x019 | 0x01A | 0x01B => modify fun s => s.setLc (n - 0x018) (v.setWidth 27)
  | 0x030 => modSeq fun q => { q with trap.epc := q.trap.epc.set 0 0 (v &&& 0x0000FFFFFFFFFFFC) }
  | _ => pure ()

/-- Whether a task may read, and may write, a register (R52, R124, R392, R454, R456). -/
def taskMayRead (n : Nat) : Bool :=
  taskReads n || (0x118 ≤ n && n ≤ 0x127) || n == 0x308
def taskMayWrite (n : Nat) : Bool := n == 0x013

end Sys2Proof.Machine
end

