-- ==== Sys2Proof/Machine/Link.lean ====
section
/-! DEFINITION. The link engine's instructions and steps (R419 to R438). -/
namespace Sys2Proof.Machine

/-! ## Clocks -/

/-- Megahertz of an island's level (Table 5 of chapter 17). -/
def levelMHz : Nat → Nat
  | 1 => 700
  | 2 => 550
  | 3 => 400
  | _ => 850

/-- Core cycles of a core in a number of nanoseconds, at the present level of its front-end island (R465). -/
def State.coreCycles (s : State) (core ns : Nat) : Nat := ns * levelMHz (s.power.level.get 4 (3 * core)) / 1000

/-- Cycles without an answer after which a request fails (R437), and after which a fabric phase does (R438). -/
def linkTimeout : Nat := 2 ^ 24

def State.port (s : State) (p : Nat) : PortSt := s.units.link.ports.get {} p
def State.setPort (s : State) (p : Nat) (v : PortSt) : State :=
  { s with units.link.ports := s.units.link.ports.set {} p v }

/-! ## Slots (R422, R423) -/

/-- Every registered slot of the package: those of live contexts, and those of jobs that are over whose link commands
have not all completed (R423). -/
def State.registered (s : State) : List Registered :=
  s.contexts.flatMap (·.linkSlots) ++ s.units.link.left.filter fun r => s.linking r.uid

/-- The binding that a descriptor and a peer give (Tables 2 and 3 of chapter 15). -/
def LinkSlot.ofWords (v w : DWord) (asid : Nat) : LinkSlot :=
  { recv := v.getLsbD 63, port := (v.extractLsb' 0 4).toNat, period := (v.extractLsb' 32 16).toNat,
    phase := (v.extractLsb' 16 16).toNat, pkg := (w.extractLsb' 42 10).toNat, tag := (w.extractLsb' 0 16).toNat, asid := asid }

/-- A reserved field, a PERIOD or a PHASE that R423 refuses. -/
def slotBad (v w : DWord) : Bool :=
  let l := LinkSlot.ofWords v w 0
  v.extractLsb' 48 15 != 0 || v.extractLsb' 4 12 != 0 || w.extractLsb' 52 12 != 0 || w.extractLsb' 16 26 != 0
    || (if l.recv then l.period != 0 || l.phase != 0
        else l.period == 0 || l.period % 8 != 0 || decide (l.period ≤ l.phase) || l.phase % 8 == 7)

/-- Two send slots share a tick of a port, or two slots name one stream (R423). -/
def LinkSlot.clashes (l m : LinkSlot) : Bool :=
  (!l.recv && !m.recv && l.port == m.port
    && ((l.phase : Int) - m.phase) % (Nat.gcd l.period m.period : Nat) == 0)
  || (l.recv == m.recv && l.pkg == m.pkg && l.tag == m.tag)

/-- A slot has link commands in flight. -/
def State.slotBusy (s : State) (uid slot : Nat) : Bool :=
  s.units.cmds.any fun c => c.uid == uid && match c.body.link with
    | some l => l.1 == slot
    | none => false

/-- Set a slot of the focus context; what its landing buffer held goes with its registration. -/
def State.setSlot (s : State) (d : Nat) (l : Option LinkSlot) : State :=
  { (s.modCtx fun c => { c with units.slots := c.units.slots.set none d l }) with
    units.link.land := s.units.link.land.filter fun b => !(b.uid == s.ctx.job.uid && b.slot == d) }

def effLslot (d a b : BitVec 5) (off : BitVec 1) (_ : Env) : M Unit := do
  notInTask
  let v ← rdX a
  let w ← rdX b
  let s ← get
  await (!s.slotBusy s.ctx.job.uid d.toNat)
  if off = 1 then set (s.setSlot d.toNat none)
  else do
    let l := LinkSlot.ofWords v w s.ctx.job.code.asid.toNat
    let p := s.port l.port
    need (!slotBad v w && p.up && p.pkg == l.pkg && decide (l.pkg < maxPackage)) .illegalOperand
    need (!s.registered.any fun r => !(r.uid == s.ctx.job.uid && r.slot == d.toNat) && l.clashes r.ls) .illegalOperand
    set (s.setSlot d.toNat (some l))
/-- LSLOT (R422, R423). -/
def execLslot (d a b : BitVec 5) (off : BitVec 1) (s : State) : Out :=
  issueAcc (.lslot d a b off) 1 (firstCause [(off == 1 && (a != 0 || b != 0), .illegal), (bad16 d, .illegalOperand)])
    (effLslot d a b off) s

/-! ## Commands (R425, R430) -/

/-- The slot that a link command names, on and of its direction (R425). -/
def linkSlot (d : BitVec 5) (recv : Bool) : M LinkSlot := do
  let s ← get
  match s.ctx.units.slots.get none d.toNat with
  | some l => if l.recv = recv then pure l else fault .illegalOperand
  | none => fault .illegalOperand

/-- LINK_ERROR of a command on a slot (R436). -/
def linkError (slot port moved : Nat) : TrapInfo := { cause := .linkError, toff := moved, tinfo := port + 256 * slot }

/-- Mark a command that its issue completes. -/
def Cmd.atOnce (c : Cmd) (n : Nat) (f : Option TrapInfo) : Cmd := if c.n = n then { c with done := true, failed := f } else c

/-- Issue a link command (R425): on a slot whose port is down it fails at once (R436); one of no bytes completes. -/
def issueLink (slot : Nat) (l : LinkSlot) (empty sync : Bool) (body : CmdBody) : M Unit := do
  let s ← get
  let s1 := s.issueCmd 2 true false false (if sync then s.ctx.units.swarm else none) body
  let s2 := if sync then s1.modCtx fun c => { c with units.swarm := none } else s1
  let f := if (s.port l.port).up then none else some (linkError slot l.port 0)
  set (if empty || f.isSome then { s2 with units.cmds := s2.units.cmds.map (·.atOnce s.units.nextCmd f) } else s2)

def effLsend (d a b : BitVec 5) (ssp : BitVec 1) (_ : Env) : M Unit := do
  notInTask
  let src ← getSide ssp a
  let len ← rdX b
  let s ← get
  let l ← linkSlot d false
  need (!((src.sp && s.ownRefBad src.ref) || decide (maxLen < len.toNat) || s.armsBad false false)) .illegalOperand
  check (src.check s 0 len.toNat rCS)
  issueLink d.toNat l (len == 0) false (.lsend d.toNat l (src.side s) len.toNat 0)
/-- LSEND (R425). -/
def execLsend (d a b : BitVec 5) (ssp : BitVec 1) (s : State) : Out :=
  issueAcc (.lsend d a b ssp) 1 (linkFault d a ssp) (effLsend d a b ssp) s

def effLrecv (d a b : BitVec 5) (dsp : BitVec 1) (_ : Env) : M Unit := do
  notInTask
  let dst ← getSide dsp a
  let len ← rdX b
  let s ← get
  let l ← linkSlot d true
  need (!((dst.sp && s.ownRefBad dst.ref) || decide (maxLen < len.toNat) || s.armsBad false dst.sp)) .illegalOperand
  check (dst.check s 0 len.toNat rCD)
  issueLink d.toNat l (len == 0) dst.sp (.lrecv d.toNat l (dst.side s) len.toNat 0 [])
/-- LRECV (R425). -/
def execLrecv (d a b : BitVec 5) (dsp : BitVec 1) (s : State) : Out :=
  issueAcc (.lrecv d a b dsp) 1 (linkFault d a dsp) (effLrecv d a b dsp) s

/-- The formats of LRADD (R430), and their bytes. -/
def linkFormats : List Nat := [0, 1, 2, 3, 4, 7]
def elemBytes (f : Nat) : Nat := fmtBits f / 8

def effLradd (d a b : BitVec 5) (_ : Env) : M Unit := do
  notInTask
  let r ← rdX a
  let p ← rdX b
  let s ← get
  let l ← linkSlot d true
  let n := (p.extractLsb' 0 32).toNat
  let fi := (p.extractLsb' 32 4).toNat
  let fo := (p.extractLsb' 36 4).toNat
  need (!(s.ownRefBad r || n == 0 || p.extractLsb' 40 24 != 0 || !linkFormats.contains fi || !linkFormats.contains fo
    || ((fi == 7) != (fo == 7)) || s.armsBad false true)) .illegalOperand
  check (padRange (refOff r) (n * elemBytes fo))
  issueLink d.toNat l false true (.lradd d.toNat l (refOff r) n fi fo 0 [] none)
/-- LRADD (R430). -/
def execLradd (d a b : BitVec 5) (s : State) : Out := issueAcc (.lradd d a b) 1 (opnd (bad16 d)) (effLradd d a b) s

/-! ## Scheduled transfers (R420, R424 to R429) -/

/-- Bytes of an occurrence, and of a landing buffer (R420, R428). -/
def occurrence : Nat := 57344

/-- A slot's bytes go on to its port. -/
def State.carry (s : State) (l : LinkSlot) (b : Bytes) : State :=
  { s with units.link.flows := s.units.link.flows ++ [{ port := l.port, pkg := l.pkg, tag := l.tag, bytes := b }] }

/-- Take up to `room` bytes of a send slot's stream from its LSENDs in issue order (fuel: the commands). A source that
waits stops the stream; one that fails ends its command. -/
def State.sendFrom : Nat → State → Nat → Nat → Nat → State
  | 0, s, _, _, _ => s
  | f + 1, s, uid, slot, room =>
    let mine := fun (c : Cmd) => c.uid == uid && !c.done && match c.body with
      | .lsend n .. => n == slot
      | _ => false
    match s.units.cmds.find? mine with
    | none => s
    | some c => match c.body with
      | .lsend n l src len pos =>
        let k := min room (len - pos)
        match s.readSide c.who src pos k with
        | .later => s
        | .fails t => State.sendFrom f (s.putCmd { c with done := true, failed := some t }) uid slot room
        | .ok b =>
          let s1 := ((s.touchSide src pos k 0).carry l b).putCmd
            { c with body := .lsend n l src len (pos + k), done := decide (len ≤ pos + k) }
          if room = k then s1 else State.sendFrom f s1 uid slot (room - k)
      | _ => s

/-- The landing buffer of a receive slot. -/
def State.landing (s : State) (uid slot : Nat) : Bytes :=
  match s.units.link.land.find? fun b => b.uid == uid && b.slot == slot with
  | some b => b.bytes
  | none => []
def State.setLanding (s : State) (uid slot : Nat) (b : Bytes) : State :=
  { s with units.link.land := (s.units.link.land.filter fun x => !(x.uid == uid && x.slot == slot))
      ++ if b = [] then [] else [{ uid := uid, slot := slot, bytes := b }] }

/-- The send slots that occur at a tick, on ports that are up and whose receivers report an empty buffer. -/
def State.occurring (s : State) (t : Nat) (credit : DWord) : List Registered :=
  s.registered.filter fun r => !r.ls.recv && (s.port r.ls.port).up && credit.getLsbD r.ls.port
    && t % r.ls.period == r.ls.phase

/-- A tick's sends (R427, R428). -/
def State.serveTick (s : State) (t : Nat) (credit : DWord) : State :=
  (s.occurring t credit).foldl (fun s r => s.sendFrom (s.units.cmds.length + 1) r.uid r.slot occurrence)
    { s with units.link.nextTick := t + 1, units.link.flows := [] }

/-- The schedule clock (R420). -/
def State.sclk (s : State) : Nat := s.gts / 256

/-- SCHEDULE_TICK (R420, R421, R428): the tick that the schedule clock names; a tick that the schedule passes over carries
nothing (log 52). Operand: the tick; by port in `val`, whether the neighbour reports the receiver's buffer empty. With
`flag`, the step is the arrival of an occurrence at this package instead: the job and the slot in n1 and n2, and its
bytes. -/
def execScheduleTick (s : State) : Out :=
  let t := s.operand.n0
  if s.operand.flag then
    match s.registered.find? fun r => r.uid == s.operand.n1 && r.slot == s.operand.n2 && r.ls.recv with
    | none => notDue "SCHEDULE_TICK"
    | some r =>
      let b := s.operand.bytes
      whenDue "SCHEDULE_TICK" (decide (t ≤ s.sclk) && decide (s.units.link.arrived.get 0 r.ls.port ≤ t) && t % 8 != 7
          && (s.port r.ls.port).up && (s.landing r.uid r.slot).isEmpty && !b.isEmpty && decide (b.length ≤ occurrence))
        { s.setLanding r.uid r.slot b with units.link.arrived := s.units.link.arrived.set 0 r.ls.port (t + 1) }
  else
    whenDue "SCHEDULE_TICK" (t == s.sclk && decide (s.units.link.nextTick ≤ t))
      (s.serveTick t s.operand.val)

/-! ### Draining (R428 to R431) -/

/-- Element arithmetic of LRADD (R430): the new bytes of a buffer element. -/
def linkSum (fi fo : Nat) (x y : Bytes) : Bytes :=
  if fi = 7 then natToBytes 4 ((bytesToNat x + bytesToNat y) % 2 ^ 32)
  else
    let v := fp32.rne (((fmtOf fi).val (bytesToNat x)).add false ((fmtOf fo).val (bytesToNat y)))
    natToBytes (elemBytes fo) ((fmtOf fo).rne (fp32.val v))

/-- The oldest command posted on a receive slot. -/
def State.posted (s : State) (uid slot : Nat) : Option Cmd :=
  s.units.cmds.find? fun c => c.uid == uid && !c.done && match c.body with
    | .lrecv n .. | .lradd n .. => n == slot
    | _ => false

/-- How many of `n` bytes that stand ready an LRECV writes at a place of its destination, of which `left` are still to be
written: whole 8-byte pieces of one sector, or what ends it (R88). -/
def wholePieces (at' n left : Nat) : Nat :=
  let sector := min (32 - at' % 32) left
  let first := min (8 - at' % 8) left
  if sector ≤ n then sector else if n < first then 0 else first + (n - first) / 8 * 8

/-- What a drain does with a command of the slot; none where it must wait. -/
def State.drainLanding (s : State) (c : Cmd) (slot : Nat) : Option State :=
  let buf := s.landing c.uid slot
  match c.body with
  | .lrecv n l dst len pos part =>
    let got := part ++ buf
    let k := wholePieces (dst.base + pos) got.length (len - pos)
    if k = 0 then
      if buf = [] then none
      else some ((s.setLanding c.uid slot []).putCmd { c with body := .lrecv n l dst len pos got })
    else match s.writeSide c.who dst pos (got.take k) with
      | .later => none
      | .fails t => some (s.putCmd { c with done := true, failed := some { t with toff := pos } })
      | .ok s1 =>
        let taken := k - part.length
        let s2 := (s1.setLanding c.uid slot (buf.drop taken)).countAll dst c.sync 1 k
        some (s2.putCmd { c with body := .lrecv n l dst len (pos + k) (part.drop k), done := decide (len ≤ pos + k) })
  | .lradd n l base cnt fi fo pos part sum =>
    let size := elemBytes fo
    match sum with
    | some b => match s.writePadOf c.uid (base + size * pos) b with
      | .later => none
      | .fails t => some (s.putCmd { c with done := true, failed := some t })
      | .ok s1 => some ((s1.countAll (.pad c.uid base) c.sync 1 size).putCmd
          { c with body := .lradd n l base cnt fi fo (pos + 1) [] none, done := decide (cnt ≤ pos + 1) })
    | none =>
      let k := min (elemBytes fi - part.length) buf.length
      let got := part ++ buf.take k
      if got.length < elemBytes fi then
        if k = 0 then none
        else some ((s.setLanding c.uid slot (buf.drop k)).putCmd { c with body := .lradd n l base cnt fi fo pos got none })
      else match s.readSide c.who (.pad c.uid base) (size * pos : Nat) size with
        | .later => none
        | .fails t => some (s.putCmd { c with done := true, failed := some t })
        | .ok y => some ((s.setLanding c.uid slot (buf.drop k)).putCmd
            { c with body := .lradd n l base cnt fi fo pos [] (some (linkSum fi fo got y)) })
  | _ => none

/-- LINK_LANDING_DRAIN (R428 to R431). Operand: job, slot. An LRADD's element is read in one step and written in
another. -/
def execLinkLandingDrain (s : State) : Out :=
  match s.posted s.operand.n0 s.operand.n1 with
  | some c => match s.drainLanding c s.operand.n1 with
    | some s1 => .next s1
    | none => notDue "LINK_LANDING_DRAIN"
  | none => notDue "LINK_LANDING_DRAIN"

/-! ## Unscheduled requests (R433, R437) -/

/-- A request of another package reaches this one: a plain write, a plain read, or an atomic at its home. `op` is 0 for
a plain access, else the operation of Table 3 of chapter 7 plus one. One that fails here changes nothing; `none` where it
must wait. -/
def State.remoteRequest (s : State) (a op n : Nat) (v cmp : DWord) (b : Bytes) : Option State :=
  if !decodes a ∨ s.quarterGated a then some s
  else if s.memHeld a then none
  else if op = 0 then some (s.agentWrite a b)
  else if (s.badIn (a / 128 * 128) 128).isSome then some s
  else (s.takeLine a).map fun s1 =>
    s1.homeWrite a (natToBytes n (atomNew (op - 1) n (bytesToNat (s.mem.read a n)) (v.toNat % 2 ^ (8 * n)) (cmp.toNat % 2 ^ (8 * n))))

/-- A sync-object operation of another package at its home here (R229): 0 and 1 request an exclusive and a shared hold, 2
and 3 try one, 4 ends a hold, 5 binds a region, and 6 withdraws a request. One that fails here changes nothing; `none`
where it must wait. `v` holds BIND's scope, and REP above it; `b` the object, the start and the length. -/
def State.remoteObject (s : State) (k : Nat × Nat × Nat) (op : Nat) (w : Owner) (asid : Nat) (v : DWord) (b : Bytes) : Option State :=
  let h : ObjHold := { who := w, excl := op % 2 == 0 }
  if (s.objFault (handleOf k) asid).isSome then some s
  else match op with
  | 0 | 1 => some (s.request k h)
  | 2 | 3 => if s.poolQueued k then none else (s.takeObj k).map fun s1 =>
      if (s1.obj k).waiters = [] ∧ (s1.obj k).open h.excl then s1.joinObj k h else s1
  | 4 => some (s.setObj k ((s.obj k).endHold w))
  | 5 => if s.poolQueued k then none else (s.takeObj k).bind fun s1 =>
      match s1.bindRecord asid (handleOf k) (bytesToNat (b.take 8)) (bytesToNat ((b.drop 8).take 8)) (bytesToNat (b.drop 16))
        (v.extractLsb' 0 3).toNat (v.getLsbD 3) with
      | .ok s2 => some s2
      | .fails _ => some s1
      | .later => none
  | _ =>
    let s1 := s.setObj k { s.obj k with waiters := (s.obj k).waiters.filter fun x => x.who != w }
    some (s1.setHome k.2.1 { s1.home k.2.1 with full := (s1.home k.2.1).full.filter fun r => r.2.who != w })

/-- UNSCHEDULED_REQUEST (R433): a flit of a request that another package has sent. Operand: destination package, local
address, operation plus one, compare value; the bytes of a write, the operand of an atomic in `val`, its width in
`flag`. From operation 16 on, the request is one for a sync object: its handle's low bits in n1, and in n3 the package, the
address space and a number of the requester's own. A flit for another package goes on by the route table and changes
nothing here. -/
def execUnscheduledRequest (s : State) : Out :=
  let o := s.operand
  if o.n0 = s.myPkg then
    match if 16 ≤ o.n2 then
        s.remoteObject (s.myPkg, (handleKey (BitVec.ofNat 64 o.n1)).2) (o.n2 - 16) (.remote (o.n3 % 1024) (o.n3 / 2 ^ 26))
          (o.n3 / 1024 % 2 ^ 16) o.val o.bytes
      else s.remoteRequest (2 ^ 42 * s.myPkg + o.n1 % 2 ^ 42) (min o.n2 9) (if o.flag then 8 else 4) o.val (BitVec.ofNat 64 o.n3) o.bytes with
    | some s1 => .next s1
    | none => notDue "UNSCHEDULED_REQUEST"
  else whenDue "UNSCHEDULED_REQUEST" (s.reach o.n0 == .ok) s

/-- The other package that an offset of an object lies in. -/
def State.awayOf (s : State) (c : Cap) (o : Nat) : Option Nat :=
  match s.locate c o with
  | .at a => if packageOf a = s.myPkg then none else some (packageOf a)
  | _ => none

def State.sideAway (s : State) (x : Side) : Option Nat :=
  match x with
  | .mem c b => s.awayOf c b
  | _ => none

/-- The other package that a command's request is for. -/
def State.cmdAway (s : State) (c : Cmd) : Option Nat :=
  match c.body with
  | .atom cap .. | .atomQ cap _ => s.awayOf cap cap.cursor.toNat
  | .rel h _ | .bind h .. => if (handleKey h).1 = s.myPkg then none else some (handleKey h).1
  | .copy x => s.sideAway x.src <|> s.sideAway x.dst
  | _ => none

/-- A request made at a GTS has waited too long (R437). -/
def State.expired (s : State) (core since : Nat) : Bool := decide (linkTimeout ≤ s.coreCycles core (s.gts - since))

/-- The other package that an outstanding load's request is for, with the capability and the offset. -/
def State.loadAway (s : State) (l : Load) : Option (Nat × Cap × Nat) :=
  match l.src with
  | .mem c o _ => (s.awayOf c o).map fun p => (p, c, o)
  | .parts l => l.findSome? fun x => (s.awayOf x.cap x.off).map fun p => (p, x.cap, x.off)
  | .remap c .. => (s.awayOf c c.cursor.toNat).map fun p => (p, c, c.cursor.toNat)
  | .answer _ | .pad .. | .ready _ | .failed _ => none

/-- A write that waits at a port leaves it without being made, and the count with its last piece (R39, R437). -/
def State.dropPort (s : State) (p : PortStore) (t : TrapInfo) : State :=
  let ports := s.ports.filter fun q => q.n != p.n
  { s with
    ports := ports
    acks := s.acks.filter fun w => !(w.uid == p.uid && w.stamp == p.stamp) || ports.any fun q => q.uid == p.uid && q.stamp == p.stamp
  }.modJob p.uid (·.failStore p.pos t)

/-- A request for a hold that waits at another package's object. -/
def State.askAway (s : State) (a : Ask) : Option Nat :=
  let k := handleKey a.arg
  let mine := fun (h : ObjHold) => h.who == .ctx s.ctx.job.uid a.n || h.who == .attention s.ctx.job.uid a.n
  if k.1 ≠ s.myPkg ∧ !a.done ∧ (s.obj k).waiters.any mine then some k.1 else none

/-- The request fails and is withdrawn (R437). -/
def State.failAsk (s : State) (a : Ask) (pkg : Nat) : State :=
  let k := handleKey a.arg
  let t : TrapInfo := { cause := .linkError, tinfo := pkg, noskip := true, taddr := some a.addr }
  let s1 := s.setObj k { s.obj k with waiters := (s.obj k).waiters.filter fun h => h.who.job != some s.ctx.job.uid }
  s1.modCtx fun c => { c with units.asks := c.units.asks.map fun b => if b.n = a.n then { b with done := true, failed := some t } else b }

/-- UNSCHEDULED_TIMEOUT (R437). Operand: 0 a load of the focus context, 1 a store at the port, 2 a command, 3 a request for
a hold of the focus context; its number. -/
def execUnscheduledTimeout (s : State) : Out :=
  let n := s.operand.n1
  match s.operand.n0 with
  | 0 => match s.ctx.acc.loads.find? (·.n == n) with
    | some l => match s.loadAway l with
      | some (p, c, o) => whenDue "UNSCHEDULED_TIMEOUT" (s.expired s.cur.core l.gts)
          (s.modCtx (·.answerLoad n (.failed { cause := .linkError, toff := o, tinfo := p, cap := c, noskip := true })))
      | none => notDue "UNSCHEDULED_TIMEOUT"
    | none => notDue "UNSCHEDULED_TIMEOUT"
  | 1 => match s.ports.find? (·.n == n) with
    | some p => match s.awayOf p.cap p.off with
      | some q => whenDue "UNSCHEDULED_TIMEOUT" (s.expired s.cur.core p.gts)
          (s.dropPort p { cause := .linkError, toff := p.off, tinfo := q, cap := p.cap })
      | none => notDue "UNSCHEDULED_TIMEOUT"
    | none => notDue "UNSCHEDULED_TIMEOUT"
  | 3 => match s.ctx.units.asks.find? (·.n == n) with
    | some a => match s.askAway a with
      | some p => whenDue "UNSCHEDULED_TIMEOUT" (s.expired s.cur.core a.gts) (s.failAsk a p)
      | none => notDue "UNSCHEDULED_TIMEOUT"
    | none => notDue "UNSCHEDULED_TIMEOUT"
  | _ => match s.cmd n with
    | some c => match s.cmdAway c with
      | some q =>
        let f : TrapInfo := { cause := .linkError, tinfo := q }
        whenDue "UNSCHEDULED_TIMEOUT" (!c.done && !c.held && s.expired c.core c.gts)
          (match c.body with
          | .atom cap _ _ _ _ (some l) =>
            (s.modJob c.uid (·.answerLoad l (.failed { f with cap := cap, toff := cap.cursor.toNat, noskip := true }))).dropCmd n
          | _ => s.putCmd { c with done := true, failed := c.failed <|> some f })
      | none => notDue "UNSCHEDULED_TIMEOUT"
    | none => notDue "UNSCHEDULED_TIMEOUT"

/-! ## Ports (R434 to R436) -/

/-- Replays after which a port is declared down (R435). -/
def maxReplays : Nat := 16

/-- FLIT_REPLAY (R435). Operand: port; `flag` where the replay passes its check. -/
def execFlitReplay (s : State) : Out :=
  let p := s.port s.operand.n0
  whenDue "FLIT_REPLAY" (p.up && decide (p.replays < maxReplays) && decide (s.operand.n0 < 16))
    (s.setPort s.operand.n0 { p with replays := if s.operand.flag then 0 else p.replays + 1 })

/-- The command, failed if it is a link command of the port (R436). -/
def Cmd.failOn (c : Cmd) (port : Nat) : Cmd :=
  let moved := match c.body with
    | .lsend _ _ _ _ n | .lrecv _ _ _ _ n _ => n
    | .lradd _ _ _ _ fi _ n part sum => (n + bit sum.isSome) * elemBytes fi + part.length
    | _ => 0
  match c.body.link with
  | some l => if l.2.port = port ∧ !c.done then { c with done := true, failed := some (linkError l.1 port moved) } else c
  | none => c

/-- A port goes down: its link commands fail (R436). Requests routed through it meet a down port (R437). -/
def State.portDown (s : State) (p : Nat) : State :=
  { s.setPort p { s.port p with up := false, replays := 0 } with units.cmds := s.units.cmds.map (·.failOn p) }

/-- PORT_DOWN (R435, R436). Operand: port; `flag` where it has lost training. -/
def execPortDown (s : State) : Out :=
  let n := s.operand.n0
  let p := s.port n
  let s1 := (s.portDown n).post (srcPort n) kMcheck 2 (BitVec.ofNat 64 n)
  whenDue "PORT_DOWN" (p.up && (s.operand.flag || decide (maxReplays ≤ p.replays)))
    (s1.post (srcPort n) kLink (BitVec.ofNat 64 (n + 256 + 65536 * bit s.operand.flag)) (BitVec.ofNat 64 p.pkg))

/-- A write of TRAIN: the port is down while it retrains. -/
def State.retrain (s : State) (n : Nat) : State :=
  (s.portDown n).setPort n { s.port n with up := false, training := true, replays := 0 }

/-- PORT_RETRAIN (R434). Operand: port. -/
def execPortRetrain (s : State) : Out := whenDue "PORT_RETRAIN" (decide (s.operand.n0 < 16)) (s.retrain s.operand.n0)

/-- PORT_TRAINING_DONE (R434). Operand: port, the neighbour's package and port; `flag` where training succeeded. -/
def execPortTrainingDone (s : State) : Out :=
  let o := s.operand
  let p := s.port o.n0
  let s1 := s.setPort o.n0 (if o.flag then { up := true, pkg := o.n1 % 1024, nport := o.n2 % 16 } else { p with training := false })
  whenDue "PORT_TRAINING_DONE" p.training
    (if o.flag then s1.post (srcPort o.n0) kLink (BitVec.ofNat 64 (o.n0 + 65536 * 2)) (BitVec.ofNat 64 (o.n1 % 1024)) else s1)

/-- FQUIESCE_HOLD (R434). Operand: HOLD in `flag`. -/
def execFquiesceHold (s : State) : Out := .next { s with units.link.hold := s.operand.flag }

end Sys2Proof.Machine
end

