-- ==== Sys2Proof/Machine/Scruple.lean ====
section
/-! DEFINITION. Scruple: EVICT and RMAP (R393 to R401). -/
namespace Sys2Proof.Machine

/-! ## tl3 commands -/

/-- tl3 commands that a context may have in flight (R400). -/
def maxTl3 : Nat := 32

/-- Wait for room for one more tl3 command (R400). -/
def tl3Room : M Unit := do
  let s ← get
  await (decide (((s.cmdsOf s.ctx.job.uid).filter fun c => c.cls == 3).length < maxTl3))

/-! ## EVICT (R395, R396) -/

/-- What of EVICT's parameters raises ILLEGAL_OPERAND (R395). -/
def evictBad (keep : Bool) (v : DWord) : Bool :=
  let thr := fp32.val (v.extractLsb' 0 32).toNat
  let dec := fp32.val (v.extractLsb' 32 32).toNat
  (!keep && thr.isNan) || dec.isNan || (dec.sign && !dec.isZero) || FVal.one.lt dec

def effEvict (d a b : BitVec 5) (mode : BitVec 1) (_ : Env) : M Unit := do
  notInTask
  let pages ← rdC d
  let remap ← rdC a
  let v ← rdX b
  let s ← get
  check (s.capCheck pages 0 1 [tyData] (rightsOf [rR, rW]))
  check (s.capCheck remap 0 64 [tyRemap] (rightsOf [rR, rW]))
  need (!evictBad (mode == 1) v) .illegalOperand
  tl3Room
  modify fun s => s.issueCmd 3 true false false none (.evict {
    pages := pages, remap := remap, keepMode := mode == 1, thr := v.extractLsb' 0 32, decay := v.extractLsb' 32 32
    die := s.cur.die })
/-- EVICT (R395). -/
def execEvict (d a b : BitVec 5) (mode : BitVec 1) (s : State) : Out :=
  issueAcc (.evict d a b mode) 1 (opnd (bad16 d || bad16 a)) (effEvict d a b mode) s

/-! ## Reading and checking a sequence (R393, R394, R399) -/

/-- A read of a unit: a failure, or `none` where it must wait. -/
abbrev Try := Except (Option TrapInfo)

def tryFault {α : Type} (t : TrapInfo) : Try α := .error (some t)

/-- Read bytes of an object by a unit. -/
def State.tryRead (s : State) (c : Cap) (o n : Nat) : Try Bytes :=
  match s.readDirect c o n with
  | .bytes b => .ok b
  | .later => .error none
  | .bad t | .dataBad t => .error (some { t with noskip := false })

/-- A range of an object can be written now. -/
def State.tryPlace (s : State) (c : Cap) (o n : Nat) : Try Unit :=
  match s.writeMem c o (List.replicate n 0) with
  | .ok _ => .ok ()
  | .later => .error none
  | .fails t => .error (some t)

/-- Raise unless a condition holds. -/
def tryNeed (b : Bool) (t : TrapInfo) : Try Unit := if b then .ok () else .error (some t)

/-- What EVICT finds before it writes: the header's fields, the records' offsets, masses and positions. -/
structure Seqn where
  total : Nat
  keeptail : Nat
  row : Nat
  rtab : Nat
  removed : DWord
  evgen : Nat
  recs : List Nat
  ptab : List Nat
  mass : List (BitVec 32)
  pos : List Nat
  deriving DecidableEq, Repr

/-- Bytes of an element of a page format (R393); 0 for another code. -/
def pageElem (f : Nat) : Nat := if f = 1 ∨ f = 2 then 2 else if f = 3 ∨ f = 4 then 1 else 0

/-- Reserved bits of the header's words (Table 1 of chapter 13). -/
def headerReserved (w : Nat → Nat) : Option Nat :=
  if bitsOf (w 1) 63 48 ≠ 0 then some 0x08
  else if bitsOf (w 2) 31 24 ≠ 0 ∨ bitsOf (w 2) 15 12 ≠ 0 ∨ bitsOf (w 2) 7 1 ≠ 0 then some 0x10
  else if bitsOf (w 3) 63 13 ≠ 0 then some 0x18
  else if bitsOf (w 5) 63 32 ≠ 0 then some 0x28
  else if w 6 ≠ 0 then some 0x30
  else if w 7 ≠ 0 then some 0x38
  else none

/-- POS of the tokens is strictly increasing, and equal to the remap entries (R394): the first token that fails. -/
def posBad : Nat → Option Nat → List Nat → List Nat → Option Nat
  | _, _, [], _ => none
  | i, prev, p :: ps, rs =>
    if (match prev with | some q => decide (p ≤ q) | none => false) || rs.head? != some p then some i
    else posBad (i + 1) (some p) ps rs.tail

/-- A 64-bit word, and a 32-bit one, of bytes. -/
def word64 (b : Bytes) (i : Nat) : Nat := bytesToNat ((b.drop i).take 8)
def word32 (b : Bytes) (i : Nat) : Nat := bytesToNat ((b.drop i).take 4)

/-- Everything of R399 that is read and checked before a write. -/
def State.scanSeq (s : State) (e : EvictCmd) : Try Seqn := do
  let rb := e.remap.cursor.toNat
  let bad := fun (o : Nat) => ({ cause := .illegalOperand, toff := rb + o, cap := e.remap } : TrapInfo)
  let h ← s.tryRead e.remap rb 64
  let w := fun i => word64 h (8 * i)
  match headerReserved w with
  | some o => tryFault (bad o)
  | none => pure ()
  let npages := bitsOf (w 1) 47 32
  let total := bitsOf (w 1) 31 0
  let d := bitsOf (w 2) 23 16
  let esz := pageElem (bitsOf (w 2) 11 8)
  let pmax := bitsOf (w 3) 12 0
  tryNeed (decide (1 ≤ pmax) && decide (pmax ≤ 4096)) (bad 0x18)
  tryNeed ((d == 32 || d == 64 || d == 96 || d == 128) && esz != 0 && bitsOf (w 2) 0 0 == 0) (bad 0x10)
  let rtab := 0x40 + 8 * pmax
  match s.objEntry e.remap.asid.toNat e.remap.obj.toNat with
  | some o => tryNeed (decide (rb + rtab + 256 * pmax ≤ o.length)) { bad rtab with cause := .capBounds }
  | none => tryFault { bad 0 with cause := .capType }
  tryNeed (decide (npages ≤ pmax) && ((total == 0 && npages == 0)
    || (decide (64 * (npages - 1) < total) && decide (total ≤ 64 * npages) && decide (0 < npages)))) (bad 0x08)
  let row := d * esz
  let psz := 0x400 + 128 * row
  let pt ← s.tryRead e.remap (rb + 0x40) (8 * pmax)
  let recs ← (List.range pmax).filterMapM fun p => do
    let en := word64 pt (8 * p)
    tryNeed (bitsOf en 62 48 == 0 && bitsOf en 47 0 % 1024 == 0 && bitsOf en 63 63 == bit (decide (p < npages)))
      (bad (0x40 + 8 * p))
    if p < npages then do
      let o := e.pages.cursor.toNat + bitsOf en 47 0
      let t : TrapInfo := { cause := .capBounds, toff := o, tinfo := psz, cap := e.pages }
      tryNeed (decide (e.pages.lower.toNat ≤ o) && decide (o + psz ≤ e.pages.upper.toNat)) t
      s.tryPlace e.pages o psz
      let live ← s.tryRead e.pages o 4
      tryNeed (bytesToNat live == min 64 (total - 64 * p)) { t with cause := .illegalOperand }
      pure (some (o, en))
    else pure none
  let metas ← recs.mapM fun r => s.tryRead e.pages (r.1 + 0x40) 0x200
  let toks := (metas.flatMap fun m => (List.range 64).map fun t => (word32 m (4 * t), word32 m (0x100 + 4 * t))).take total
  let rt ← s.tryRead e.remap (rb + rtab) (4 * total)
  let pos := toks.map (·.2)
  match posBad 0 none pos ((List.range total).map fun i => word32 rt (4 * i)) with
  | some i => tryFault (bad (rtab + 4 * i))
  | none => pure ()
  s.tryPlace e.remap rb (rtab + 256 * pmax)
  pure { total := total, keeptail := bitsOf (w 2) 63 32, row := row, rtab := rtab
         removed := BitVec.ofNat 64 (w 4), evgen := bitsOf (w 5) 31 0
         recs := recs.map (·.1), ptab := recs.map (·.2)
         mass := toks.map fun t => BitVec.ofNat 32 t.1, pos := pos }

/-! ## Choosing survivors (R397) -/

/-- `a` comes before `b` in the order of MODE 1: greater mass first, NaN after every number, lower position first. -/
def heavier (a b : FVal × Nat × Nat) : Bool :=
  if a.1.isNan ∧ b.1.isNan then decide (a.2.1 < b.2.1)
  else if a.1.isNan then false
  else if b.1.isNan then true
  else if b.1.lt a.1 then true
  else if a.1.lt b.1 then false
  else decide (a.2.1 < b.2.1)

/-- How many of a list come before one. -/
def rankAmong (x : FVal × Nat × Nat) (l : List (FVal × Nat × Nat)) : Nat := (l.filter fun y => heavier y x).length

/-- Which tokens survive, in order. -/
def Seqn.keeps (q : Seqn) (e : EvictCmd) : List Bool :=
  let cut := q.total - min q.keeptail q.total
  let vals := (q.mass.zip q.pos).map fun p => (fp32.val p.1.toNat, p.2, 0)
  let cands := vals.take cut
  let byMode := fun (x : FVal × Nat × Nat) =>
    if e.keepMode then decide (rankAmong x cands < e.thr.toNat) else (fp32.val e.thr.toNat).le x.1
  cands.map byMode ++ (vals.drop cut).map fun _ => true

/-- The logical indices of the survivors. -/
def Seqn.survivors (q : Seqn) (e : EvictCmd) : List Nat :=
  ((List.range q.total).zip (q.keeps e)).filterMap fun p => if p.2 then some p.1 else none

/-! ## Rewriting the sequence (R398) -/

/-- A write that the checks have shown can be made. -/
def State.put (s : State) (c : Cap) (o : Nat) (b : Bytes) : State :=
  match s.writeMem c o b with
  | .ok s' => s'
  | _ => s

/-- Offsets of a token's K row, MASS and POS. -/
def Seqn.recOff (q : Seqn) (i : Nat) : Nat := q.recs.getD (i / 64) 0
def Seqn.kOff (q : Seqn) (i : Nat) : Nat := q.recOff i + 0x400 + i % 64 * q.row
def Seqn.vOff (q : Seqn) (i : Nat) : Nat := q.kOff i + 64 * q.row
def Seqn.massOff (q : Seqn) (i : Nat) : Nat := q.recOff i + 0x40 + 4 * (i % 64)
def Seqn.posOff (q : Seqn) (i : Nat) : Nat := q.recOff i + 0x140 + 4 * (i % 64)

/-- A survivor's mass after the decay. -/
def decayed (m decay : BitVec 32) : Nat := fp32.rne ((fp32.val m.toNat).mul (fp32.val decay.toNat))

/-- Move survivors down, `j` the next free slot: the state, and a row that could not be read. -/
def State.compact (s : State) (e : EvictCmd) (q : Seqn) : Nat → List Nat → State × Option TrapInfo
  | _, [] => (s, none)
  | j, i :: r =>
    let massed := fun (s : State) => s.put e.pages (q.massOff j) (natToBytes 4 (decayed (q.mass.getD i 0) e.decay))
    if i = j then (massed s).compact e q (j + 1) r
    else match s.readDirect e.pages (q.kOff i) q.row, s.readDirect e.pages (q.vOff i) q.row with
      | .bytes k, .bytes v =>
        let s1 := ((s.put e.pages (q.kOff j) k).put e.pages (q.vOff j) v).put e.pages (q.posOff j) (natToBytes 4 (q.pos.getD i 0))
        (massed s1).compact e q (j + 1) r
      | .dataBad t, _ | _, .dataBad t => (s, some { t with noskip := false })
      | _, _ => (s, some { cause := .eccUncorrectable, toff := q.kOff i, cap := e.pages })

/-- Empty the slots beyond the survivors. -/
def State.clearSlots (s : State) (e : EvictCmd) (q : Seqn) (l : List Nat) : State :=
  l.foldl (fun s i =>
    (((s.put e.pages (q.kOff i) (List.replicate q.row 0)).put e.pages (q.vOff i) (List.replicate q.row 0)).put
      e.pages (q.massOff i) (natToBytes 4 0)).put e.pages (q.posOff i) (natToBytes 4 0xFFFFFFFF)) s

/-- The rest of R398: emptied slots, the remap table, LIVE, the page table and the header. -/
def State.finishEvict (s : State) (e : EvictCmd) (q : Seqn) (surv : List Nat) : State :=
  let rb := e.remap.cursor.toNat
  let j := surv.length
  let beyond := (List.range (q.total - j)).map (j + ·)
  let s1 := s.clearSlots e q beyond
  let s2 := s1.put e.remap (rb + q.rtab)
    ((surv.map fun i => natToBytes 4 (q.pos.getD i 0)).flatten ++ (beyond.map fun _ => natToBytes 4 0xFFFFFFFF).flatten)
  let s3 := ((List.range q.recs.length).zip (q.recs.zip q.ptab)).foldl (fun s p =>
    let live := min 64 (j - 64 * p.1)
    let s' := s.put e.pages p.2.1 (natToBytes 4 live)
    if live = 0 then s'.put e.remap (rb + 0x40 + 8 * p.1) (natToBytes 8 (p.2.2 % 2 ^ 63)) else s') s2
  ((s3.put e.remap (rb + 0x08) (natToBytes 8 (2 ^ 32 * ((j + 63) / 64) + j))).put
    e.remap (rb + 0x20) (natToBytes 8 ((q.removed.toNat + (q.total - j)) % 2 ^ 64))).put
    e.remap (rb + 0x28) (natToBytes 8 ((q.evgen + 1) % 2 ^ 32))

/-- EVICT's work inside its hold: `none` where it must wait. -/
def State.evict (s : State) (e : EvictCmd) : Option (State × Option TrapInfo) :=
  match s.scanSeq e with
  | .error none => none
  | .error (some t) => some (s, some t)
  | .ok q =>
    let surv := q.survivors e
    let r := s.compact e q 0 surv
    match r.2 with
    | none => some (r.1.finishEvict e q surv, none)
    | some t =>
      let rb := e.remap.cursor.toNat
      match r.1.readDirect e.remap (rb + 0x10) 1 with
      | .bytes [b] => some (r.1.put e.remap (rb + 0x10) [b ||| 1], some t)
      | _ => some (r.1, some t)

/-! ## EVICT_APPLY (R396) -/

/-- HANDLE of a sequence. -/
def State.evictHandle (s : State) (e : EvictCmd) : Try DWord := do
  let b ← s.tryRead e.remap e.remap.cursor.toNat 8
  pure (BitVec.ofNat 64 (bytesToNat b))

/-- EVICTs that a die's unit works on, and whether one is on the same sequence. -/
def maxEvicts : Nat := 4
def Cmd.evicting (c : Cmd) (die : Nat) : Bool :=
  match c.body with
  | .evict e => e.die == die && e.asked && !c.done
  | _ => false
def Cmd.sequence (c : Cmd) : Option (Nat × Nat × Nat) :=
  match c.body with
  | .evict e => some (e.remap.asid.toNat, e.remap.obj.toNat, e.remap.cursor.toNat)
  | _ => none

/-- The unit takes an EVICT up: it checks HANDLE and requests the hold (R396, R399). -/
def State.askEvict (s : State) (c : Cmd) (e : EvictCmd) : Option State :=
  let done := fun (t : TrapInfo) => some (s.putCmd { c with done := true, failed := some { t with toff := 0, cap := e.remap } })
  match s.evictHandle e with
  | .error none => none
  | .error (some t) => done t
  | .ok h =>
    if handleBad h then done { cause := .illegalOperand }
    else match s.reach (handleKey h).1, s.objFault h c.asid with
      | .broken, _ => done { cause := .linkError, tinfo := (handleKey h).1 }
      | .held, _ => none
      | .ok, some t => done t
      | .ok, none => some ((s.putCmd { c with body := .evict { e with asked := true } }).request (handleKey h)
          { who := .evict c.n, excl := true })

/-- The hold of a command ends. -/
def State.endEvictHold (s : State) (n : Nat) : State :=
  let mine := fun (h : ObjHold) => h.who == .evict n
  { s with units.objs := (s.units.objs.map fun o => (o.1, { o.2 with holds := o.2.holds.filter fun h => !mine h })).filter fun o => o.2 != {} }

/-- EVICT_APPLY (R396 to R399). Operand: command. The unit takes the command up and requests its hold; once the hold has
begun it does its work and releases it. -/
def execEvictApply (s : State) : Out :=
  match s.cmd s.operand.n0 with
  | some c => match c.body with
    | .evict e =>
      let same := s.units.cmds.any fun x => x.evicting e.die && x.sequence == c.sequence
      if c.done then notDue "EVICT_APPLY"
      else if !e.asked then
        if !s.storesBefore c.who ∨ same ∨ maxEvicts ≤ (s.units.cmds.filter (·.evicting e.die)).length then notDue "EVICT_APPLY"
        else match s.askEvict c e with
          | some s1 => .next s1
          | none => notDue "EVICT_APPLY"
      else if !e.granted then notDue "EVICT_APPLY"
      else match s.evict e with
        | some r => .next ((r.1.endEvictHold c.n).putCmd { c with done := true, failed := r.2 })
        | none => notDue "EVICT_APPLY"
    | _ => notDue "EVICT_APPLY"
  | none => notDue "EVICT_APPLY"

/-! ## RMAP (R401) -/

/-- One read of an RMAP that has a number among its job's accesses, checked as a load of the remap object. -/
def remapRead (stamp : Nat) (commit : List CommitEntry) (c : Cap) (off n : Nat) : M Nat := do
  let o ← accessAt c off n [tyRemap] [rR]
  let s ← get
  await (!s.earlier s.ctx.job.uid stamp c o n)
  match s.readPlaces c o (s.placeRange c o n) (heldIn commit c o n) false with
  | .bytes b => do
    set (s.touchRead c o n)
    pure (bytesToNat b)
  | .later => wait
  | .bad t | .dataBad t => raise t

/-- The binary search of FORM 1 (fuel: 33 halvings of a 32-bit range). -/
def remapSearch (read : Nat → M Nat) (x : Nat) : Nat → Nat → Nat → M Nat
  | 0, lo, _ => pure lo
  | f + 1, lo, hi =>
    if lo < hi then do
      let mid := (lo + hi) / 2
      let v ← read mid
      if v < x then remapSearch read x f (mid + 1) hi else remapSearch read x f lo mid
    else pure lo

/-- What RMAP answers (R401). -/
def remapOf (stamp : Nat) (commit : List CommitEntry) (c : Cap) (pos : Bool) (x : Nat) : M Nat := do
  let total ← remapRead stamp commit c 8 4
  let pmax ← remapRead stamp commit c 0x18 2
  let read := fun i => remapRead stamp commit c (0x40 + 8 * (pmax % 2 ^ 13) + 4 * i) 4
  let none' := 2 ^ 64 - 1
  if !pos then (if x < total then read x else pure none')
  else do
    let lo ← remapSearch read x 33 0 total
    if x < 2 ^ 32 ∧ lo < total then do
      let v ← read lo
      pure (if v = x then lo else none')
    else pure none'

/-- An RMAP's reads now: the state after them, and its answer. -/
def State.remapGot (s : State) (stamp : Nat) (commit : List CommitEntry) (c : Cap) (pos : Bool) (x : Nat) : State × Got :=
  match remapOf stamp commit c pos x s with
  | .ok v s' => (s', .bytes (natToBytes 8 v))
  | .error (.trap t) _ => (s, if t.noskip then .dataBad t else .bad t)
  | .error _ _ => (s, .later)

def effRmap (d a b : BitVec 5) (form : BitVec 1) (e : Env) : M Unit := do
  let c ← rdC a
  let v ← rdX b
  freeX d
  let s ← get
  await s.loadRoom
  let o ← accessAt c 0 64 [tyRemap] [rR]
  await (!s.marked c o 64)
  let _ ← translateRange (.accessQueue a.toNat) c o 64
  let s ← get
  let dest := LoadDest.x d.toNat 8 false
  let r := s.remapGot s.ctx.acc.nextLoad s.ctx.acc.commit c (form == 1) v.toNat
  match r.2 with
  | .bytes b => do
    if s.late then set (r.1.addLoad dest (.ready b) e.addr)
    else do
      set r.1
      wrX d (BitVec.ofNat 64 (bytesToNat b))
  | .later => set (s.addLoad dest (.remap c (form == 1) v.toNat s.ctx.acc.commit) e.addr)
  | .bad t => raise t
  | .dataBad t => raise { t with taddr := some e.addr }
/-- RMAP (R401). -/
def execRmap (d a b : BitVec 5) (form : BitVec 1) (s : State) : Out :=
  issueAcc (.rmap d a b form) 1 (opnd (bad16 a)) (effRmap d a b form) s

end Sys2Proof.Machine
end

