-- ==== Sys2Proof/Machine/Egress.lean ====
section
/-! DEFINITION. Egress hold queues (R113 to R118, R402 to R407, R463). -/
namespace Sys2Proof.Machine

def State.eq (s : State) (q : Nat) : EqSt := s.units.egress.get {} q
def State.setEq (s : State) (q : Nat) (v : EqSt) : State := { s with units.egress := s.units.egress.set {} q v }

/-- Entries that a queue holds, and the number that no entry takes (R403, R404). -/
def eqEntries : Nat := 256
def eqLast : Nat := 2 ^ 32 - 1

/-! ## Commands -/

/-- The checks of an egress capability (R402); answers the queue. -/
def egressCheck (c : Cap) (right : Nat) : M Nat := do
  let o ← accessAt c 0 1 [tyEgress] [right]
  let s ← get
  match s.walk c o with
  | .error e => raise { cause := e, toff := o, tinfo := 1, cap := c }
  | .ok _ => pure (o % 4096)

def effEqpost (d a b : BitVec 5) (arm : BitVec 1) (_ : Env) : M Unit := do
  let c ← rdC a
  let v ← rdX b
  let r ← if arm = 1 then rdX d else pure 0
  let s ← get
  if arm = 1 then need (!s.ownRefBad r && refOff r % 16 == 0) .illegalOperand
  let q ← egressCheck c rW
  if arm = 1 then check (padRange (refOff r) 16)
  if s.ctx.job.task then commitRoom 1 else tl3Room
  modify fun s => s.issueCmd 3 false s.ctx.job.task false none (.eqpost q v (if arm = 1 then some (refOff r) else none))
/-- EQPOST (R404). -/
def execEqpost (d a b : BitVec 5) (arm : BitVec 1) (s : State) : Out :=
  issueAcc (.eqpost d a b arm) 1 (firstCause [(arm == 0 && d != 0, .illegal), (bad16 a, .illegalOperand)])
    (effEqpost d a b arm) s

/-- What EQREL and EQCUT share (R405). -/
def eqCommand (a b : BitVec 5) (body : Nat → Nat → Nat → CmdBody) : M Unit := do
  notInTask
  let c ← rdC a
  let v ← rdX b
  let n := (v.extractLsb' 0 32).toNat
  need (n != eqLast) .illegalOperand
  let q ← egressCheck c rAT
  tl3Room
  modify fun s => s.issueCmd 3 false false false none (body q (v.extractLsb' 32 32).toNat n)

def effEqrel (a b : BitVec 5) (_ : Env) : M Unit := eqCommand a b .eqrel
/-- EQREL (R405). -/
def execEqrel (a b : BitVec 5) (s : State) : Out := issueAcc (.eqrel a b) 1 (opnd (bad16 a)) (effEqrel a b) s

def effEqcut (a b : BitVec 5) (_ : Env) : M Unit := eqCommand a b .eqcut
/-- EQCUT (R405). -/
def execEqcut (a b : BitVec 5) (s : State) : Out := issueAcc (.eqcut a b) 1 (opnd (bad16 a)) (effEqcut a b) s

/-! ## At the queue -/

/-- The queue of an egress command. -/
def CmdBody.eqQueue : CmdBody → Option Nat
  | .eqpost q _ _ | .eqrel q _ _ | .eqcut q _ _ | .eqpeek q _ _ => some q
  | _ => none

/-- An earlier command of the context to the queue has not reached it (R113). -/
def State.eqBehind (s : State) (uid n q : Nat) : Bool :=
  s.units.cmds.any fun x => decide (x.n < n) && x.uid == uid && !x.held && !x.started && x.body.eqQueue == some q

/-- An entry with its release, where it is one of an epoch's at most `upTo` (exclusive). -/
def EqEntry.release (x : EqEntry) (e upTo gts : Nat) : EqEntry :=
  if x.epoch = e ∧ x.seq < upTo ∧ x.released.isNone then { x with released := some gts } else x

/-- Release every pending entry of the epoch up to the mark (R116). -/
def EqSt.releaseMarked (q : EqSt) (gts : Nat) : EqSt := { q with entries := q.entries.map (·.release q.e q.mark gts) }

/-- EQREL at its queue (R116); none where e > E. -/
def EqSt.rel (q : EqSt) (e n gts : Nat) : Option EqSt :=
  if q.e < e then none
  else if e < q.e then some q
  else some (({ q with mark := max q.mark (n + 1) } : EqSt).releaseMarked gts)

/-- EQCUT at its queue (R117), without the notification; none where e > E. -/
def EqSt.cut (q : EqSt) (e n gts : Nat) : Option EqSt :=
  if q.e < e then none
  else if e < q.e then some q
  else
    let q1 := if 0 < n then ({ q with mark := max q.mark n } : EqSt).releaseMarked gts else q
    some { q1 with
      entries := q1.entries.filter fun x => x.released.isSome || x.epoch != e || decide (x.seq < n)
      n := max n q1.mark
      e := (e + 1) % 2 ^ 32 }

/-- The oldest waiting post is tagged (R404); none where its number is the last. -/
def EqSt.tag (q : EqSt) (payload : DWord) (uid : Nat) (arm : Option Nat) (gts : Nat) : Option EqSt :=
  if q.n = eqLast then none
  else
    let x : EqEntry := { epoch := q.e, seq := q.n, payload := payload, gts := gts
                         released := if q.n < q.mark then some gts else none }
    some { q with entries := q.entries ++ [x], n := q.n + 1, notify := (arm.map fun o => (uid, o)) <|> q.notify }

/-- The queue has a waiting post to tag, which it does before it applies another command (R404). -/
def EqSt.tagDue (q : EqSt) : Bool := !q.waiting.isEmpty && decide (q.entries.length < eqEntries)

/-- An EQREL or an EQCUT can be applied: it follows the earlier commands of its context to the queue, the writes that it
releases have been acknowledged, and no post stands to be tagged (R113, R116, R117, R404). -/
def State.eqDue (s : State) (c : Cmd) (q : Nat) : Bool :=
  !c.started && s.storesBefore c.who && !s.eqBehind c.uid c.n q && !(s.eq q).tagDue

/-- EQPOST_ARRIVAL (R404). Operand: command. -/
def execEqpostArrival (s : State) : Out :=
  match s.cmd s.operand.n0 with
  | some c => match c.body with
    | .eqpost q _ _ =>
      whenDue "EQPOST_ARRIVAL" (!c.held && !c.started && s.storesBefore c.who && !s.eqBehind c.uid c.n q)
        ((s.setEq q { s.eq q with waiting := (s.eq q).waiting ++ [c.n] }).putCmd { c with started := true })
    | _ => notDue "EQPOST_ARRIVAL"
  | none => notDue "EQPOST_ARRIVAL"

/-- The context of a job that has not ended posts with ARM. -/
def State.armOf (s : State) (uid : Nat) (arm : Option Nat) : Option Nat := if s.placeOf uid = .gone then none else arm

/-- EQ_TAG (R404). Operand: queue. -/
def execEqTag (s : State) : Out :=
  let q := s.operand.n0
  let v := s.eq q
  match v.waiting with
  | [] => notDue "EQ_TAG"
  | n :: r => match s.cmd n with
    | some c => match c.body with
      | .eqpost _ p arm =>
        match ({ v with waiting := r } : EqSt).tag p c.uid (s.armOf c.uid arm) s.gts with
        | some v' => whenDue "EQ_TAG" (decide (v.entries.length < eqEntries)) ((s.setEq q v').putCmd { c with done := true })
        | none => whenDue "EQ_TAG" (decide (v.entries.length < eqEntries)) ((s.setEq q { v with waiting := r }).putCmd
            { c with done := true, failed := some { cause := .egressEpoch } })
      | _ => notDue "EQ_TAG"
    | none => notDue "EQ_TAG"

/-- EQREL_ARRIVAL (R116). Operand: command. -/
def execEqrelArrival (s : State) : Out :=
  match s.cmd s.operand.n0 with
  | some c => match c.body with
    | .eqrel q e n =>
      whenDue "EQREL_ARRIVAL" (s.eqDue c q)
        (match (s.eq q).rel e n s.gts with
        | some v => (s.setEq q v).putCmd { c with started := true, done := true }
        | none => s.putCmd { c with started := true, done := true, failed := some { cause := .egressEpoch } })
    | _ => notDue "EQREL_ARRIVAL"
  | none => notDue "EQREL_ARRIVAL"

/-- GEN of the sync word at an offset advances by one, COUNT unchanged (R117). -/
def genUp (m : Memory) (o : Nat) : Memory := m.write (o + 8) (natToBytes 4 (padWord m (o + 8) + 1))

/-- A spilled context's notification waits for its FILL (R405). -/
def SpillRec.addGen (r : SpillRec) (id o : Nat) : SpillRec := if r.id = id then { r with gens := r.gens ++ [o] } else r

/-- Notify a queue's context (R117, R405). -/
def State.notify (s : State) (n : Option (Nat × Nat)) : State :=
  match n with
  | none => s
  | some (uid, o) => match s.placeOf uid with
    | .bank k => let c := s.bankCtx k; s.setBank k { c with pad := genUp c.pad o }
    | .spilled id => { s with units.spilled := s.units.spilled.map (·.addGen id o) }
    | .gone => s

/-- EQCUT_ARRIVAL (R117). Operand: command. -/
def execEqcutArrival (s : State) : Out :=
  match s.cmd s.operand.n0 with
  | some c => match c.body with
    | .eqcut q e n =>
      whenDue "EQCUT_ARRIVAL" (s.eqDue c q)
        (match (s.eq q).cut e n s.gts with
        | some v =>
          let s1 := (s.setEq q v).putCmd { c with started := true, done := true }
          if e = (s.eq q).e then s1.notify (s.eq q).notify else s1
        | none => s.putCmd { c with started := true, done := true, failed := some { cause := .egressEpoch } })
    | _ => notDue "EQCUT_ARRIVAL"
  | none => notDue "EQCUT_ARRIVAL"

/-! ## EQPEEK (R406) -/

/-- The entries that an EQPEEK lists. -/
def EqSt.listed (q : EqSt) (first : Nat) : List EqEntry :=
  (q.entries.filter fun x => x.epoch == q.e && decide (first ≤ x.seq)).take 62

/-- One record of Table 6 of chapter 13. -/
def EqEntry.record (x : EqEntry) : Bytes :=
  natToBytes 8 (x.epoch * 2 ^ 32 + x.seq) ++ natToBytes 8 x.payload.toNat ++ natToBytes 8 x.gts
    ++ natToBytes 8 (bit x.released.isSome)

/-- The 2 KiB of Table 6 of chapter 13. -/
def EqSt.listing (q : EqSt) (first gts : Nat) : Bytes :=
  let l := q.listed first
  let mark := if q.mark = 0 then eqLast else q.mark - 1
  padTo 2048 0 (natToBytes 8 (q.n * 2 ^ 32 + q.e)
    ++ natToBytes 8 (min q.waiting.length 255 * 2 ^ 56 + l.length * 2 ^ 48 + q.entries.length * 2 ^ 32 + mark)
    ++ natToBytes 8 gts ++ List.replicate 40 0 ++ l.flatMap (·.record))

/-- The request with its answer. -/
def Ask.finish (a : Ask) (n : Nat) (f : Option TrapInfo) (v : Nat) : Ask :=
  if a.n = n then { a with done := true, failed := f, scope := v } else a

/-- The queue applies an EQPEEK: the result is written, and the request answered with the number of entries listed. -/
def State.peekQueue (s : State) (uid ask q off first : Nat) : Did State :=
  let v := s.eq q
  let answer := fun (s : State) (f : Option TrapInfo) (n : Nat) =>
    s.modJob uid fun c => { c with units.asks := c.units.asks.map (·.finish ask f n) }
  match s.writePadOf uid off (v.listing first s.gts) with
  | .ok s1 => .ok (answer s1 none (v.listed first).length)
  | .fails t => .ok (answer s (some t) 0)
  | .later => .later

/-- Take the answer of an EQPEEK: it acquires for the entries it lists (R115). -/
def takePeek (addr : Nat) : M Unit := do
  let s ← get
  match s.askAt addr with
  | none => wait
  | some a =>
    if !a.done then wait
    else do
      let s1 := s.modCtx fun c => c.dropAsk a.n
      match a.failed with
      | some t => do
        set s1
        raise { t with noskip := true }
      | none => set (if a.scope = 0 then s1 else s1.l1Drop s.cur.core)

/-- The checks of EQPEEK at issue; answers the queue. -/
def peekCheck (r : DWord) (c : Cap) : M Nat := do
  let s ← get
  need (!s.ownRefBad r && refOff r % 64 == 0) .illegalOperand
  let q ← egressCheck c rR
  check (padRange (refOff r) 2048)
  check (s.padCheck (refOff r) 2048)
  await (!s.padWaits (refOff r) 2048 && s.loadRoom)
  pure q

def effEqpeek (d a b : BitVec 5) (e : Env) : M Unit := do
  notInTask
  let r ← rdX d
  let c ← rdC a
  let v ← rdX b
  let s ← get
  match s.askAt e.addr with
  | some _ => takePeek e.addr
  | none => do
    let q ← peekCheck r c
    let first := (v.extractLsb' 0 32).toNat
    let s ← get
    let s1 := s.addAsk e.addr (BitVec.ofNat 64 s.ctx.units.nextAsk)
    if s.eqBehind s.ctx.job.uid s.units.nextCmd q || (s.eq q).tagDue then
      set (s1.addCmd { s.freeCmd (.eqpeek q (refOff r) first) with num := s.ctx.units.nextAsk })
    else match s1.peekQueue s.ctx.job.uid s.ctx.units.nextAsk q (refOff r) first with
      | .ok s2 => set s2
      | _ => wait
    takePeek e.addr
/-- EQPEEK (R406). -/
def execEqpeek (d a b : BitVec 5) (s : State) : Out := issueAcc (.eqpeek d a b) 1 (opnd (bad16 a)) (effEqpeek d a b) s

/-- EQPEEK_ARRIVAL (R406). Operand: command. -/
def execEqpeekArrival (s : State) : Out :=
  match s.cmd s.operand.n0 with
  | some c => match c.body with
    | .eqpeek q off first =>
      if s.eqBehind c.uid c.n q || (s.eq q).tagDue then notDue "EQPEEK_ARRIVAL"
      else match s.peekQueue c.uid c.num q off first with
        | .ok s1 => .next (s1.dropCmd c.n)
        | _ => notDue "EQPEEK_ARRIVAL"
    | _ => notDue "EQPEEK_ARRIVAL"
  | none => notDue "EQPEEK_ARRIVAL"

/-! ## Delivery to the host (R118, R407, R463) -/

/-- The oldest released entry that satisfies a condition: entries stand in the order of their epochs and numbers. -/
def EqSt.oldest (q : EqSt) (ok : EqEntry → Bool) : Option EqEntry := q.entries.find? fun x => x.released.isSome && ok x

/-- Egress delivery is in host-assisted mode (R458). -/
def State.eqPolled (s : State) : Bool := s.host.funcmode.getLsbD 4

/-- The entry, marked as delivered. -/
def EqEntry.deliver (x : EqEntry) (e n : Nat) : EqEntry := if x.epoch = e ∧ x.seq = n then { x with delivered := true } else x

/-- EGRESS_DELIVERY (R463). Operand: queue. -/
def execEgressDelivery (s : State) : Out :=
  let q := s.operand.n0
  match (s.eq q).oldest fun x => !x.delivered with
  | none => notDue "EGRESS_DELIVERY"
  | some x =>
    let port := eventPort (srcEgress q)
    let ev : Event := { gts := x.released.getD s.gts, source := srcEgress q, kind := kEgress
                        p0 := BitVec.ofNat 64 (x.epoch * 2 ^ 32 + x.seq), p1 := x.payload }
    let r := s.host.rings.get {} port
    let s1 := { s with host.rings := s.host.rings.set {} port { r with waiting := insertEvent ev r.waiting } }
    whenDue "EGRESS_DELIVERY" (!s.eqPolled)
      (s1.setEq q { s.eq q with entries := (s.eq q).entries.map (·.deliver x.epoch x.seq) })

/-- The host acknowledges an entry and every earlier one of its queue (R407). -/
def EqSt.ack (q : EqSt) (epoch seq : Nat) : EqSt :=
  { q with entries := q.entries.filter fun x =>
      !(x.released.isSome && (decide (x.epoch < epoch) || (x.epoch == epoch && decide (x.seq ≤ seq)))) }

/-- What a read of EQDELIV answers: epoch and number, the payload, and the GTS of the release (R118); all ones where there
is no entry (R463). -/
def State.eqdeliv (s : State) (q : Nat) : Bytes :=
  match (s.eq q).oldest fun _ => true with
  | some x => natToBytes 8 (x.epoch * 2 ^ 32 + x.seq) ++ natToBytes 8 x.payload.toNat
      ++ natToBytes 8 (x.released.getD 0)
  | none => List.replicate 24 0xFF

/-- EQDELIV (R463). Operand: queue. -/
def execEqdeliv (s : State) : Out := .next { s with host.out := s.eqdeliv s.operand.n0 }

/-- A write of EQACK (R463): the number is of the oldest released entry that has it. -/
def State.writeEqack (s : State) (q : Nat) (v : DWord) : State :=
  match ((s.eq q).entries.filter fun x => x.released.isSome).find? fun x => x.seq == (v.extractLsb' 0 32).toNat with
  | some x => s.setEq q ((s.eq q).ack x.epoch x.seq)
  | none => s

/-- EQACK (R463). Operand: queue; the number in `val`. -/
def execEqack (s : State) : Out := .next (s.writeEqack s.operand.n0 s.operand.val)

/-- EQRESET (R403). Operand: queue. -/
def execEqreset (s : State) : Out := .next (s.setEq s.operand.n0 {})

end Sys2Proof.Machine
end

