-- ==== Sys2Proof/Machine/Firkin.lean ====
section
/-! DEFINITION. Firkin: SPILL and FILL (R410 to R418). -/
namespace Sys2Proof.Machine

/-! ## Issue (R413, R414) -/

/-- Bytes of a save area (R412). -/
def areaBytes : Nat := 0x301000

/-- The bank that x[b] selects, and what of it raises ILLEGAL_OPERAND (R413, R414). -/
def bankOfWord (die : Nat) (v : DWord) : BankKey := bankKey die (v.extractLsb' 0 7).toNat (v.extractLsb' 8 2).toNat
def bankWordBad (v : DWord) : Bool :=
  v.extractLsb' 7 1 != 0 || v.extractLsb' 10 54 != 0 || decide (71 < (v.extractLsb' 0 7).toNat)

/-- The issue of both (R414). -/
def issueBank (a b : BitVec 5) (rights : List Nat) (own : Bool) (body : Cap → Nat → CmdBody) : M Unit := do
  privileged
  notInTask
  let c ← rdC a
  let v ← rdX b
  let _ ← accessAt c 0 areaBytes [tyData] rights
  let s ← get
  need (!(c.cursor.toNat % 4096 != 0 || bankWordBad v || (own && bankOfWord s.cur.die v == s.cur))) .illegalOperand
  tl3Room
  modify fun s => s.issueCmd 3 true false false none (body c (bankOfWord s.cur.die v))

def effSpill (a b : BitVec 5) (_ : Env) : M Unit := issueBank a b [rW, rCD] true fun c k => .spill (some c) 0 k
/-- SPILL (R413 to R415). -/
def execSpill (a b : BitVec 5) (s : State) : Out := issueAcc (.spill a b) 1 (opnd (bad16 a)) (effSpill a b) s

def effFill (a b : BitVec 5) (_ : Env) : M Unit := issueBank a b [rR, rCS] false fun c k => .fill (some c) 0 k
/-- FILL (R413, R414, R416). -/
def execFill (a b : BitVec 5) (s : State) : Out := issueAcc (.fill a b) 1 (opnd (bad16 a)) (effFill a b) s

/-! ## Save areas (R412) -/

/-- A save area: an object from an offset on, or a physical address (R418). -/
inductive Area where
  | obj (c : Cap)
  | phys (a : Nat)
  deriving DecidableEq, Repr

def Area.of (c : Option Cap) (phys : Nat) : Area := match c with | some c => .obj c | none => .phys phys

/-- A failure at an offset of the save area (R414). -/
def Area.at' {α : Type} (r : Area) (d : Did α) : Did α :=
  match r, d with
  | .obj c, .fails t => .fails { t with toff := t.toff - c.cursor.toNat }
  | _, d => d

/-- Read bytes of a save area. -/
def State.readArea (s : State) (r : Area) (o n : Nat) : Did Bytes :=
  match r with
  | .obj c => r.at' (s.readDirect c (c.cursor.toNat + o) n).did
  | .phys a => match s.badIn (a + o) n with
    | some e => .fails { cause := .eccUncorrectable, toff := e - a, tinfo := n, bad := .sectors (s.badSectors (a + o) n []) }
    | none =>
      if s.quarterGated (a + o) then .fails { cause := .powerState, toff := o, tinfo := n }
      else if s.memHeld (a + o) then .later
      else .ok (s.mem.read (a + o) n)

/-- Write the pieces of a save area in order. -/
def State.writeArea (s : State) (r : Area) : List (Nat × Nat) → Bytes → Did State
  | [], _ => .ok s
  | p :: l, b =>
    match (match r with
      | .obj c => r.at' (s.writeMem c p.1 (b.take p.2))
      | .phys a =>
        if s.quarterGated p.1 ∨ !decodes p.1 then .fails { cause := .powerState, toff := p.1 - a, tinfo := p.2 }
        else if s.memHeld p.1 then .later else .ok (s.agentWrite p.1 (b.take p.2))) with
    | .ok s1 => s1.writeArea r l (b.drop p.2)
    | g => g

/-- The pieces of a save area, page by page. -/
def Area.pieces (r : Area) : List (Nat × Nat) :=
  match r with
  | .obj c => pagesOf c.cursor.toNat areaBytes
  | .phys a => pagesOf a areaBytes

/-- The header (Table 2 of chapter 14). -/
def Ctx.header (c : Ctx) (id : Nat) (k : BankKey) (gts : Nat) : Bytes :=
  padTo 4096 0 (natToBytes 8 (Config.imageVersion.toNat * 2 ^ 32 + 0x300000) ++ natToBytes 8 id
    ++ natToBytes 8 (c.job.code.asid.toNat * 2 ^ 32 + k.die * 2 ^ 10 + k.bank * 2 ^ 8 + k.core % 72)
    ++ natToBytes 8 gts
    ++ natToBytes 8 (4 * bit (c.status == .halted) + 2 * bit c.seq.intrap + bit c.job.task))

/-- Bytes of the parts of a bank whose layout is not architectural: free values (R410). -/
def freeBytes (fresh n : Nat) : Bytes := (List.range n).map fun i => (Config.freeValue (fresh + i)).setWidth 8

/-- The image of a bank: the scratchpad as it stands, the rest free. -/
def Ctx.image (c : Ctx) (fresh : Nat) : Bytes := c.pad.read 0 padSize ++ freeBytes fresh (areaBytes - 4096 - padSize)

/-! ## SPILL_APPLY (R415) -/

/-- Spill records of the package (R415). -/
def maxSpilled : Nat := 4096

/-- The landings of a context have their data (R34). -/
def Ctx.settled (c : Ctx) : Bool :=
  c.vec.slots.all (·.settled)

/-- The context as a switch leaves it (R37). -/
def State.stopped (s : State) (k : BankKey) : Ctx := ((s.focus k).stopContext).ctx

/-- The sync words that a context's wait slots name (R417). -/
def Ctx.waitWords (c : Ctx) : Memory :=
  c.seq.slots.foldl (fun m p => match p.2 with
    | .gen off _ => Memory.write m off (c.pad.read off 16)
    | _ => m) []

/-- Where the engine part of a bank begins in a save area (R412). -/
def enginePart : Nat := 0x1C1000

/-- What keeps a bank from being read (R415): an uncorrectable sector, or a gated part of it; the place of one in the engine
part, whose layout is not architectural, is the free value of a number. -/
def Ctx.unreadable (c : Ctx) (fresh : Nat) : Option TrapInfo :=
  match (List.range (padSize / 32)).find? (c.padBad.contains ·), (List.range 8).find? (c.padGated.getLsbD ·) with
  | some k, none => some { cause := .eccUncorrectable, toff := 0x1000 + 32 * k, bad := .bank }
  | none, some j => some { cause := .powerState, toff := 0x1000 + 0x30000 * j }
  | some k, some j => some (if 32 * k < 0x30000 * j then { cause := .eccUncorrectable, toff := 0x1000 + 32 * k, bad := .bank }
      else { cause := .powerState, toff := 0x1000 + 0x30000 * j })
  | none, none =>
    if c.vec.bad = [] ∧ c.idx.bad = [] then none
    else some { cause := .eccUncorrectable, toff := enginePart + (Config.freeValue fresh).toNat % 0x140000 / 32 * 32, bad := .bank }

/-- Spill a resident context whose landings have settled: header and image to the area, the bank free. -/
def State.spillBank (s : State) (k : BankKey) (r : Area) (phys : Option Nat) : Did State :=
  let c := s.bankCtx k
  let id := s.units.nextSpill
  if !c.resident ∨ maxSpilled ≤ s.units.spilled.length then .fails { cause := .illegalOperand }
  else if c.padWaking ≠ 0 ∨ s.dieHeld k.die then .later
  else match c.unreadable s.fresh with
  | some t => .fails t
  | none => match s.writeArea r r.pieces (c.header id k s.gts ++ c.image s.fresh) with
    | .later => .later
    | .fails t => .fails t
    | .ok s1 =>
      let rec' : SpillRec := { id := id, die := k.die, area := phys, bank := k, ctx := { s.stopped k with pad := c.waitWords } }
      let s2 := (s1.setBank k {}).noteFree k.die
      .ok { s2 with units.spilled := s2.units.spilled ++ [rec'], units.nextSpill := id + 1
                    units.spillAsked := s2.units.spillAsked.filter fun u => u != c.job.uid
                    fresh := s2.fresh + areaBytes }

/-- An earlier SPILL or FILL of the bank is not done (R415). -/
def State.bankBehind (s : State) (n k : Nat) : Bool :=
  s.units.cmds.any fun x => decide (x.n < n) && !x.done && match x.body with
    | .spill _ _ b | .fill _ _ b => b == k
    | _ => false

/-- SPILL_APPLY (R415). Operand: command. -/
def execSpillApply (s : State) : Out :=
  match s.cmd s.operand.n0 with
  | some c => match c.body with
    | .spill cap phys k =>
      if c.done || s.bankBehind c.n k || !s.storesBefore c.who || !(s.bankCtx k).settled || (s.bankCtx k).trapPending.isSome then
        notDue "SPILL_APPLY"
      else match s.spillBank k (.of cap phys) none with
        | .later => notDue "SPILL_APPLY"
        | .fails t => .next ({ s with fresh := s.fresh + 1 }.putCmd { c with done := true, failed := some t })
        | .ok s1 => .next (s1.putCmd { c with done := true })
    | _ => notDue "SPILL_APPLY"
  | none => notDue "SPILL_APPLY"

/-! ## FILL_APPLY (R416) -/

/-- The cluster of a core: eight cores of a die (R1). -/
def clusterOf (core : Nat) : Nat := core / 72 * 9 + core % 72 / 8

/-- Two cores lie in one unit of a level (R47). -/
def sameUnit (level a b : Nat) : Bool :=
  match level with
  | 0 => a == b
  | 1 => clusterOf a == clusterOf b
  | 2 => a / 72 == b / 72
  | _ => true

/-- The resident members of a group other than a job, with their cores. -/
def State.membersAt (s : State) (group : Nat × Nat) (uid : Nat) : List Nat :=
  (((s.cur, s.ctx) :: s.banks).filter fun p => p.2.resident && p.2.group == group && p.2.job.uid != uid).map fun p => BankKey.core p.1

/-- A context can be placed on a core under R47. -/
def State.mayPlace (s : State) (c : Ctx) (core : Nat) : Bool :=
  (s.membersAt c.group c.job.uid).all fun m => m != core && sameUnit c.group.1 m core

/-- A bank that holds no context and is not gated (R411). -/
def State.bankFree (s : State) (k : BankKey) : Bool := !(s.bankCtx k).resident && !s.bankOff.get false k && !s.bankWaking.get false k

/-- A bank that holds no context and is gated, or wakes (R411). -/
def State.bankSleeps (s : State) (k : BankKey) : Bool := !(s.bankCtx k).resident && (s.bankOff.get false k || s.bankWaking.get false k)

/-- The lowest free bank of a core. -/
def State.freeBank (s : State) (core : Nat) : Option BankKey := ((List.range 4).map (4 * core + ·)).find? s.bankFree

/-- The die of the first core with a free bank (R377); where no bank of the package is awake and free, of the first core
with a gated one (log 55). -/
def State.firstDie (s : State) : Nat :=
  (((List.range 288).find? fun c => (s.freeBank c).isSome)
    <|> (List.range 288).find? fun c => (List.range 4).any fun b => s.bankSleeps (4 * c + b)).getD 0 / 72

/-- A scratchpad with the events that a spill record kept (R417). -/
def SpillRec.apply (x : SpillRec) (m : Memory) : Memory :=
  x.counts.foldl (fun m w => countAt m w.1 w.2) (x.gens.foldl genUp m)

/-- A bank that is filled does not run of itself (R416). -/
def State.notRunning (s : State) (k : BankKey) : State :=
  if s.runsBank k then { s with running := s.running.set 0 k.core (4 + k.bank) } else s

/-- Fill a bank from an area. -/
def State.fillBank (s : State) (k : BankKey) (r : Area) : Did State :=
  match s.readArea r 0 0x28 with
  | .later => .later
  | .fails t => .fails t
  | .ok h =>
    let bad := Did.fails ({ cause := .illegalOperand } : TrapInfo)
    if word64 h 0 ≠ Config.imageVersion.toNat * 2 ^ 32 + 0x300000 then bad
    else match s.units.spilled.find? fun x => x.id == word64 h 8 with
      | none => bad
      | some x =>
        if s.bankWaking.get false k ∨ (s.bankCtx k).padWaking ≠ 0 ∨ s.dieHeld k.die then .later
        else if s.bankOff.get false k ∨ (s.bankCtx k).padGated ≠ 0 then .fails { cause := .powerState }
        else if (s.bankCtx k).resident ∨ !s.mayPlace x.ctx k.core then bad
        else match s.readArea r 0x1000 (areaBytes - 0x1000) with
          | .later => .later
          | .fails t => .fails t
          | .ok b => .ok ((({ s with units.spilled := s.units.spilled.filter fun y => y.id != x.id }).setBank k
              { x.ctx with pad := x.apply (Memory.write [] 0 (b.take padSize)), moved := true }).notRunning k)

/-- FILL_APPLY (R416). Operand: command. -/
def execFillApply (s : State) : Out :=
  match s.cmd s.operand.n0 with
  | some c => match c.body with
    | .fill cap phys k =>
      if c.done || s.bankBehind c.n k || !s.storesBefore c.who then notDue "FILL_APPLY"
      else match s.fillBank k (.of cap phys) with
        | .later => notDue "FILL_APPLY"
        | .fails t => .next (s.putCmd { c with done := true, failed := some t })
        | .ok s1 => .next (s1.putCmd { c with done := true })
    | _ => notDue "FILL_APPLY"
  | none => notDue "FILL_APPLY"

end Sys2Proof.Machine
end

