-- ==== Sys2Proof/Machine/Launch.lean ====
section
/-! DEFINITION. Launch records and graph objects: their fields, and the checks that Furlong makes before it begins a
record (R366, R367, R369 to R371, R378, R475). -/
namespace Sys2Proof.Machine

/-- What a check comes to: an answer, a wait for a page (R475), or the status of Table 2 of chapter 12 and the INDEX
that go with it. -/
inductive Chk (α : Type) where
  | ok (a : α)
  | waits
  | fails (status index : Nat)
  deriving DecidableEq, Repr

/-- The statuses of Table 2. -/
def stBadRecord : Nat := 1
def stBadCap : Nat := 2
def stBadGraph : Nat := 3
def stBadMcast : Nat := 4

/-! ## Reads and writes that Furlong and Bushel make (R475) -/

/-- The pages of a range whose entries have LOC 0b10. -/
def State.absentPages (s : State) (c : Cap) (o n : Nat) : List Nat :=
  (pagesOf o n).filterMap fun p =>
    if s.locate c p.1 = .fails .pageNonresident then some (p.1 / pageSize) else none

/-- Ask for the pages of a range that are not resident. -/
def State.askRange (s : State) (c : Cap) (o n : Nat) : State :=
  (s.absentPages c o n).foldl (fun s p => s.askPage c.asid.toNat c.obj.toNat p) s

/-- A read that waits for its pages and does not fail for want of them (R475); nor does it for an uncorrectable sector,
whose bytes are free values (R4, log 54). -/
def State.unitRead (s : State) (c : Cap) (o n : Nat) : Did Bytes :=
  match s.readDirect c o n with
  | .bytes b => .ok b
  | .later => .later
  | .bad t => if t.cause = .pageNonresident then .later else .fails t
  | .dataBad t =>
    if t.cause ≠ .eccUncorrectable then .fails t
    else match { s with bad := [] }.readDirect c o n with
      | .bytes _ => .ok ((s.placeRange c o n).foldl (fun (b : Bytes) p => match p.1 with
          | .at a => b ++ s.marred (s.fresh + b.length) a p.2
          | _ => b) [])
      | .later => .later
      | .bad t | .dataBad t => .fails t

/-- The uncorrectable sectors that a read meets are reported. -/
def State.reportRead (s : State) (c : Cap) (o n : Nat) : State :=
  let bads := (s.placeRange c o n).filterMap fun p => match p.1 with
    | .at a => if (s.badIn a p.2).isSome then some (a, p.2) else none
    | _ => none
  if bads = [] then s else bads.foldl (fun s' p => s'.reportRange p.1 p.2) (s.spend n)

/-- A write that waits for its pages. -/
def State.unitWrite (s : State) (c : Cap) (o : Nat) (b : Bytes) : Did State :=
  match s.writeMem c o b with
  | .fails t => if t.cause = .pageNonresident then .later else .fails t
  | g => g

/-! ## The record (Table 1) -/

/-- The record's fields. -/
def parseRec (b : Bytes) : LaunchRec :=
  let w := fun i => word64 b (8 * i)
  { type := bitsOf (w 0) 3 0, prio := bitsOf (w 0) 10 8, cw := bitsOf (w 0) 11 11 == 1, level := bitsOf (w 0) 18 16
    sup := bitsOf (w 0) 19 19 == 1, jobs := bitsOf (w 0) 63 32
    entry := bitsOf (w 1) 47 0, mask := BitVec.ofNat 6 (bitsOf (w 1) 53 48)
    code := Cap.ofBytes ((b.drop 0x10).take 32), arg := Cap.ofBytes ((b.drop 0x30).take 32)
    l2mask := BitVec.ofNat 48 (w 10), l2lo := bitsOf (w 11) 23 0, l2hi := bitsOf (w 11) 55 32
    fsize := bitsOf (w 12) 17 0, rbase := bitsOf (w 12) 49 32, fgroup := bitsOf (w 13) 19 0
    tvec := BitVec.ofNat 64 (w 14), mctab := bitsOf (w 15) 51 0
    slot := bitsOf (w 16) 7 0, off := BitVec.ofNat 64 (w 17)
    wslot := bitsOf (w 18) 7 0, first := bitsOf (w 18) 15 0, count := bitsOf (w 18) 31 16, gid := bitsOf (w 18) 47 32
    bquota := bitsOf (w 18) 59 48
    woff := BitVec.ofNat 64 (w 19), tslot := bitsOf (w 19) 7 0
    wval := BitVec.ofNat 64 (w 20), toff := BitVec.ofNat 64 (w 20) }

/-- Bits that are reserved in a word of a record, by its type and level (Table 1). -/
def reservedBits (type level i : Nat) : Nat :=
  let graph := type == 2
  let all := 2 ^ 64 - 1
  let above := fun n => all - (2 ^ n - 1)
  match i with
  | 0 => 0xFFF00000 + 0xF000 + 0xF0 + (if type = 1 then 0 else 0x800) + (if graph then above 32 else 0)
  | 1 => if graph then all else above 54
  | 10 => above 48
  | 11 => above 56 + 0xFF000000
  | 12 => if !graph ∧ level = 4 then above 50 + 0xFFFC0000 else all
  | 13 => if !graph ∧ level = 4 then above 20 else all
  | 15 => above 52
  | 16 => if type = 0 then all else above 8
  | 17 => if type = 0 then all else 0
  | 18 => if type = 0 then all else if graph then above 60 else above 8
  | 19 => if type = 0 then all else if graph then above 8 else 0
  | 20 => if type = 0 then all else 0
  | _ => if 21 ≤ i then all else 0

/-- Jobs that a level takes within this package (R47, R368). -/
def jobLimit (level : Nat) : Nat := if level = 0 then 2 ^ 32 else min 288 (levelLimit level)

/-- Beyond reserved bits, what of a word fails (Table 2, BAD_RECORD). -/
def wordBad (r : LaunchRec) (i : Nat) : Bool :=
  match i with
  | 0 => decide (2 < r.type)
      || (if r.type = 2 then decide (2 < r.level) else decide (4 < r.level) || decide (jobLimit r.level < r.jobs))
      || (r.type == 0 && r.jobs == 0)
  | 1 => r.type != 2 && r.mask != 0 && !r.mask.getLsbD 0
  | 11 => decide (0x800000 < r.l2hi) || decide (r.l2hi < r.l2lo)
  | 12 => r.type != 2 && r.level == 4
      && (decide (levelLimit 4 < r.fsize) || decide (r.fsize < r.rbase + r.jobs))
  | 15 => r.mctab % 0x10000 != 0
  | 18 => r.type == 2 && (r.count == 0 || decide (65535 < r.first + r.count - 1))
  | _ => false

/-- The first word of a record that fails: BAD_RECORD (R367). -/
def recordBad (b : Bytes) : Option Nat :=
  let r := parseRec b
  if 2 < r.type then some 0
  else (List.range 32).find? fun i => (word64 b (8 * i)) &&& reservedBits r.type r.level i != 0 || wordBad r i

/-! ## Capabilities (R367) -/

/-- A capability's bounds hold `n` bytes at an offset from its cursor. -/
def capHolds (c : Cap) (off n : Nat) : Bool :=
  decide (c.lower.toNat ≤ c.cursor.toNat + off) && decide (c.cursor.toNat + off + n ≤ c.upper.toNat)

/-- CODE and ARG (Table 1). A node carries its own entry. -/
def codeBad (r : LaunchRec) : Bool :=
  r.code.type.toNat != tyCode || !r.code.rights.getLsbD rX
    || (r.type != 2 && (decide (r.entry < r.code.lower.toNat) || decide (r.code.upper.toNat < r.entry + 4)))
def argBad (r : LaunchRec) : Bool :=
  r.arg.type.toNat != tyCaps || !r.arg.rights.getLsbD rLC || r.arg.asid != r.code.asid

/-- The capability of an argument slot (R366): none where ARG does not hold it or it cannot be read. -/
def State.argSlot (s : State) (arg : Cap) (n : Nat) : Did (Option Cap) :=
  if !capHolds arg (32 * n) 32 then .ok none
  else match s.unitRead arg (arg.cursor.toNat + 32 * n) 32 with
    | .ok b => .ok (some (Cap.ofBytes b))
    | .later => .later
    | .fails _ => .ok none

/-- A slot capability: the job's ASID, type DATA, and the rights named (R367). -/
def slotOk (r : LaunchRec) (rights : List Nat) (c : Cap) : Bool :=
  c.type.toNat == tyData && c.asid == r.code.asid && c.rights &&& rightsOf rights == rightsOf rights && c != Cap.null

/-- Check a slot whose capability must hold a range. -/
def State.needSlot (s : State) (r : LaunchRec) (index n off len : Nat) : Chk Cap :=
  match s.argSlot r.arg n with
  | .later => .waits
  | .ok (some c) => if slotOk r [rR] c && capHolds c off len then .ok c else .fails stBadCap index
  | _ => .fails stBadCap index

/-- A check and what follows it. -/
def Chk.bind {α β : Type} (x : Chk α) (f : α → Chk β) : Chk β :=
  match x with
  | .ok a => f a
  | .waits => .waits
  | .fails a b => .fails a b

/-- The graph object's extents, which GSLOT's capability must hold: header, node table, edge table (Table 4). -/
def graphParts (h : Bytes) : List (Nat × Nat) :=
  [(word64 h 8, 160 * bitsOf (word64 h 0) 15 0), (word64 h 16, 8 * bitsOf (word64 h 0) 63 32)]

/-- BAD_CAP: CODE, ARG, then the slots in the order of their fields. Answers the slots' capabilities by slot number. -/
def State.checkCaps (s : State) (r : LaunchRec) : Chk (Sparse Cap) :=
  if codeBad r then .fails stBadCap 2
  else if argBad r then .fails stBadCap 6
  else match r.type with
    | 1 => (s.needSlot r 16 r.slot r.off.toNat 4).bind fun c =>
        if r.cw then (s.needSlot r 18 r.wslot r.woff.toNat 8).bind fun d =>
          .ok ((Sparse.set Cap.null [] r.slot c).set Cap.null r.wslot d)
        else .ok (Sparse.set Cap.null [] r.slot c)
    | 2 => (s.needSlot r 16 r.slot r.off.toNat 64).bind fun c =>
        match s.unitRead c (c.cursor.toNat + r.off.toNat) 64 with
        | .later => .waits
        | .fails _ => .fails stBadCap 16
        | .ok h =>
          if (graphParts h).any fun p => p.2 != 0 && !capHolds c (r.off.toNat + p.1) p.2 then .fails stBadCap 16
          else (s.needSlot r 19 r.tslot (r.toff.toNat + 64 * r.first) (64 * r.count)).bind fun d =>
            .ok ((Sparse.set Cap.null [] r.slot c).set Cap.null r.tslot d)
    | _ => .ok []

/-! ## The multicast group table (R221) -/

/-- COUNT and the ranks of an entry of a table (Table 7 of chapter 6). -/
def State.mcCount (s : State) (table g : Nat) : Nat := (s.mem8 (table + 256 * g)).toNat % 256
def State.mcRanks (s : State) (table g : Nat) : List Nat :=
  (List.range (s.mcCount table g)).map fun j => bytesToNat (s.mem.read (table + 256 * g + 8 + 4 * j) 4)

/-- The first place of a list that is not below a limit, or repeats an earlier one. -/
def rankBad (size : Nat) : Nat → List Nat → List Nat → Option Nat
  | _, _, [] => none
  | i, seen, r :: l => if size ≤ r ∨ seen.contains r then some i else rankBad size (i + 1) (r :: seen) l

/-- The byte offset in the table of what fails in an entry. -/
def State.mcBad (s : State) (table size g : Nat) : Option Nat :=
  if 62 < s.mcCount table g then some (256 * g)
  else (rankBad size 0 [] (s.mcRanks table g)).map fun j => 256 * g + 8 + 4 * j

/-- SIZE of the groups that a record's jobs form: for a graph, the limit of its gangs (log 33). -/
def LaunchRec.size (r : LaunchRec) : Nat :=
  if r.type = 2 then levelLimit r.level
  else match r.level with
    | 0 => 1
    | 4 => r.fsize
    | _ => r.jobs

/-- BAD_MCAST (R367). -/
def State.tableBad (s : State) (r : LaunchRec) : Option Nat :=
  if r.mctab = 0 then none else (List.range 256).findSome? (s.mcBad r.mctab r.size)

/-! ## The graph object (R370, R371, Tables 4 to 6) -/

/-- An operand descriptor at a place of a node record. -/
def parseOperand (b : Bytes) (o : Nat) : GOperand :=
  { slot := bitsOf (word64 b o) 7 0, off := bitsOf (word64 b o) 63 16, len := bitsOf (word64 b (o + 8)) 31 0
    fmt := bitsOf (word64 b o) 11 8 }

/-- A node record (Table 5). -/
def parseNode (b : Bytes) : GNode :=
  let w0 := word64 b 0
  let w1 := word64 b 8
  let w2 := word64 b 16
  { entry := bitsOf w0 47 0, mask := BitVec.ofNat 6 (bitsOf w0 53 48), die := bitsOf w0 55 54
    reuse := bitsOf w1 32 32 == 1, tidx := bitsOf w1 36 33, slim := bitsOf w1 44 37, block := bitsOf w1 31 12
    layer := bitsOf w1 11 0, gang := bitsOf w2 7 0, rank := bitsOf w2 15 8
    ins := (List.range (min 4 (bitsOf w1 47 45))).map fun j => parseOperand b (0x20 + 16 * j)
    outs := (List.range (min 4 (bitsOf w1 50 48))).map fun j => parseOperand b (0x60 + 16 * j) }

/-- An edge (Table 6). -/
def parseEdge (b : Bytes) : GEdge :=
  let w := word64 b 0
  { src := bitsOf w 11 0, dst := bitsOf w 27 16, dist := bitsOf w 32 32 == 1 }

/-- Slots of 64 KiB that a node's entry takes (R381). -/
def GNode.slots (n : GNode) : Nat :=
  (64 + (n.ins.map (·.len)).headD 0 + (n.outs.map (·.len)).sum + 65535) / 65536

/-- What of a node's own words fails (R371): the offsets in its record. -/
def nodeFaults (r : LaunchRec) (b : Bytes) : List Nat :=
  let n := parseNode b
  let w1 := word64 b 8
  (if bitsOf (word64 b 0) 63 56 ≠ 0 ∨ n.entry % 4 ≠ 0 ∨ !n.mask.getLsbD 0 then [0] else [])
  ++ (if bitsOf w1 63 51 ≠ 0 ∨ 4 < bitsOf w1 50 48 ∨ 4 < bitsOf w1 47 45 then [8] else [])
  ++ (if n.reuse ∧ (n.ins = [] ∨ 6 < (n.ins.map (·.fmt)).headD 0 ∨ 16 < n.slots ∨ (r.bquota ≠ 0 ∧ r.bquota < n.slots))
      then [8] else [])
  ++ (if bitsOf (word64 b 16) 63 16 ≠ 0 then [16] else [])
  ++ (if word64 b 24 ≠ 0 then [24] else [])

/-- What of an operand fails, given its slot's capability. -/
def operandFaults (r : LaunchRec) (out : Bool) (cap : Option Cap) (b : Bytes) (o : Nat) : List Nat :=
  let p := parseOperand b o
  let fits := match cap with
    | some c => slotOk r (if out then [rR, rW] else [rR]) c && capHolds c p.off p.len
    | none => false
  (if bitsOf (word64 b o) 15 12 ≠ 0 ∨ 9 < p.fmt ∨ !fits then [o] else [])
  ++ (if bitsOf (word64 b (o + 8)) 63 32 ≠ 0 ∨ p.len = 0 then [o + 8] else [])

/-- The places of a node's operands: whether it is an output, and its offset in the record. -/
def GNode.places (n : GNode) : List (Bool × Nat) :=
  (List.range n.ins.length).map (fun j => (false, 0x20 + 16 * j))
    ++ (List.range n.outs.length).map fun j => (true, 0x60 + 16 * j)

/-- Read each slot that the graph's operands name. -/
def State.graphSlots (s : State) (arg : Cap) : List Nat → Sparse Cap → Did (Sparse Cap)
  | [], t => .ok t
  | n :: l, t => match s.argSlot arg n with
    | .later => .later
    | .ok (some c) => s.graphSlots arg l (t.set Cap.null n c)
    | _ => s.graphSlots arg l t

/-- The gang that a node belongs to breaks a rule of R378. -/
def gangBad (level : Nat) (nodes : List GNode) (n : GNode) : Bool :=
  n.gang != 0 &&
    let members := nodes.filter fun m => m.gang == n.gang
    (level == 0 || members.any (fun m => m.die != n.die) || n.reuse || decide (members.length ≤ n.rank)
      || decide (1 < (members.filter fun m => m.rank == n.rank).length) || decide (levelLimit level < members.length))

/-- The nodes that DIST 0 edges lead to from the nodes of a list, those included (fuel: the number of nodes). -/
def reach (edges : List GEdge) : Nat → List Nat → List Nat
  | 0, l => l
  | f + 1, l => reach edges f (l ++ ((edges.filter fun e => !e.dist && l.contains e.src && !l.contains e.dst).map (·.dst)).eraseDups)

/-- An edge lies on a cycle of DIST 0 edges. -/
def GEdge.cyclic (edges : List GEdge) (nodes : Nat) (e : GEdge) : Bool :=
  !e.dist && (reach edges nodes [e.dst]).contains e.src

/-- The graph that a record names. -/
structure Graph where
  nodes : List GNode
  edges : List GEdge
  caps : Sparse Cap
  deriving DecidableEq, Repr

/-- Node records beyond the 2,048 that a die takes: their places. -/
def dieOver (nodes : List GNode) : List Nat :=
  (List.range nodes.length).filter fun i =>
    decide (2048 < ((nodes.take (i + 1)).filter fun n => n.die == (nodes.map (·.die)).getD i 0).length)

/-- Every failing field of a graph object, by its offset from the header. -/
def graphFaults (r : LaunchRec) (noff eoff : Nat) (recs : List Bytes) (edges : List Bytes) (caps : Sparse Cap) : List Nat :=
  let nodes := recs.map parseNode
  let es := edges.map parseEdge
  let at' := fun i => noff + 160 * i
  (recs.zipIdx.flatMap fun p =>
    let n := parseNode p.1
    let cap := fun o =>
      let c := Sparse.get Cap.null caps (parseOperand p.1 o).slot
      if c = Cap.null then none else some c
    (nodeFaults r p.1 ++ (n.places.flatMap fun (q : Bool × Nat) => operandFaults r q.1 (cap q.2) p.1 q.2)
      ++ (if gangBad r.level nodes n then [16] else [])).map (at' p.2 + ·))
  ++ (dieOver nodes).map at'
  ++ (edges.zipIdx.flatMap fun p =>
    let e := parseEdge p.1
    let w := word64 p.1 0
    if bitsOf w 63 33 ≠ 0 ∨ bitsOf w 31 28 ≠ 0 ∨ bitsOf w 15 12 ≠ 0 ∨ nodes.length ≤ e.src ∨ nodes.length ≤ e.dst
      ∨ e.cyclic es nodes.length
    then [eoff + 8 * p.2] else [])

/-- What of the header fails (Table 4): the first offset. -/
def headerBad (h : Bytes) : Option Nat :=
  let w0 := word64 h 0
  if bitsOf w0 31 16 ≠ 0 ∨ bitsOf w0 15 0 = 0 ∨ 4096 < bitsOf w0 15 0 ∨ 65535 < bitsOf w0 63 32 then some 0
  else if word64 h 8 % 32 ≠ 0 then some 8
  else if word64 h 16 % 8 ≠ 0 then some 16
  else ([3, 4, 5, 6, 7].find? fun i => word64 h (8 * i) != 0).map (8 * ·)

/-- Read a graph object once and check it (R371). `caps` are the slots that the record itself names. -/
def State.readGraph (s : State) (r : LaunchRec) (caps : Sparse Cap) : Chk Graph :=
  let c := Sparse.get Cap.null caps r.slot
  let base := c.cursor.toNat + r.off.toNat
  match s.unitRead c base 64 with
  | .later => .waits
  | .fails _ => .fails stBadCap 16
  | .ok h => match headerBad h with
    | some o => .fails stBadGraph (o / 8)
    | none =>
      let nn := bitsOf (word64 h 0) 15 0
      let ne := bitsOf (word64 h 0) 63 32
      match s.unitRead c (base + word64 h 8) (160 * nn), (if ne = 0 then .ok [] else s.unitRead c (base + word64 h 16) (8 * ne)) with
      | .ok nb, .ok eb =>
        let recs := chunks 160 nn nb
        let edges := chunks 8 ne eb
        let used := ((recs.map parseNode).flatMap fun n => (n.ins ++ n.outs).map (·.slot)).eraseDups
        match s.graphSlots r.arg used caps with
        | .later => .waits
        | .fails _ => .fails stBadCap 6
        | .ok all =>
          match graphFaults r (word64 h 8) (word64 h 16) recs edges all with
          | [] => .ok { nodes := recs.map parseNode, edges := edges.map parseEdge, caps := all }
          | f :: l => .fails stBadGraph (l.foldl min f / 8)
      | .fails _, _ | _, .fails _ => .fails stBadCap 16
      | _, _ => .waits

/-- Every check of a record, in the order of R367. -/
def State.checkRecord (s : State) (raw : Bytes) : Chk Graph :=
  let r := parseRec raw
  match recordBad raw with
  | some i => .fails stBadRecord i
  | none => (s.checkCaps r).bind fun caps =>
    match s.tableBad r with
    | some o => .fails stBadMcast (o / 8)
    | none => if r.type = 2 then s.readGraph r caps else .ok { nodes := [], edges := [], caps := caps }

/-- The reads of a graph object that can be made out so far: its header, its tables, and the slots of its operands. -/
def State.graphReads (s : State) (r : LaunchRec) (slot : Nat → List (Cap × Nat × Nat)) : List (Cap × Nat × Nat) :=
  match s.argSlot r.arg r.slot with
  | .ok (some c) =>
    let base := c.cursor.toNat + r.off.toNat
    (c, base, 64) :: match s.unitRead c base 64 with
      | .ok h =>
        ((graphParts h).filter fun p => p.2 != 0 && capHolds c (r.off.toNat + p.1) p.2).map (fun p => (c, base + p.1, p.2))
        ++ match s.unitRead c (base + word64 h 8) (160 * bitsOf (word64 h 0) 15 0) with
          | .ok nb => (((chunks 160 (bitsOf (word64 h 0) 15 0) nb).map parseNode).flatMap fun n =>
              (n.ins ++ n.outs).map (·.slot)).eraseDups.flatMap slot
          | _ => []
      | _ => []
  | _ => []

/-- What the checks of a record read, as far as it can be made out: ARG's slots, the graph object (R475). -/
def State.recordReads (s : State) (raw : Bytes) : List (Cap × Nat × Nat) :=
  let r := parseRec raw
  let slot : Nat → List (Cap × Nat × Nat) := fun n => if capHolds r.arg (32 * n) 32 then [(r.arg, r.arg.cursor.toNat + 32 * n, 32)] else []
  match r.type with
  | 1 => slot r.slot ++ if r.cw then slot r.wslot else []
  | 2 => slot r.slot ++ slot r.tslot ++ s.graphReads r slot
  | _ => []

/-- Ask for what the checks of a record must read that is not resident. -/
def State.askRecord (s : State) (raw : Bytes) : State := (s.recordReads raw).foldl (fun s p => s.askRange p.1 p.2.1 p.2.2) s

/-- Report the uncorrectable sectors that the checks of a record have read. -/
def State.reportRecord (s : State) (raw : Bytes) : State := (s.recordReads raw).foldl (fun s p => s.reportRead p.1 p.2.1 p.2.2) s

/-! ## Completion (R365, R367) -/

/-- The status word of a launch (Table 3). -/
def Failure.word (f : Failure) : DWord :=
  BitVec.ofNat 64 (f.status + 256 * f.cause + 2 ^ 16 * (f.index % 2 ^ 24) + 2 ^ 40 * (f.step % 2 ^ 16))
def Launch.status (l : Launch) : DWord :=
  match l.failure with
  | some f => f.word
  | none => 0

/-- A launch that fails its checks (R365). -/
def Launch.fail (l : Launch) (status index gts : Nat) : Launch :=
  { l with begun := true, stopped := true, insts := [], failure := some { status := status, index := index, gts := gts } }

/-- The launch of a number. -/
def State.launchOf (s : State) (n : Nat) : Option Launch := s.units.launches.find? fun l => l.n == n

end Sys2Proof.Machine
end

