-- ==== Sys2Proof/Machine/SysRegs.lean ====
section
/-! DEFINITION. System registers by number: the one operation that reads a register and the one that writes it (R75,
R124, R148, R392, R444, R449, R454, R456). -/
namespace Sys2Proof.Machine

/-! ## What Furlong's and Bushel's registers count (R392) -/

def Inst.pooledNow (i : Inst) : Bool := match i.phase with | .pooled .. => true | _ => false

/-- The die of an instance: a node's, or for a job the one that has the pool of jobs now (R370, R377). -/
def State.instDie (s : State) (l : Launch) (i : Inst) : Nat := if l.fields.type = 2 then i.die else s.firstDie

/-- Launches that have not completed. -/
def State.liveLaunches (s : State) : List Launch := s.units.launches.filter fun l => l.result.isNone

/-- Candidates in a die's ready pool (R377). -/
def State.poolCount (s : State) (die : Nat) : Nat :=
  (s.liveLaunches.map fun l => (l.insts.filter fun i => i.pooledNow && s.instDie l i == die).length).sum

/-- Nodes of a die that are instantiated and not done. -/
def State.instCount (s : State) (die : Nat) : Nat :=
  (s.liveLaunches.map fun l =>
    if l.fields.type = 2 then (l.insts.filter fun i => i.phase != .done && i.die == die).length else 0).sum

/-- The most that a 13-bit count shows. -/
def countMax : Nat := 8191

/-- Slots of a die's Bushel slice, and those that entries take (R381). -/
def bushelSlots : Nat := 4096
def slotSum (l : List BushelEntry) : Nat := (l.map (·.slots)).sum

/-- Spawned launches that have not completed (R388). -/
def State.spawnedCount (s : State) : Nat := (s.units.launches.filter fun l => l.spawner.isSome && l.result.isNone).length

/-- Records begun and not completed. -/
def State.begunCount (s : State) : Nat := (s.units.launches.filter fun l => l.begun && l.result.isNone).length

/-! ## Semaphores (R456) -/

/-- OWNER of a user. -/
def ownerOf : SemUser → Nat
  | .port0 => 0
  | .port1 => 1
  | .device => 2

def State.sem (s : State) (i : Nat) : DWord := s.host.sem.get 0 i

/-- A read of a semaphore takes it where it is free. -/
def State.takeSem (s : State) (i : Nat) (u : SemUser) : State :=
  if (s.sem i).getLsbD 63 then s
  else { s with host.sem := s.host.sem.set 0 i (BitVec.ofNat 64 (2 ^ 63 + ownerOf u)) }

/-- A write of 0 by the owner frees a semaphore; any other write is ignored. -/
def State.writeSem (s : State) (i : Nat) (u : SemUser) (v : DWord) : State :=
  if v = 0 ∧ (s.sem i).getLsbD 63 ∧ (s.sem i).toNat % 4 = ownerOf u then { s with host.sem := s.host.sem.set 0 i 0 } else s

/-! ## Reads -/

/-- The pseudo-channel that PCSEL selects, on the die of the core. -/
def State.selectedPc (s : State) : Nat := 128 * s.cur.die + s.ctx.pcsel.toNat

/-- PWRSTAT (Table 8 of chapter 16). -/
def State.pwrstat (s : State) : DWord :=
  let d := s.dieSt s.cur.die
  BitVec.ofNat 64 (2 ^ 63 * bit (d.requests != []) + 2 ^ 62 * bit d.refused + 16 * bit d.lastOff + s.quarterOff.toNat)

/-- XCLK. -/
def State.xclkReg (s : State) : DWord :=
  let d := s.dieSt s.cur.die
  BitVec.ofNat 64 (2 ^ 32 * d.held.toNat + 2 ^ 31 * bit (d.stage != .idle) + d.ratio.toNat)

/-- REFCFG, REFPOST and REFCNT of a pseudo-channel. -/
def PcSt.cfgReg (p : PcSt) : DWord := BitVec.ofNat 64 (2 ^ 17 * bit p.abusy + 256 * p.rhold)
def PcSt.postReg (p : PcSt) : DWord := BitVec.ofNat 64 ((List.range 16).foldl (fun n b => n + 16 ^ b * p.post.get 0 b) 0)
def PcSt.cntReg (p : PcSt) : DWord := p.forced ++ p.postponed

/-- MSCPIN. -/
def MscSt.pinReg (m : MscSt) : DWord :=
  BitVec.ofNat 64 (2 ^ 63 * bit m.pinning.isSome + 2 ^ 62 * bit m.pinFail + m.pinFrame.toNat)

/-- What a register of the memory-system range reads (R444, R449, R454). -/
def State.readMemReg (s : State) (n : Nat) : DWord :=
  let p := s.pc s.selectedPc
  let m := s.slice s.cur.die
  if n = 0x100 then s.ctx.pcsel.setWidth 64
  else if n = 0x101 then p.cfgReg
  else if n = 0x102 then p.postReg
  else if n = 0x103 then p.cntReg
  else if n = 0x110 then BitVec.ofNat 64 (2 ^ 63 * bit m.flush.isSome)
  else if n = 0x111 then m.pinReg
  else if n = 0x11C then BitVec.ofNat 64 m.pinnedCount
  else if 0x118 ≤ n ∧ n ≤ 0x11F then m.cnt.get 0 (n - 0x118)
  else if 0x120 ≤ n ∧ n ≤ 0x127 then s.ctx.latcnt.get 0 (n - 0x120)
  else if n = 0x130 then m.off.setWidth 64
  else if n = 0x132 then s.pwrstat
  else if n = 0x138 then s.xclkReg
  else 0

/-- What a register of Furlong and Bushel reads (R392). -/
def State.readFurlongReg (s : State) (n : Nat) : DWord :=
  if n < 0x204 then BitVec.ofNat 64 (65536 * min countMax (s.instCount (n - 0x200)) + min countMax (s.poolCount (n - 0x200)))
  else if n = 0x204 then BitVec.ofNat 64 (65536 * s.begunCount + s.spawnedCount)
  else if n ≤ 0x208 then BitVec.ofNat 64 (bushelSlots - slotSum (s.units.bushel.get [] (n - 0x205)))
  else s.units.totals.get 0 (n - 0x210)

/-- What a register of the host side reads; a semaphore as it stands (R456). -/
def State.readHostReg (s : State) (n : Nat) : DWord :=
  if n = 0x300 then s.host.funcmode.setWidth 64
  else if n = 0x308 then BitVec.ofNat 64 s.gts
  else if 0x340 ≤ n ∧ n ≤ 0x37F then s.sem (n - 0x340)
  else 0

/-- What a register holds, without any effect of reading it. -/
def State.peekCsr (s : State) (n : Nat) : DWord :=
  if n < 0x100 then s.readCtxReg n
  else if n < 0x200 then s.readMemReg n
  else if n < 0x300 then s.readFurlongReg n
  else s.readHostReg n

/-- A semaphore's number. -/
def semOf (n : Nat) : Option Nat := if 0x340 ≤ n ∧ n ≤ 0x37F then some (n - 0x340) else none

/-- READ A SYSTEM REGISTER; a read of SEMn is a test-and-set (R456). -/
def readCsr (n : Nat) : M DWord := do
  let s ← get
  match semOf n with
  | some i => set (s.takeSem i .device)
  | none => pure ()
  pure (s.peekCsr n)

/-! ## Writes -/

/-- A request of PWRREQ (Table 8 of chapter 16): the region and whether it wakes; none where a field is not allowed. -/
def pwrRequest (die : Nat) (v : DWord) : Option (Region × Bool) :=
  let kind := (v.extractLsb' 62 2).toNat
  let on := v.getLsbD 61
  let bank := (v.extractLsb' 16 2).toNat
  let target := (v.extractLsb' 8 7).toNat
  let mask := v.setWidth 8
  match kind with
  | 1 => if target < 72 then some (.scratchpad die target bank mask, on) else none
  | 2 => if target < 4 ∧ bank = 0 ∧ mask = 0 then some (.quarter target, on) else none
  | 3 => if target < 72 ∧ mask = 0 then some (.bank die target bank, on) else none
  | _ => none

/-- Start a flush (R449). -/
def writeFlush (v : DWord) : M Unit := do
  let s ← get
  let frame := (v.setWidth 31).toNat
  match (v.extractLsb' 61 2).toNat with
  | 1 => set (s.mscFlushAll s.cur.die)
  | 2 => do
    need (s.frameOfDie s.cur.die frame) .illegalOperand
    set (s.mscFlushFrame s.cur.die frame)
  | _ => fault .illegalOperand

/-- Start a pin or an unpin (R446); one that is running finishes first. -/
def writePin (v : DWord) : M Unit := do
  let s ← get
  let frame := (v.setWidth 31).toNat
  need (s.frameOfDie s.cur.die frame) .illegalOperand
  match (v.extractLsb' 60 2).toNat with
  | 1 => set ((s.finishPin s.cur.die).startPin s.cur.die (.pin frame) frame)
  | 2 => set ((s.finishPin s.cur.die).startPin s.cur.die (.unpin frame) frame)
  | _ => fault .illegalOperand

/-- A write of REFCFG (R454). -/
def State.writeRefcfg (s : State) (v : DWord) : State :=
  let n := s.selectedPc
  let s1 := s.setPc n { s.pc n with rhold := (v.extractLsb' 8 8).toNat }
  if v.getLsbD 16 then s1.refAlign n (s.pc n).now else s1

/-- Write a register of the memory-system range (R444, R449, R454). -/
def writeMemReg (n : Nat) (v : DWord) : M Unit := do
  let s ← get
  let die := s.cur.die
  if n = 0x100 then modCtx fun c => { c with pcsel := v.setWidth 7 }
  else if n = 0x101 then set (s.writeRefcfg v)
  else if n = 0x103 then
    set (s.setPc s.selectedPc { s.pc s.selectedPc with forced := v.extractLsb' 32 32, postponed := v.setWidth 32 })
  else if n = 0x110 then writeFlush v
  else if n = 0x111 then writePin v
  else if n = 0x11C then pure ()
  else if 0x118 ≤ n ∧ n ≤ 0x11F then
    set (s.setSlice die { s.slice die with cnt := (s.slice die).cnt.set 0 (n - 0x118) v })
  else if 0x120 ≤ n ∧ n ≤ 0x127 then modCtx fun c => { c with latcnt := c.latcnt.set 0 (n - 0x120) v }
  else if n = 0x130 then do
    need (!(s.slice die).wayRefused (v.setWidth 16)) .illegalOperand
    set (s.setWays die (v.setWidth 16))
  else if n = 0x131 then
    match pwrRequest die v with
    | some (r, on) => set (s.requestRegion die r on)
    | none => fault .illegalOperand
  else if n = 0x138 then do
    need (s.ratioOk die (v.setWidth 2)) .illegalOperand
    set (s.startXclk die (v.setWidth 2))
  else pure ()

/-- Write a register of the host side, for one of its users (R456). -/
def State.writeHostReg (s : State) (n : Nat) (u : SemUser) (v : DWord) : State :=
  match semOf n with
  | some i => s.writeSem i u v
  | none => if n = 0x300 then { s with host.funcmode := v.setWidth 6 } else s

/-- WRITE A SYSTEM REGISTER at a level that may: the fields marked RW take the value; a value that the register
forbids raises ILLEGAL_OPERAND and changes nothing (R148). -/
def writeCsr (n : Nat) (v : DWord) : M Unit := do
  if n < 0x100 then writeCtxReg n v
  else if n < 0x200 then writeMemReg n v
  else if n < 0x300 then
    if 0x210 ≤ n then modify fun s => { s with units.totals := s.units.totals.set 0 (n - 0x210) v } else pure ()
  else modify fun s => s.writeHostReg n .device v

end Sys2Proof.Machine
end

