-- ==== Sys2Proof/Machine/Seq.lean ====
section
/-! DEFINITION. The meanings of the sequencer's instructions (R125 to R151). -/
namespace Sys2Proof.Machine

/-- Fetch goes on after an instruction of `n` words. -/
def next (n : Nat) : M Unit := modify fun s => s.advance n

/-- A target outside the code capability raises CAP_BOUNDS at the transfer (R64). -/
def checkTarget (t : Int) : M Unit := do
  let s ← get
  let c := s.ctx.job.code
  if t < c.lower.toNat ∨ t + 4 > c.upper.toNat then
    raise { cause := .capBounds, toff := t.toNat, tinfo := 4, cap := c }
  else pure ()

/-- The loops that a transfer to `t` at the current link depth leaves open (R132): a loop that does not hold `t`
closes, and every loop inside it. -/
def openAt (depth t : Nat) : List Loop → List Loop
  | [] => []
  | l :: r =>
    let rest := openAt depth t r
    if rest.length < r.length then rest
    else if l.depth = depth ∧ ¬ (l.start ≤ t ∧ t < l.stop) then r else l :: r

/-- A taken BR, BRQ or JMPQ (R128, R132). Of a target's checks (R126) the transfer makes that of its bounds; that the word
there is a tail is found by its fetch, after the transfer (log 57). -/
def branchTo (t : Int) : M Unit := do
  checkTarget t
  modify fun s => { s.jump t.toNat with ctx.seq.loops := openAt s.ldepth t.toNat s.ctx.seq.loops }

/-- Pop bits of bq until `n` have been taken; what has been popped is kept (R126). -/
def popBits : Nat → M Unit
  | 0 => pure ()
  | n + 1 => do
    let b ← popBq
    modSeq fun q => { q with bits := q.bits ++ [b] }
    popBits n

/-- The first popped bit is bit 0 (R125). -/
def bitsValue (l : List Bool) : Nat := l.foldr (fun b n => bit b + 2 * n) 0

/-! ## NOP and branches -/

/-- NOP (R70). -/
def execNop (s : State) : Out := seqWord 1 none (next 1) s

/-- BR (R125). -/
def execBr (c : BitVec 4) (w : BitVec 16) (s : State) : Out := seqWord 1 none (do
  let s ← get
  if brCond s c then branchTo (brTarget s.ctx.seq.fetch w) else next 1) s

/-- BRQ (R125, R126). -/
def execBrq (z : BitVec 1) (w : BitVec 16) (s : State) : Out := seqWord 1 none (do
  let s ← get
  popBits (1 - s.ctx.seq.bits.length)
  let s' ← get
  let b := s'.ctx.seq.bits.headD false
  if b != z.getLsbD 0 then branchTo (brTarget s.ctx.seq.fetch w) else next 1
  modSeq fun q => { q with bits := [] }) s

/-- JMPQ (R125, R126). -/
def execJmpq (n : BitVec 2) (w : BitVec 16) (s : State) : Out := seqWord 1 none (do
  let s ← get
  popBits (n.toNat + 1 - s.ctx.seq.bits.length)
  let s' ← get
  branchTo (brTarget s.ctx.seq.fetch w + 4 * bitsValue s'.ctx.seq.bits)
  modSeq fun q => { q with bits := [] }) s

/-- Return addresses that the link stack holds (R121). -/
def linkDepth : Nat := 8

/-- CALL (R125, R127): one whose predicate does not hold raises nothing, also with 8 entries on the link stack (log 57). -/
def execCall (c : BitVec 4) (w : BitVec 16) (s : State) : Out := seqWord 1 none (do
  let s ← get
  if brCond s c then do
    need (decide (s.ldepth < linkDepth)) .illegalOperand
    let t := brTarget s.ctx.seq.fetch w
    checkTarget t
    set ({ s.jump t.toNat with ctx.seq.links := (s.ctx.seq.fetch + 4) :: s.ctx.seq.links })
  else next 1) s

/-- RET (R127, R132). -/
def execRet (s : State) : Out := seqWord 1 none (do
  let s ← get
  match s.ctx.seq.links with
  | [] => fault .illegalOperand
  | t :: r => do
    checkTarget t
    set ({ s.jump t with ctx.seq.links := r
                         ctx.seq.loops := s.ctx.seq.loops.filter fun l => decide (l.depth ≤ r.length) })) s

/-! ## Hardware loops -/

/-- The innermost active loop at the current link depth. -/
def State.innerLoop (s : State) : Option Loop := s.ctx.seq.loops.find? fun l => l.depth == s.ldepth

/-- LOOP and LOOPQ (R131): `count` is none for LOOPQ. With COUNT 0 fetch reaches E as by sequential fetch, so that an
enclosing loop that ends there makes its end check (log 57). -/
def openLoop (d : BitVec 5) (len : BitVec 10) (n : Nat) (count : Option (BitVec 27)) : M Unit := do
  let s ← get
  let start := s.ctx.seq.fetch + 4 * n
  let stop := start + 4 * len.toNat
  need (!s.ctx.seq.loops.any fun l => l.ctr == d.toNat) .illegalOperand
  match s.innerLoop with
  | some l => need (decide (stop ≤ l.stop)) .illegalOperand
  | none => pure ()
  if count = some 0 then
    set ((s.advance (n + len.toNat)).setLc d.toNat 0)
  else
    let kind := if count.isSome then LoopKind.counted else .queued
    let l : Loop := { ctr := d.toNat, start := start, stop := stop, depth := s.ldepth, kind := kind }
    set ({ (s.advance n).setLc d.toNat (count.getD 0) with ctx.seq.loops := l :: s.ctx.seq.loops })

/-- LOOP (R130, R131). -/
def execLoop (d : BitVec 5) (len : BitVec 10) (count : BitVec 27) (s : State) : Out :=
  seqWord 2 (loopFault d len) (openLoop d len 2 (some count)) s

/-- LOOPQ (R130, R131). -/
def execLoopq (d : BitVec 5) (len : BitVec 10) (s : State) : Out :=
  seqWord 1 (loopFault d len) (openLoop d len 1 none) s

/-- LBRK (R134). -/
def execLbrk (c : BitVec 4) (s : State) : Out := seqWord 1 none (do
  let s ← get
  match s.innerLoop with
  | none => fault .illegalOperand
  | some l =>
    if brCond s c then
      set ({ (s.jump l.stop).setLc l.ctr 0 with ctx.seq.loops := s.ctx.seq.loops.erase l })
    else next 1) s

/-! ## Predicates and loop registers -/

/-- PSET (R129). -/
def execPset (d a b f : BitVec 5) (s : State) : Out := seqWord 1 (psetFault d a b f) (modify fun s =>
  (s.advance 1).setPred d.toNat (psetCond s f.toNat a.toNat b.toNat)) s

/-- PLOG (R129). -/
def execPlog (d a b f : BitVec 5) (s : State) : Out := seqWord 1 (plogFault d a b f) (modify fun s =>
  (s.advance 1).setPred d.toNat (plogCond s f.toNat a.toNat b.toNat)) s

/-- PPOP (R129). -/
def execPpop (p : PopWord) (s : State) : Out := seqWord 1 (opnd (bad8 p.d || p.f != 0)) (do
  let b ← popBq
  modify fun s => (s.advance 1).setPred p.d.toNat b) s

/-- Entry n of row sn of the launch's loop-register table (R121, R135, R373); 0 for a DIRECT launch. The read is an
acquire at package scope, which drops the core's L1 lines (R92). -/
def rowEntry (n : Nat) : M Word := do
  let s ← get
  let o := s.ctx.job.rowOff + 64 * s.ctx.seq.sn.toNat + 4 * n
  if s.ctx.job.direct then pure 0
  else match s.readDirect s.ctx.job.rowCap o 4 with
    | .bytes b => do
      await (!s.follows s.ctx.job.rowCap o 4)
      set (s.l1Drop s.cur.core)
      pure (BitVec.ofNat 32 (bytesToNat b))
    | .later => wait
    | .bad t => raise t
    | .dataBad t => raise { t with noskip := false }

/-- KLD (R135, Table 11). -/
def execKld (d a : BitVec 5) (imm : BitVec 10) (s : State) : Out := seqWord 1 (kldFault d a imm) (do
  let s ← get
  let v ← match a.toNat with
    | 0 => pure (imm.signExtend 32)
    | 1 => pure ((s.kreg d.toNat <<< 10) ||| imm.setWidth 32)
    | 2 => rowEntry imm.toNat
    | _ => pure (s.kreg imm.toNat)
  modify fun s => (s.advance 1).setK d.toNat v) s

/-- SNQ (R135). -/
def execSnq (d f : BitVec 5) (s : State) : Out := seqWord 1 (opnd (bad16 d || decide (3 ≤ f.toNat))) (modify fun s =>
  (s.advance 1).setK d.toNat (match f.toNat with
    | 0 => s.ctx.seq.sn.setWidth 32
    | 1 => s.ctx.job.stepCount.setWidth 32
    | _ => s.ctx.job.firstStep.setWidth 32)) s

/-! ## Rendezvous and phases -/

/-- An engine retires a marker at once: nothing stands before it in its queue, and nothing holds it. -/
def State.idleEngine (s : State) (e : Engine) : Bool := (s.queue e).isEmpty && !s.heldBy e && !inMask s.lag e

/-- The engines, other than SEQ, that a mask names. -/
def namedEngines (mask : BitVec 6) : List Engine := engines.filter (inMask mask)

/-- The bits of engines in a mask (R14). -/
def maskOf (l : List Engine) : BitVec 6 := l.foldl (fun m e => m ||| (1#6 <<< e.code)) 0

/-- Place the markers of a meeting in the queues that cannot retire them at once. -/
def State.placeMarkers (s : State) (l : List Engine) (it : Item) : State := l.foldl (fun s e => s.enqueue e it) s

/-- RDV (R136 to R138). -/
def execRdv (mask : BitVec 6) (s : State) : Out := seqWord 1 (rdvFault mask) (do
  let s ← get
  let late := (namedEngines mask).filter fun e => !s.idleEngine e
  await (late.all fun e => s.room e 1)
  let n := s.ctx.seq.nextMeet
  let s1 := (s.advance 1).placeMarkers late (.rdv n s.ctx.seq.fetch)
  if late = [] then set s1
  else
    let m : Meeting := { n := n, mask := mask &&& 0x3E, pending := maskOf late }
    let s2 := s1.modSeq fun q => { q with rdvs := q.rdvs ++ [m], nextMeet := n + 1 }
    set (if inMask mask .seq then s2.modSeq fun q => { q with wait := .rdv n } else s2)) s

/-- PHASE (R48, R136 to R138). -/
def execPhase (mask : BitVec 6) (s : State) : Out := seqWord 1 none (do
  let s ← get
  let late := (namedEngines mask).filter fun e => !s.idleEngine e
  await (late.all fun e => s.room e 1)
  let n := s.ctx.seq.nextMeet
  let s1 := (s.advance 1).placeMarkers late (.phase n s.ctx.seq.fetch)
  let m : Meeting := { n := n, mask := mask &&& 0x3E, pending := maskOf late }
  let s2 := s1.modSeq fun q => { q with phases := q.phases ++ [m], nextMeet := n + 1 }
  set (if inMask mask .seq then s2.modSeq fun q => { q with wait := .phase n } else s2)) s

/-! ## WAIT -/

/-- The reference tick: 100 MHz against a GTS in nanoseconds (R1, R6). -/
def State.refTick (s : State) : Nat := s.gts / 10

/-- A TLARM stands in ACC's queue (R140). -/
def State.tlarmQueued (s : State) : Bool :=
  (s.queue .acc).any fun it => match it with
    | .instr (.tlarm ..) .. => true
    | _ => false

/-- The slots that a mask names. -/
def waitSlots (mask : BitVec 4) : List Nat := (List.range 4).filter fun i => mask.getLsbD i

/-- WAIT (R139, R140): the first evaluation starts the time-out; WAIT_SATISFIED and WAIT_TIMEOUT end it. -/
def execWait (all : BitVec 1) (mask : BitVec 4) (exp : BitVec 5) (mant : BitVec 16) (s : State) : Out :=
  seqWord 2 (opnd (mask == 0)) (do
    let s ← get
    await (!s.tlarmQueued)
    need ((waitSlots mask).all fun i => s.ctx.seq.slots.get .unarmed i != .unarmed) .illegalOperand
    modCtx fun c => { c with
      seq.wait := .waiting s.refTick (all == 1) mask exp.toNat mant.toNat
      blockedAt := some s.gts }) s

/-! ## Traps -/

/-- TRAP (R143). -/
def execTrap (imm : BitVec 10) (s : State) : Out :=
  seqWord 1 none (raise { cause := .trapInstr, tinfo := imm.toNat }) s

/-- Every landing has been written (R34). -/
def State.landed (s : State) : Bool := s.ctx.vec.slots.isEmpty

/-- RFT (R144 to R147). -/
def execRft (skip : BitVec 1) (s : State) : Out := seqWord 1 none (do
  privileged
  let s ← get
  need s.ctx.seq.intrap .illegalOperand
  await (s.drained && s.landed)
  set (s.returnFromTrap (skip == 1))) s

/-! ## System registers and time stamps -/

/-- Deliver a value to x[d] in ACC's program order (R148). -/
def deliverX (d : BitVec 5) (v : DWord) (addr : Nat) : M Unit := do
  let s ← get
  if s.idleEngine .acc ∧ !s.xBusy d then set (s.setX d v)
  else do
    await (s.room .acc 1)
    set (s.enqueue .acc (.deliver d v addr))

/-- CSRR (R148). -/
def execCsrr (d : BitVec 5) (r : BitVec 12) (f : BitVec 3) (s : State) : Out := seqWord 1 (csrFault r f 0) (do
  let s ← get
  need (s.ctx.seq.sup || taskMayRead r.toNat) .priv
  await (s.idleEngine .acc && !s.xBusy d || s.room .acc 1)
  let v ← readCsr r.toNat
  next 1
  deliverX d v s.ctx.seq.fetch) s

/-- CSRW (R148): holds fetch until ACC has retired every word before it. -/
def execCsrw (d : BitVec 5) (r : BitVec 12) (f : BitVec 3) (s : State) : Out := seqWord 1 (csrFault r f 2) (do
  let s ← get
  need (s.ctx.seq.sup || taskMayWrite r.toNat) .priv
  await (s.queue .acc).isEmpty
  let x ← rdX d
  let old := s.peekCsr r.toNat
  writeCsr r.toNat (csrValue f.toNat old x)
  next 1) s

/-- TSTAMP (R149). -/
def execTstamp (d : BitVec 5) (s : State) : Out := seqWord 1 none (do
  let s ← get
  await (s.idleEngine .acc && !s.xBusy d || s.room .acc 1)
  next 1
  deliverX d (BitVec.ofNat 64 s.gts) s.ctx.seq.fetch) s

/-! ## Queue binding -/

/-- QCFG (R22, R150). -/
def execQcfg (d a b f : BitVec 5) (s : State) : Out := seqWord 1 (qcfgFault d a b f) (do
  let s ← get
  await s.drained
  if d.toNat = 8 then do
    need s.ctx.bq.bits.isEmpty .queueProtocol
    set ({ s.advance 1 with ctx.bq := { s.ctx.bq with producer := if f = 0 then Engine.ofCode a.toNat else none } })
  else do
    let q := s.dataQ d.toNat
    need (q.entries.isEmpty && q.reserved.isEmpty) .queueProtocol
    let bind := match Engine.ofCode a.toNat, Engine.ofCode b.toNat with
      | some p, some c => if f = 0 then some (p, c) else none
      | _, _ => none
    set ((s.advance 1).setDataQ d.toNat { q with bind := bind })) s

/-! ## Scheduling and ending -/

/-- END (R38, R146, R151): fetch stops, and the stages of R38 follow. -/
def execJobEnd (s : State) : Out := seqWord 1 none (do
  let s ← get
  need (!s.ctx.seq.intrap) .illegalOperand
  modSeq fun q => { q with wait := .ending 1 }) s

/-- HALT (R151). -/
def execHalt (s : State) : Out := seqWord 1 none (do
  privileged
  let s ← get
  await (s.drained && s.landed)
  set ((s.advance 1).endJob .halted .halted)) s

/-- CTXSEL (R37, R151): also to the bank that a halted context occupies, which the core then does not run. -/
def execCtxsel (n : BitVec 2) (s : State) : Out := seqWord 1 none (do
  privileged
  let s ← get
  let k := 4 * s.cur.core + n.toNat
  if k = s.cur then next 1
  else do
    await (!s.bankWaking.get false k)
    need (!s.bankOff.get false k) .powerState
    need (s.bankCtx k).resident .illegalOperand
    await s.landingsSettled
    set ((s.advance 1).switchTo k)) s

end Sys2Proof.Machine
end

