-- ==== Sys2Proof/Machine/Jobs.lean ====
section
/-! DEFINITION. Jobs in context banks: how one starts (R38, R121, R152, R368, R375), where it is placed (R377, R378), which
context of a core runs (R36, R37, R57, R379), and YIELD (R151). -/
namespace Sys2Proof.Machine

/-! ## Starting a job -/

/-- What a bank keeps when no context occupies it: its scratchpad, and which of its banks are gated. -/
def Ctx.vacate (c : Ctx) : Ctx := { pad := c.pad, padBad := c.padBad, padGated := c.padGated, padWaking := c.padWaking }

/-- The seeds of a context's generators at job start (R76). -/
def startSeeds : Sparse Word := engines.foldl (fun t e => t.set 0 e.code (seedOf 0x2545F491 e)) []

/-- The bits of TVEC that are not reserved (Table 4 of chapter 4). -/
def tvecBits : DWord := 0x0000FFFFFFFFFFFD

/-- A DMEMB value (Table 6 of chapter 1). -/
def dmembOf (level group size rank : Nat) : DWord :=
  BitVec.ofNat 64 (level + 256 * (group % 2 ^ 20) + 2 ^ 28 * size + 2 ^ 46 * rank)

/-- An operand's capability, narrowed to its extent (R375). -/
def narrowCap (c : Cap) (p : GOperand) (rights : BitVec 8) : Cap :=
  let o := c.cursor.toNat + p.off
  { c with cursor := BitVec.ofNat 64 o, lower := BitVec.ofNat 48 o, upper := BitVec.ofNat 48 (o + p.len),
           rights := c.rights &&& rights }

/-- The capability registers of a task (R375). -/
def Launch.nodeCaps (l : Launch) (n : GNode) : List Cap :=
  let get := fun (rights : BitVec 8) (p : GOperand) => narrowCap (Sparse.get Cap.null l.caps p.slot) p rights
  padTo 4 Cap.null (n.ins.map (get 0x41)) ++ n.outs.map (get 0x82)

/-- Capability registers from a list, c0 first. -/
def capTable (l : List Cap) : Sparse Cap := l.zipIdx.foldl (fun t p => Sparse.set Cap.null t p.2 p.1) []

/-- Loop registers from a row (R373). -/
def rowTable (l : List Word) : Sparse Word := l.zipIdx.foldl (fun t p => Sparse.set 0 t p.2 p.1) []

/-- The job that an instance of a launch becomes. -/
def Launch.jobOf (l : Launch) (i : Inst) (uid : Nat) : Job :=
  let f := l.fields
  let node := l.nodes[i.node]?
  { uid := uid, task := node.isSome, launch := some l.n, node := i.node, step := i.step
    mask := (node.map (·.mask)).getD f.mask
    code := f.code, direct := f.type != 2
    stepCount := if f.type = 2 then BitVec.ofNat 16 f.count else 1
    firstStep := BitVec.ofNat 16 f.first * (if f.type = 2 then 1 else 0)
    rowCap := if f.type = 2 then Sparse.get Cap.null l.caps f.tslot else Cap.null
    rowOff := if f.type = 2 then (Sparse.get Cap.null l.caps f.tslot).cursor.toNat + f.toff.toNat else 0
    arg := f.arg }

/-- The context of a job at its start, in a bank (R38, R121, R152, R158, R281, R368, R375). -/
def Launch.contextOf (l : Launch) (old : Ctx) (i : Inst) (uid : Nat) (dmemb : DWord) (gts : Nat) : Ctx :=
  let f := l.fields
  let node := l.nodes[i.node]?
  let entry := (node.map (·.entry)).getD f.entry
  { old.vacate with
    status := .live, job := l.jobOf i uid
    seq := { fetch := entry, entry := entry, sup := f.sup, tvec := f.tvec &&& tvecBits, dmemb := dmemb
             k := rowTable i.row, sn := BitVec.ofNat 16 i.step }
    acc := { c := capTable (f.arg :: (node.map l.nodeCaps).getD []) }
    gen := startSeeds
    units := { l2mask := f.l2mask, l2lo := f.l2lo, l2hi := f.l2hi, mctab := f.mctab }
    prio := f.prio, basePrio := f.prio, readySince := gts, runSince := gts }

/-- The instance's phase, in its launch. -/
def Launch.setPhase (l : Launch) (step node : Nat) (ph : NodePhase) : Launch :=
  { l with insts := l.insts.map fun i => i.setPhase step node ph }

/-- The effective priority of a candidate; of another instance, the one it was dispatched at. -/
def Inst.level (i : Inst) : Nat := match i.phase with
  | .pooled _ p => p
  | _ => i.prio

/-- The instance is dispatched, if it is the one named. -/
def Inst.dispatch (i : Inst) (step node uid : Nat) (dmemb : DWord) : Inst :=
  if i.step = step ∧ i.node = node then { i with phase := .running uid, sent := true, dmemb := dmemb, prio := i.level } else i

/-- Start the job of an instance in a bank. The start is an acquire side at package scope (Table 2 of chapter 3): the
core's L1 is dropped. -/
def State.startJob (s : State) (l : Launch) (i : Inst) (k : BankKey) (dmemb : DWord) : State :=
  let uid := s.units.nextUid
  let s1 := ((s.setBank k (l.contextOf (s.bankCtx k) i uid dmemb s.gts)).l1Drop k.core).inBank k State.rejoin
  { s1 with units.nextUid := uid + 1 }.modLaunch l.n fun l => { l with insts := l.insts.map fun (x : Inst) => x.dispatch i.step i.node uid dmemb }

/-! ## Placement (R378) -/

/-- Banks of a core that contexts occupy. -/
def State.occupied (s : State) (core : Nat) : Nat := ((List.range 4).filter fun b => (s.bankCtx (4 * core + b)).resident).length

/-- Insert a core by its load, then its number. -/
def insertCore (p : Nat × Nat) : List (Nat × Nat) → List (Nat × Nat)
  | [] => [p]
  | q :: r => if p.1 < q.1 ∨ (p.1 = q.1 ∧ p.2 < q.2) then p :: q :: r else q :: insertCore p r

/-- Cores of a range with a free bank, in the order in which placement takes them. -/
def State.freeCores (s : State) (first n : Nat) : List Nat :=
  (((List.range n).map (first + ·)).filter fun c => (s.freeBank c).isSome).foldl
    (fun l c => insertCore (s.occupied c, c) l) [] |>.map (·.2)

/-- The units of a level, as first core and cores: clusters, dies, the package (R1, R47). -/
def unitsOf : Nat → List (Nat × Nat)
  | 0 => (List.range 288).map fun c => (c, 1)
  | 1 => (List.range 36).map fun c => (8 * c, 8)
  | 2 => (List.range 4).map fun d => (72 * d, 72)
  | _ => [(0, 288)]

/-- The banks, on distinct cores of the first unit that has enough of them, for `n` jobs. -/
def State.placesFor (s : State) (units : List (Nat × Nat)) (n : Nat) : Option (List BankKey) :=
  units.findSome? fun u =>
    let l := s.freeCores u.1 u.2
    if n ≤ l.length then some ((l.take n).filterMap s.freeBank) else none

/-- A live group of a level has a number (R46). -/
def State.groupLive (s : State) (level n : Nat) : Bool := s.contexts.any fun c => c.group == (level, n % 2 ^ 20)

/-- The first number from `n` on that no live group of a level has (fuel: the contexts of the package). -/
def State.freshFrom (s : State) (level : Nat) : Nat → Nat → Nat
  | 0, n => n
  | f + 1, n => if s.groupLive level n then State.freshFrom s level f (n + 1) else n
def State.freshGroup (s : State) (level : Nat) : Nat := s.freshFrom level 8192 s.units.nextGroup

/-- Start several instances at their places, in order: the jobs of a group. -/
def State.startAll (s : State) (l : Launch) (dmemb : Inst → DWord) : List (Inst × BankKey) → State
  | [] => s
  | p :: r => (s.startJob l p.1 p.2 (dmemb p.1)).startAll l dmemb r

/-! ## Ready contexts (R140, R379) -/

/-- A wait slot is satisfied (R250). -/
def Ctx.slotHolds (c : Ctx) (gts : Nat) : WaitSlot → Bool
  | .unarmed => false
  | .timeline k v => decide (v.toNat ≤ (c.units.tl.get {} k).counter)
  | .gen off v => decide ((BitVec.ofNat 32 (padWord c.pad (off + 8)) - v).toNat < 2 ^ 31)
  | .gts t => decide (t.toNat ≤ gts)
  | .phase v => decide (v.toNat ≤ c.seq.phnum.toNat)

/-- The slots of a mask that are satisfied. -/
def Ctx.waitSat (c : Ctx) (gts : Nat) (mask : BitVec 4) : BitVec 4 :=
  (waitSlots mask).foldl (fun m i => if c.slotHolds gts (c.seq.slots.get .unarmed i) then m ||| (1#4 <<< i) else m) 0

/-- The condition of a WAIT holds (R140). -/
def waitDone (all : Bool) (mask sat : BitVec 4) : Bool := if all then sat == mask else sat != 0

/-- The time-out of a WAIT has expired (R140). -/
def waitExpired (tick t0 exp mant : Nat) : Bool := mant != 0 && decide (mant * 2 ^ exp ≤ tick - t0)

/-- A WAIT, going on or stopped by a switch, that neither holds nor has timed out. -/
def Ctx.waitBlocks (c : Ctx) (gts : Nat) : DispWait → Bool
  | .waiting t0 all mask exp mant => !waitDone all mask (c.waitSat gts mask) && !waitExpired (gts / 10) t0 exp mant
  | _ => false

/-- An ACQ or an attention instruction at the head of its queue waits for its grant. -/
def Ctx.holdBlocks (c : Ctx) : Bool :=
  let waits := fun (addr : Nat) => c.units.asks.any fun a => a.addr == addr && !a.done && a.cmd.isNone
  (match c.iq.get [] (Engine.code .acc) with
    | .instr (.acq ..) a _ _ _ _ _ :: _ => waits a
    | _ => false)
  || match c.iq.get [] (Engine.code .mat) with
    | .instr (.atts ..) a _ _ _ _ _ :: _ | .instr (.attv ..) a _ _ _ _ _ :: _ | .instr (.attm ..) a _ _ _ _ _ :: _ => waits a
    | _ => false

/-- A TRYACQ at the head of ACC's queue waits for the answer of the object's engine: for an entry there, or at a held
link (R230, R434). -/
def State.tryBlocks (s : State) (c : Ctx) : Bool :=
  match c.iq.get [] (Engine.code .acc) with
  | .instr (.tryacq _ a _) .. :: _ =>
    let k := handleKey (if a = 0 then 0 else c.acc.x.get 0 a.toNat)
    s.reach k.1 == .held || s.poolQueued k || (s.takeObj k).isNone
  | _ => false

/-- The TJOIN at a context's fetch point waits for its launch. -/
def State.joinBlocks (s : State) (c : Ctx) : Bool :=
  match c.seq.join with
  | some n => s.units.launches.any fun l => l.n == n && l.result.isNone
  | none => false

/-- A context is ready (R379). -/
def State.readyCtx (s : State) (c : Ctx) : Bool :=
  c.status == .live && !c.waitBlocks s.gts c.seq.wait && !c.waitBlocks s.gts c.waited && !c.holdBlocks
    && !s.tryBlocks c && !s.joinBlocks c

/-- Bytes for the scratchpad of a context wait at a channel or at the link engine (R379, R417). -/
def State.bytesWait (s : State) (x : Ctx) : Bool :=
  (s.units.cmds.any fun c => c.started && !c.held && match c.body with
    | .copy y => s.padSide y.dst x
    | .scrub .. | .eqpeek .. => c.uid == x.job.uid
    | .lrecv _ _ dst _ _ part => s.padSide dst x && part != []
    | _ => false)
  || s.units.link.land.any fun b => b.uid == x.job.uid && b.bytes != []

/-- A spilled context is ready, by its record (R417). -/
def State.readyRec (s : State) (r : SpillRec) : Bool :=
  let c := { r.ctx with pad := r.apply r.ctx.pad }
  s.readyCtx c || s.bytesWait c

/-! ## Cycles (R465) -/

/-- Cycles of a core since a GTS, at its present level. -/
def State.cyclesSince (s : State) (core t : Nat) : Nat := s.coreCycles core (s.gts - t)

/-- 2^20 cycles have passed (R377, R379). -/
def longCycles : Nat := 2 ^ 20

/-! ## The choice of the running context (R379) -/

/-- The ready resident contexts of a core other than one, in the order that begins after it. -/
def State.others (s : State) (cur : BankKey) : List BankKey :=
  ([1, 2, 3].map fun i => 4 * cur.core + (cur.bank + i) % 4).filter fun k => s.readyCtx (s.bankCtx k)

/-- The bank of the highest effective priority of a list; the first of equals. -/
def State.highest (s : State) (l : List BankKey) : Option BankKey :=
  l.foldl (fun b k => match b with
    | some x => if (s.bankCtx x).prio < (s.bankCtx k).prio then some k else b
    | none => some k) none

/-- A context can leave its core: its landings have their data, and no trap is pending (R34, R37). -/
def Ctx.canStop (c : Ctx) : Bool := c.status != .live || (c.settled && c.trapPending.isNone)

/-- Switch a core to another of its banks, wherever the focus is. -/
def State.switchCore (s : State) (k : BankKey) : State :=
  let s1 := (s.focus (s.runningBank k.core)).switchTo k
  if s.cur.core = k.core then s1 else s1.focus s.cur

/-- The bank that a core switches to of itself: no context runs, the running one is over, is not ready, or a ready one has a higher
effective priority. -/
def State.switchTarget (s : State) (core : Nat) : Option BankKey :=
  let cur := s.runningBank core
  let c := s.bankCtx cur
  let runs := s.runsBank cur
  match s.highest (s.others cur ++ if !runs && s.readyCtx c then [cur] else []) with
  | none => none
  | some k =>
    if !runs || (c.canStop && (!s.readyCtx c || decide (c.prio < (s.bankCtx k).prio))) then some k else none

/-- CONTEXT_SWITCH (R37, R379). Operand: core. -/
def execContextSwitch (s : State) : Out :=
  match s.switchTarget s.operand.n0 with
  | some k => .next (s.switchCore k)
  | none => notDue "CONTEXT_SWITCH"

/-- The bank that takes over when a time slice is over. -/
def State.sliceTarget (s : State) (core : Nat) : Option BankKey :=
  let cur := s.runningBank core
  let c := s.bankCtx cur
  match (s.others cur).find? fun k => (s.bankCtx k).prio == c.prio with
  | none => none
  | some k => if c.canStop ∧ longCycles ≤ s.cyclesSince core c.runSince then some k else none

/-- TIMESLICE_EXPIRY (R379). Operand: core. -/
def execTimesliceExpiry (s : State) : Out :=
  match s.sliceTarget s.operand.n0 with
  | some k => .next (s.switchCore k)
  | none => notDue "TIMESLICE_EXPIRY"

/-- CONTEXT_AGING (R379). Operand: bank. -/
def execContextAging (s : State) : Out :=
  let k : BankKey := s.operand.n0
  let c := s.bankCtx k
  whenDue "CONTEXT_AGING"
    (s.readyCtx c && !s.runsBank k && decide (c.prio < 7) && decide (longCycles ≤ s.cyclesSince k.core c.readySince))
    (s.setBank k { c with prio := c.prio + 1, readySince := s.gts })

/-- A context that has become ready again. -/
def Ctx.unblock (c : Ctx) (gts : Nat) : Ctx := { c with blockedAt := none, readySince := gts }

/-- CONTEXT_READY (R379, R417). Operand: bank; with `flag`, the number of a spill record. -/
def execContextReady (s : State) : Out :=
  if s.operand.flag then
    match s.units.spilled.find? fun r => r.id == s.operand.n0 with
    | some r => whenDue "CONTEXT_READY" (s.readyRec r && r.ctx.blockedAt.isSome)
        { s with units.spilled := s.units.spilled.map (·.modIf r.id fun c => c.unblock s.gts) }
    | none => notDue "CONTEXT_READY"
  else
    let c := s.bankCtx s.operand.n0
    whenDue "CONTEXT_READY" (s.readyCtx c && c.blockedAt.isSome) (s.setBank s.operand.n0 (c.unblock s.gts))

/-- YIELD (R151): offers the core to another ready resident context. -/
def execYield (s : State) : Out := seqWord 1 none (do
  let s ← get
  match s.highest (s.others s.cur) with
  | none => next 1
  | some k => do
    await s.landingsSettled
    set ((s.advance 1).switchTo k)) s

end Sys2Proof.Machine
end

