-- ==== Sys2Proof/Machine/Bushel.lean ====
section
/-! DEFINITION. Bushel, the reuse cache (R381 to R386, R390): its entries, probes, skip copies and fills. -/
namespace Sys2Proof.Machine

/-! ## Entries (R381) -/

def State.bushelOf (s : State) (die : Nat) : List BushelEntry := s.units.bushel.get [] die
def State.setBushel (s : State) (die : Nat) (l : List BushelEntry) : State :=
  { s with units.bushel := s.units.bushel.set [] die l }

/-- The tag of a node's entry. -/
def Launch.tag (l : Launch) (n : GNode) : Nat × Nat × Nat × Nat := (l.fields.code.asid.toNat, l.fields.gid, n.layer, n.block)
def BushelEntry.tag (e : BushelEntry) : Nat × Nat × Nat × Nat := (e.asid, e.gid, e.layer, e.block)
def State.entryOf (s : State) (die : Nat) (t : Nat × Nat × Nat × Nat) : Option BushelEntry := (s.bushelOf die).find? fun e => e.tag == t

/-- Skip copies in progress keep an entry from a fill and from removal (R386). -/
def State.tagBusy (s : State) (die : Nat) (t : Nat × Nat × Nat × Nat) : Bool :=
  s.units.launches.any fun l => l.insts.any fun i => i.phase == .skip && match l.nodes[i.node]? with
    | some n => n.die == die && l.tag n == t
    | none => false

/-- Probes, skip copies and fills in progress keep an entry from eviction (R385). -/
def State.tagHeld (s : State) (die : Nat) (t : Nat × Nat × Nat × Nat) : Bool :=
  s.units.launches.any fun l => l.insts.any fun i => (i.phase == .probe || i.phase == .skip || i.phase == .fill) &&
    match l.nodes[i.node]? with
    | some n => n.die == die && l.tag n == t
    | none => false

/-! ## Counters (R391, Table 8) -/

def cProbes : Nat := 0
def cSkips : Nat := 1
def cEqual : Nat := 2
def cOver : Nat := 3
def cLimit : Nat := 4
def cStale : Nat := 5
def cMisses : Nat := 6
def cFills : Nat := 7
def cEvicts : Nat := 8
def cNofill : Nat := 9

/-- One more in a saturating counter of a table. -/
def bump (t : Sparse DWord) (i : Nat) : Sparse DWord := t.set 0 i (satInc (t.get 0 i))

/-- Count at a launch and in the package totals. -/
def State.countBushel (s : State) (launch i : Nat) : State :=
  { s with units.totals := bump s.units.totals i }.modLaunch launch fun l => { l with counters := bump l.counters i }

/-! ## Instances -/

/-- The instance of a node at a step. -/
def Launch.inst (l : Launch) (step node : Nat) : Option Inst := l.insts.find? fun i => i.step == step && i.node == node

/-- The launch, the instance and the node that an operand names: launch, step, node. -/
def State.nodeNamed (s : State) : Option (Launch × Inst × GNode) :=
  (s.launchOf s.operand.n0).bind fun l => (l.inst s.operand.n1 s.operand.n2).bind fun i =>
    l.nodes[i.node]?.map fun n => (l, i, n)

/-- Put an instance into a phase. -/
def State.setInst (s : State) (l : Launch) (i : Inst) (ph : NodePhase) : State :=
  s.modLaunch l.n fun l => l.setPhase i.step i.node ph

/-- An operand's slot, and the offset of its tile. -/
def Launch.operandCap (l : Launch) (p : GOperand) : Cap := Sparse.get Cap.null l.caps p.slot
def Launch.operandOff (l : Launch) (p : GOperand) : Nat := (l.operandCap p).cursor.toNat + p.off

/-- A step that can only ask for its pages, or has asked (R475). -/
def waitPages (row : String) (s asked : State) : Out :=
  whenDue row (decide (s.units.pageReqs.length < asked.units.pageReqs.length)) asked

/-- Candidates that a die's ready pool holds at most (R377). -/
def poolSize : Nat := 4096

/-! ## BUSHEL_PROBE (R382) -/

/-- The values of a tile (FMT 0 to 6). -/
def tileVals (fmt : Nat) (b : Bytes) : List FVal :=
  let size := fmtBits fmt / 8
  (chunks size (b.length / size) b).map fun e =>
    let v := bytesToNat e
    match fmt with
    | 5 => .ofInt (BitVec.ofNat 8 v).toInt
    | 6 => .ofInt v
    | _ => (fmtOf fmt).val v

/-- D: the ordered sum of the rounded distances. -/
def tileDistance (fmt : Nat) (x r : Bytes) : FVal :=
  osum (List.zipWith (fun a b => fp32.val (fp32.rne (a.sub false b).abs)) (tileVals fmt x) (tileVals fmt r))

/-- What a probe finds: the counter it raises besides PROBES, and whether it skips. -/
def probeOutcome (e : Option BushelEntry) (step slim fmt : Nat) (tau : Word) (x : Bytes) : Nat × Bool :=
  match e with
  | none => (cMisses, false)
  | some e =>
    if e.step + 1 ≠ step then (cStale, false)
    else
      let d := tileDistance fmt x e.ref
      let t := fp32.val tau.toNat
      if d.eq t then (cEqual, false)
      else if !d.lt t then (cOver, false)
      else if slim ≤ e.skips then (cLimit, false)
      else (cSkips, true)

/-- The instance with its captured input, if it is the one named. -/
def Inst.capture (i : Inst) (step node : Nat) (b : Bytes) : Inst :=
  if i.step = step ∧ i.node = node then { i with captured := some b } else i

/-- A probe whose input has been read. -/
def State.probe (s : State) (l : Launch) (i : Inst) (n : GNode) (p : GOperand) (x : Bytes) : State :=
  let r := probeOutcome (s.entryOf n.die (l.tag n)) i.step n.slim p.fmt (i.row.getD n.tidx 0) x
  let s1 := ((s.countBushel l.n cProbes).countBushel l.n r.1).modLaunch l.n fun l =>
    { l with insts := l.insts.map (·.capture i.step i.node x) }
  s1.setInst l i (if r.2 then .skip else .pooled s.gts l.fields.prio)

/-- BUSHEL_PROBE (R382, R475). Operand: launch, step, node. -/
def execBushelProbe (s : State) : Out :=
  match s.nodeNamed with
  | some (l, i, n) => match n.ins, decide (i.phase = .probe) with
    | p :: _, true => match s.unitRead (l.operandCap p) (l.operandOff p) p.len with
      | .ok x =>
        let s1 := s.reportRead (l.operandCap p) (l.operandOff p) p.len
        let r := probeOutcome (s.entryOf n.die (l.tag n)) i.step n.slim p.fmt (i.row.getD n.tidx 0) x
        whenDue "BUSHEL_PROBE" (r.2 || decide (s.poolCount n.die < poolSize)) (s1.probe l i n p x)
      | .later => waitPages "BUSHEL_PROBE" s (s.askRange (l.operandCap p) (l.operandOff p) p.len)
      | .fails _ => notDue "BUSHEL_PROBE"
    | _, _ => notDue "BUSHEL_PROBE"
  | none => notDue "BUSHEL_PROBE"

/-! ## SKIP_COPY (R383) -/

/-- Write each cached output to its operand. -/
def State.copyOuts (s : State) (l : Launch) : List (GOperand × Bytes) → Did State
  | [] => .ok s
  | p :: r => match s.unitWrite (l.operandCap p.1) (l.operandOff p.1) (p.2.take p.1.len) with
    | .ok s1 => s1.copyOuts l r
    | g => g

/-- An entry after a skip at a step, if it is the one with a tag. -/
def BushelEntry.skipped (e : BushelEntry) (t : Nat × Nat × Nat × Nat) (step stamp : Nat) : BushelEntry :=
  if e.tag = t then { e with step := step, skips := e.skips + 1, use := stamp } else e

/-- Ask for the pages of a node's outputs. -/
def State.askOuts (s : State) (l : Launch) (n : GNode) : State :=
  n.outs.foldl (fun s p => s.askRange (l.operandCap p) (l.operandOff p) p.len) s

/-- SKIP_COPY (R383, R475). Operand: launch, step, node. -/
def execSkipCopy (s : State) : Out :=
  match s.nodeNamed with
  | some (l, i, n) => match s.entryOf n.die (l.tag n), decide (i.phase = .skip) with
    | some e, true => match s.copyOuts l (n.outs.zip e.outs) with
      | .ok s1 =>
        .next ((s1.setBushel n.die ((s1.bushelOf n.die).map (·.skipped (l.tag n) i.step i.stamp))).setInst l i .done)
      | .later => waitPages "SKIP_COPY" s (s.askOuts l n)
      | .fails _ => notDue "SKIP_COPY"
    | _, _ => notDue "SKIP_COPY"
  | none => notDue "SKIP_COPY"

/-! ## BUSHEL_FILL (R384, R385) -/

/-- FUNCMODE bit f is 0: hardware mode (R458). -/
def State.hardware (s : State) (f : Nat) : Bool := !s.host.funcmode.getLsbD f

/-- The entry to evict first: least USE, ties to the earlier fill. -/
def oldestEntry (l : List BushelEntry) : Option BushelEntry :=
  l.foldl (fun b e => match b with
    | some x => if e.use < x.use ∨ (e.use = x.use ∧ e.order < x.order) then some e else b
    | none => some e) none

/-- Enough slots are free in a slice for `need`, and the launch's quota is kept; `l` leaves out the tag's own entry. -/
def slotsSuffice (l : List BushelEntry) (launch need quota : Nat) : Bool :=
  decide (slotSum l + need ≤ bushelSlots)
    && (quota == 0 || decide (slotSum (l.filter fun e => e.launch == launch) + need ≤ quota))

/-- Evict candidates until the slots suffice (fuel: the entries). Answers what remains and how many went. -/
def evictFor (launch need quota : Nat) (cand : BushelEntry → Bool) : Nat → List BushelEntry → Nat → List BushelEntry × Nat
  | 0, l, k => (l, k)
  | f + 1, l, k =>
    if slotsSuffice l launch need quota then (l, k)
    else match oldestEntry (l.filter cand) with
      | none => (l, k)
      | some e => evictFor launch need quota cand f (l.erase e) (k + 1)

/-- `k` counts in one counter. -/
def State.countTimes (s : State) (launch i : Nat) : Nat → State
  | 0 => s
  | k + 1 => (s.countBushel launch i).countTimes launch i k

/-- A fill that is dropped (R385): the tag's entry is gone; in host-assisted mode the host is told. -/
def State.dropFill (s : State) (l : Launch) (i : Inst) (n : GNode) (rest : List BushelEntry) : State :=
  let s1 := (s.setBushel n.die rest).countBushel l.n cNofill
  if s.hardware 3 then s1
  else s1.post (srcDie n.die) kBushel
    (BitVec.ofNat 64 (2 ^ 48 * l.fields.code.asid.toNat + 2 ^ 32 * l.fields.gid + 2 ^ 20 * n.layer + n.block))
    (BitVec.ofNat 64 (i.step + 2 ^ 16 * n.slots + 2 ^ 32 * n.die))

/-- Fill a node's entry, under the capacity policy. -/
def State.fillEntry (s : State) (l : Launch) (i : Inst) (n : GNode) (outs : List Bytes) : State :=
  let t := l.tag n
  let rest := (s.bushelOf n.die).filter fun e => e.tag != t
  let q := l.fields.bquota
  let cand := fun (e : BushelEntry) => (q == 0 || e.launch == l.n) && !s.tagHeld n.die e.tag
  let r := if s.hardware 3 ∧ slotsSuffice (rest.filter fun e => !cand e) l.n n.slots q
    then evictFor l.n n.slots q cand (rest.length + 1) rest 0 else (rest, 0)
  if slotsSuffice r.1 l.n n.slots q then
    let e : BushelEntry :=
      { asid := l.fields.code.asid.toNat, gid := l.fields.gid, layer := n.layer, block := n.block, launch := l.n
        order := s.units.nextFill, step := i.step, skips := 0, use := i.stamp, ref := i.captured.getD [], outs := outs
        slots := n.slots }
    let s1 := { s.setBushel n.die (r.1 ++ [e]) with units.nextFill := s.units.nextFill + 1 }
    (s1.countTimes l.n cEvicts r.2).countBushel l.n cFills
  else s.dropFill l i n rest

/-- Read a node's outputs. -/
def State.readOuts (s : State) (l : Launch) : List GOperand → Did (List Bytes)
  | [] => .ok []
  | p :: r => match s.unitRead (l.operandCap p) (l.operandOff p) p.len with
    | .ok b => match s.readOuts l r with
      | .ok bs => .ok (b :: bs)
      | g => g
    | .later => .later
    | .fails t => .fails t

/-- Report the uncorrectable sectors among a node's outputs. -/
def State.reportOuts (s : State) (l : Launch) (n : GNode) : State :=
  n.outs.foldl (fun s p => s.reportRead (l.operandCap p) (l.operandOff p) p.len) s

/-- BUSHEL_FILL (R384, R385, R475). Operand: launch, step, node. -/
def execBushelFill (s : State) : Out :=
  match s.nodeNamed with
  | some (l, i, n) =>
    if i.phase ≠ .fill ∨ s.tagBusy n.die (l.tag n) then notDue "BUSHEL_FILL"
    else match s.readOuts l n.outs with
      | .ok outs => .next (((s.reportOuts l n).fillEntry l i n outs).setInst l i .done)
      | .later => waitPages "BUSHEL_FILL" s (s.askOuts l n)
      | .fails _ => notDue "BUSHEL_FILL"
  | none => notDue "BUSHEL_FILL"

/-! ## RUINV (R387, R390) -/

/-- A form and a selector of RUINV name an entry of an address space. -/
def invNames (asid form : Nat) (x : DWord) (e : BushelEntry) : Bool :=
  e.asid == asid && (form == 0 || e.gid == (x.extractLsb' 0 16).toNat)
    && (decide (form < 2) || e.layer == (x.extractLsb' 16 12).toNat)

/-- Bits of x[a] that a form does not use. -/
def invBad (form : Nat) (x : DWord) : Bool :=
  match form with
  | 0 => x != 0
  | 1 => x.extractLsb' 16 48 != 0
  | _ => x.extractLsb' 28 36 != 0

/-- RUINV (R390). -/
def execRuinv (a : BitVec 5) (f : BitVec 2) (s : State) : Out := seqWord 1 (ruinvFault f) (do
  notInTask
  let s ← get
  await (s.queue .acc).isEmpty
  let x ← rdX a
  need (!invBad f.toNat x) .illegalOperand
  let hit := invNames s.ctx.job.code.asid.toNat f.toNat x
  await ((List.range 4).all fun d => !(s.bushelOf d).any fun e => hit e && s.tagBusy d e.tag)
  modify fun s => (List.range 4).foldl (fun s d => s.setBushel d ((s.bushelOf d).filter fun e => !hit e)) s
  next 1) s

end Sys2Proof.Machine
end

