-- ==== Sys2Proof/Machine/Complete.lean ====
section
/-! DEFINITION. The completion of asynchronous commands (R43, R103, R212). -/
namespace Sys2Proof.Machine

/-- A save area goes back to the driver (R417, R418). -/
def State.areaBack (s : State) (die : Nat) (a : Option Nat) : State :=
  match a with
  | some p => s.post (srcDie die) kSpillreq 0 (BitVec.ofNat 64 (2 ^ 63 + p))
  | none => s

/-- End a job that a spill record holds: the record is discarded (R417). -/
def State.endSpilled (s : State) (r : SpillRec) (st : CtxStatus) (k : EndKind) : State :=
  let s1 := ({ s with ctx := r.ctx }.endJob st k)
  let s2 := { s1 with ctx := s.ctx, units.freed := s.units.freed
                      units.spilled := s1.units.spilled.filter fun x => x.id != r.id }
  s2.areaBack r.die r.area

/-- End a job wherever its context is. -/
def State.endJobOf (s : State) (uid : Nat) (st : CtxStatus) (k : Ctx → EndKind) : State :=
  match s.placeOf uid with
  | .bank b => s.inBank b fun s => s.endJob st (k s.ctx)
  | .spilled id => match s.units.spilled.find? (·.id == id) with
    | some r => s.endSpilled r st (k r.ctx)
    | none => s
  | .gone => s

/-- A copy of a task into its own scratchpad that meets a page that is not resident aborts the task (R43). -/
def State.abortBy (s : State) (c : Cmd) : Option State :=
  match c.failed, s.jobCtx c.uid with
  | some t, some x =>
    if x.job.task ∧ c.commitPos.isNone ∧ t.cause = .pageNonresident then
      some ((s.dropCmd c.n).endJobOf c.uid .aborted fun _ =>
        .aborted t.cap.asid.toNat t.cap.obj.toNat (t.toff / pageBytes))
    else none
  | _, _ => none

/-- A command leaves, completed or failed. -/
def State.complete (s : State) (c : Cmd) : State := (s.abortBy c).getD (s.finishCmd c)

/-- The rest of a command's work, and its completion: none where it cannot complete now. -/
def State.tryComplete (s : State) (c : Cmd) : Option State :=
  if c.held then none
  else match c.body with
    | .copy x => if c.started then (s.finishCopy c x).map fun r => r.1.complete r.2 else none
    | .chain _ _ _ r => if c.started ∧ (r.isNone ∨ c.failed.isSome) then some (s.complete c) else none
    | .gwin w i e esize n =>
      if !c.started then none
      else match s.bindWindow w i e esize n with
        | some s1 => some (s1.complete c)
        | none => some (s.complete { c with failed := some { cause := .illegalOperand, cap := w } })
    | .scrub cap len out =>
      if c.started then (s.scrubRange c cap len out).map fun r => r.1.complete { c with failed := r.2 } else none
    | .migr cap loc frame old =>
      if c.started then (s.finishMigr cap loc frame old).map fun r => r.1.complete { c with failed := r.2 } else none
    | .eqpeek .. => none
    | .mass .. => if c.done ∧ (s.jobCtx c.uid).isNone then some (s.dropCmd c.n) else none
    | _ => if c.done then some (s.complete c) else none

/-- ASYNC_COMMAND_COMPLETE (R103). Operand: command. -/
def execAsyncCommandComplete (s : State) : Out :=
  match (s.cmd s.operand.n0).bind s.tryComplete with
  | some s1 => .next s1
  | none => notDue "ASYNC_COMMAND_COMPLETE"

end Sys2Proof.Machine
end

