-- ==== Sys2Proof/Machine/Furlong.lean ====
section
/-! DEFINITION. Furlong, the step sequencer: work queues, the life of a launch, steps, dispatch, and the instructions
SPAWN, GLAUNCH, TJOIN and RUSTAT (R365 to R380, R387 to R391, R458 to R460, R467, R468, R475). -/
namespace Sys2Proof.Machine

/-! ## Work queues (R459, R460) -/

def State.workQueue (s : State) (n : Nat) : WorkQueue := s.host.wq.get {} n
def State.setWorkQueue (s : State) (n : Nat) (q : WorkQueue) : State := { s with host.wq := s.host.wq.set {} n q }

/-- Records in a ring between two of its counters (R459). -/
def ringCount (logsz tail head : Nat) : Nat := (tail + 2 ^ (logsz + 1) - head % 2 ^ (logsz + 1)) % 2 ^ (logsz + 1)

/-- A write of WQTAIL (R459, R460). -/
def State.doorbell (s : State) (n : Nat) (v : DWord) : State :=
  let q := s.workQueue n
  let tail := v.toNat % 2 ^ (q.logsz + 1)
  s.setWorkQueue n { q with tail := tail, err := q.err || decide (2 ^ q.logsz < ringCount q.logsz tail q.head) }

/-- WORK_QUEUE_DOORBELL (R459, R460). Operand: queue, and the value in `val`. -/
def execWorkQueueDoorbell (s : State) : Out :=
  whenDue "WORK_QUEUE_DOORBELL" (decide (s.operand.n0 < 1024) && decide (1 ≤ s.host.bootStep)) (s.doorbell s.operand.n0 s.operand.val)

/-! ## LAUNCH_RECORD_BEGIN (R365, R367, R373) -/

/-- A job of a DIRECT or INDIRECT record enters its pool: that of the die with the first free bank (`State.instDie`). -/
def State.jobInst (s : State) (prio i : Nat) : Inst :=
  { step := 0, node := i, phase := .pooled s.gts prio, stamp := s.gts }

/-- A launch whose jobs are to be placed: the first of them, or the set, is a candidate (R377). -/
def State.poolJobs (s : State) (l : Launch) (jobs : Nat) : Launch :=
  { l with jobs := jobs, waitCount := false, insts := if jobs = 0 then [] else [s.jobInst l.fields.prio 0] }

/-- An entry of the multicast tables with new ranks: at once where its group is quiesced, else once it is (R222). -/
def State.setRanks (s : State) (table g : Nat) (ranks : List Nat) : State :=
  match s.mcEntry table g with
  | none => if ranks = [] then s else { s with units.mcast := s.units.mcast ++ [{ table := table, entry := g, ranks := ranks }] }
  | some m =>
    let m' := if s.quiesced table g then { m with ranks := ranks, pending := none }
      else if m.ranks = ranks then { m with pending := none }
      else { m with pending := some ranks, since := if m.pending.isSome then m.since else s.units.nextCmd }
    { s with units.mcast := s.units.mcast.map fun x => if x.table = table ∧ x.entry = g then m' else x }

/-- A launch sets its group table (R221). -/
def State.setTable (s : State) (table : Nat) : State :=
  if table = 0 then s else (List.range 256).foldl (fun s g => s.setRanks table g (s.mcRanks table g)) s

/-- A launch that has passed its checks. -/
def State.accept (s : State) (l : Launch) (g : Graph) : Launch :=
  let l := { l with begun := true, nodes := g.nodes, edges := g.edges, caps := g.caps, nextStep := l.fields.first }
  match l.fields.type with
  | 0 => s.poolJobs l l.fields.jobs
  | 1 => { l with waitCount := true }
  | _ => l

/-- Check a launch and begin it, or fail it with its status; none where it must wait for pages. -/
def State.beginLaunch (s : State) (l : Launch) : Option State :=
  match s.checkRecord l.raw with
  | .waits => none
  | .fails st i => some ((s.reportRecord l.raw).modLaunch l.n fun l => { l with fields := parseRec l.raw }.fail st i s.gts)
  | .ok g =>
    let l' := s.accept { l with fields := parseRec l.raw } g
    some (((s.reportRecord l.raw).modLaunch l.n fun _ => l').setTable l'.fields.mctab)

/-- Begin a launch of the list, or ask for the pages that its checks must read. -/
def State.tryBegin (s : State) (l : Launch) : Out :=
  match s.beginLaunch l with
  | some s1 => .next s1
  | none => waitPages "LAUNCH_RECORD_BEGIN" s (s.askRecord l.raw)

/-- Add a launch that has not begun. -/
def State.addLaunch (s : State) (wq : Nat) (spawner : Option Nat) (raw : Bytes) : State :=
  { s with units.launches := s.units.launches ++ [{ n := s.units.nextLaunch, wq := wq, spawner := spawner, raw := raw, begun := false }]
           units.nextLaunch := s.units.nextLaunch + 1 }

/-- The record of a queue that has not completed. -/
def State.queueLaunch (s : State) (q : Nat) : Option Launch := s.units.launches.find? fun l => l.wq == q && l.spawner.isNone

/-- A queue's next record may be read (R365, R459, R460). -/
def State.queueDue (s : State) (n : Nat) : Bool :=
  let q := s.workQueue n
  q.en && !q.err && q.head != q.tail && (s.queueLaunch n).isNone

/-- LAUNCH_RECORD_BEGIN (R365, R367, R475). Operand: the source; `bytes` hold the record that is read in host memory. -/
def execLaunchRecordBegin (s : State) : Out :=
  match s.operand.src with
  | .workQueue q => match s.queueLaunch q with
    | some l => if l.begun then notDue "LAUNCH_RECORD_BEGIN" else s.tryBegin l
    | none =>
      if s.queueDue q && s.operand.bytes.length == 256 then
        let s1 := s.addLaunch q none s.operand.bytes
        match s1.launchOf s.units.nextLaunch with
        | some l => .next ((s1.beginLaunch l).getD (s1.askRecord l.raw))
        | none => notDue "LAUNCH_RECORD_BEGIN"
      else notDue "LAUNCH_RECORD_BEGIN"
  | .spawned n => match s.launchOf n with
    | some l => if l.begun then notDue "LAUNCH_RECORD_BEGIN" else s.tryBegin l
    | none => notDue "LAUNCH_RECORD_BEGIN"

/-! ## INDIRECT_COUNT_READ (R369) -/

/-- The capability and the offset of a record's slot. -/
def Launch.slotPlace (l : Launch) (slot off : Nat) : Cap × Nat :=
  let c := Sparse.get Cap.null l.caps slot
  (c, c.cursor.toNat + off)

/-- The counter that a record waits for holds WVAL. -/
def State.counterReached (s : State) (l : Launch) : Did Bool :=
  if !l.fields.cw then .ok true
  else
    let p := l.slotPlace l.fields.wslot l.fields.woff.toNat
    match s.unitRead p.1 p.2 8 with
    | .ok b => .ok (decide (l.fields.wval.toNat ≤ bytesToNat b))
    | .later => .later
    | .fails t => .fails t

/-- INDIRECT_COUNT_READ (R369, R475). Operand: launch. -/
def execIndirectCountRead (s : State) : Out :=
  match s.launchOf s.operand.n0 with
  | none => notDue "INDIRECT_COUNT_READ"
  | some l =>
    let c := l.slotPlace l.fields.slot l.fields.off.toNat
    let w := l.slotPlace l.fields.wslot l.fields.woff.toNat
    let asked := (if l.fields.cw then s.askRange w.1 w.2 8 else s).askRange c.1 c.2 4
    if !l.waitCount then notDue "INDIRECT_COUNT_READ"
    else match s.counterReached l, s.unitRead c.1 c.2 4 with
      | .ok true, .ok b =>
        let s1 := (if l.fields.cw then s.reportRead w.1 w.2 8 else s).reportRead c.1 c.2 4
        .next (s1.modLaunch l.n fun l => s.poolJobs l (min l.fields.jobs (bytesToNat b)))
      | .later, _ | _, .later => waitPages "INDIRECT_COUNT_READ" s asked
      | _, _ => notDue "INDIRECT_COUNT_READ"

/-! ## STEP_INSTANTIATE and NODE_READY (R373, R374) -/

def Launch.lastStep (l : Launch) : Nat := l.fields.first + l.fields.count - 1

/-- A node has been dispatched or skipped. -/
def Inst.gone (i : Inst) : Bool := i.sent || i.phase == .skip || i.phase == .done

/-- Step `s` may be instantiated. -/
def State.stepDue (s : State) (l : Launch) : Bool :=
  l.begun && l.fields.type == 2 && !l.stopped && l.result.isNone && decide (l.nextStep ≤ l.lastStep)
    && (l.nextStep == l.fields.first || (l.insts.filter fun i => i.step + 1 == l.nextStep).all (·.gone))
    && (List.range 4).all fun d => decide (s.poolCount d + (l.nodes.filter fun n => n.die == d).length ≤ poolSize)

/-- The loop-register row that 64 bytes hold. -/
def rowOf (b : Bytes) : List Word := (chunks 4 16 b).map fun w => BitVec.ofNat 32 (bytesToNat w)

/-- STEP_INSTANTIATE (R373, R475). Operand: launch. -/
def execStepInstantiate (s : State) : Out :=
  match s.launchOf s.operand.n0 with
  | none => notDue "STEP_INSTANTIATE"
  | some l =>
    let p := l.slotPlace l.fields.tslot (l.fields.toff.toNat + 64 * l.nextStep)
    if !s.stepDue l then notDue "STEP_INSTANTIATE"
    else match s.unitRead p.1 p.2 64 with
      | .ok b => .next ((s.reportRead p.1 p.2 64).modLaunch l.n fun l =>
          { l with nextStep := l.nextStep + 1
                   insts := l.insts ++ l.nodes.zipIdx.map fun n =>
                     { step := l.nextStep, node := n.2, phase := .instantiated, die := n.1.die, row := rowOf b, stamp := s.gts } })
      | .later => waitPages "STEP_INSTANTIATE" s (s.askRange p.1 p.2 64)
      | .fails _ => notDue "STEP_INSTANTIATE"

/-- A node is done at a step. -/
def Launch.doneAt (l : Launch) (step node : Nat) : Bool := l.insts.any fun i => i.step == step && i.node == node && i.phase == .done

/-- Everything that a node waits for is done (R374). -/
def Launch.nodeReady (l : Launch) (i : Inst) : Bool :=
  (l.edges.all fun e => e.dst != i.node || (if e.dist then i.step == l.fields.first || l.doneAt (i.step - 1) e.src else l.doneAt i.step e.src))
    && (i.step == l.fields.first || l.doneAt (i.step - 1) i.node)

/-- NODE_READY (R374). Operand: launch, step, node. -/
def execNodeReady (s : State) : Out :=
  match s.nodeNamed with
  | some (l, i, n) =>
    whenDue "NODE_READY" (i.phase == .instantiated && l.nodeReady i && (n.reuse || decide (s.poolCount n.die < poolSize)))
      (s.setInst l i (if n.reuse then .probe else .pooled s.gts l.fields.prio))
  | none => notDue "NODE_READY"

/-! ## NODE_DISPATCH (R377, R378) -/

/-- A candidate of a die's pool. -/
structure Cand where
  launch : Nat
  wq : Nat
  step : Nat
  node : Nat
  prio : Nat
  deriving DecidableEq, Repr

/-- The members of an instance's gang at its step; itself where it has none. -/
def Launch.gangOf (l : Launch) (i : Inst) : List Inst :=
  let gang := fun (k : Nat) => match l.nodes[k]? with | some n => n.gang | none => 0
  if gang i.node = 0 ∨ i.sent then [i]
  else l.insts.filter fun j => j.step == i.step && gang j.node == gang i.node

/-- What an instance puts into a die's pool as a candidate: a gang is one, at its lowest node, when all of it is
pooled (R378); a launch that has stopped dispatches nothing more (R376). -/
def State.cand (s : State) (die : Nat) (l : Launch) (i : Inst) : Option Cand :=
  let g := l.gangOf i
  match i.phase with
  | .pooled _ prio =>
    if s.instDie l i = die ∧ g.all (·.pooledNow) ∧ (g.all fun j => decide (i.node ≤ j.node)) ∧ !l.stopped
    then some { launch := l.n, wq := l.wq, step := i.step, node := i.node, prio := prio } else none
  | _ => none
def State.cands (s : State) (die : Nat) : List Cand := s.units.launches.flatMap fun l => l.insts.filterMap (s.cand die l)

/-- The order of a round: step, node, work queue (R377). -/
def Cand.before (a b : Cand) : Bool :=
  if a.step ≠ b.step then decide (a.step < b.step)
  else if a.node ≠ b.node then decide (a.node < b.node)
  else if a.wq ≠ b.wq then decide (a.wq < b.wq)
  else decide (a.launch < b.launch)
def insertCand (c : Cand) : List Cand → List Cand
  | [] => [c]
  | x :: r => if c.before x then c :: x :: r else x :: insertCand c r

/-- Place the job of a single candidate on one of some cores (R378): a node's are its die's, a job's the package's
(R368). A task that has been aborted keeps its DMEMB (R380). -/
def State.placeOne (s : State) (l : Launch) (i : Inst) (first n : Nat) : Option State :=
  let g := s.freshGroup 0
  let dm := if i.sent then i.dmemb else dmembOf 0 g 1 0
  let lone : Ctx := { seq := { dmemb := dm } }
  ((s.freeCores first n).find? fun c => s.mayPlace lone c).bind fun c => (s.freeBank c).map fun k =>
    let s1 := s.startJob l i k dm
    if i.sent then s1 else { s1 with units.nextGroup := g + 1 }

/-- The units in which a gang may be placed: a cluster, or its die (R378). -/
def gangUnits (level die : Nat) : List (Nat × Nat) :=
  if level = 1 then (List.range 9).map fun c => (72 * die + 8 * c, 8) else [(72 * die, 72)]

/-- Place a gang: its members receive one fresh GROUP, with its size and their ranks (R378). -/
def State.placeGang (s : State) (l : Launch) (g : List Inst) (die : Nat) : Option State :=
  let rank := fun (i : Inst) => match l.nodes[i.node]? with | some n => n.rank | none => 0
  let group := s.freshGroup l.fields.level
  (s.placesFor (gangUnits l.fields.level die) g.length).map fun ks =>
    { s with units.nextGroup := group + 1 }.startAll l (fun i => dmembOf l.fields.level group g.length (rank i)) (g.zip ks)

/-- Place the job set of a DIRECT or INDIRECT record of level 1 to 4 (R368): its SIZE is the record's JOBS, also where
the count of an INDIRECT record is less (R366). -/
def State.placeSet (s : State) (l : Launch) : Option State :=
  let f := l.fields
  let group := if f.level = 4 then f.fgroup else s.freshGroup f.level
  let size := if f.level = 4 then f.fsize else f.jobs
  let first := if f.level = 4 then f.rbase else 0
  (s.placesFor (unitsOf f.level) l.jobs).map fun ks =>
    let l1 := { l with insts := (List.range l.jobs).map (s.jobInst f.prio) }
    let s1 := { s with units.nextGroup := group + 1 }.modLaunch l.n fun _ => l1
    s1.startAll l1 (fun i => dmembOf f.level group size (first + i.node)) (l1.insts.zip ks)

/-- A level-0 job has been placed: the next one enters the pool (R377). -/
def State.nextJob (s : State) (l : Launch) (i : Inst) : State :=
  if i.node + 1 < l.jobs ∧ !l.stopped then s.modLaunch l.n fun l => { l with insts := l.insts ++ [s.jobInst l.fields.prio (i.node + 1)] } else s

/-- An instance that is placed alone: it has no gang, or has been dispatched before. -/
def Launch.solo (l : Launch) (i : Inst) : Bool := i.sent || match l.nodes[i.node]? with | some n => n.gang == 0 | none => true

/-- Place a candidate, where it fits. -/
def State.placeCand (s : State) (die : Nat) (c : Cand) : Option State :=
  (s.launchOf c.launch).bind fun l => (l.inst c.step c.node).bind fun i =>
    if l.fields.type = 2 then
      if l.solo i then s.placeOne l i (72 * die) 72 else s.placeGang l (l.gangOf i) die
    else if l.fields.level = 0 then (s.placeOne l i 0 288).map fun s1 => s1.nextJob l i
    else s.placeSet l

/-- The candidates of a level in the order in which a round tries them, and the queues served so far. -/
def State.roundOrder (s : State) (die level : Nat) (l : List Cand) : List Cand × List Nat :=
  let at' := l.filter fun c => c.prio == level
  let served := s.units.pools.get [] (8 * die + level)
  let un := at'.filter fun c => !served.contains c.wq
  if un = [] then (at'.foldr insertCand [], [])
  else (un.foldr insertCand [] ++ (at'.filter fun c => served.contains c.wq).foldr insertCand [], served)

/-- The queues served in a round after a dispatch: the round ends where no other queue has a candidate of the level. -/
def State.roundAfter (s : State) (die level : Nat) (served : List Nat) : List Nat :=
  if (s.cands die).any fun c => c.prio == level && !served.contains c.wq then served else []

/-- Dispatch the first candidate that fits, from the highest level down. -/
def State.dispatchFrom (s : State) (die : Nat) (l : List Cand) : List Nat → Option State
  | [] => none
  | level :: r =>
    let o := s.roundOrder die level l
    match o.1.findSome? fun c => (s.placeCand die c).map fun s1 => (s1, c.wq) with
    | some (s1, wq) =>
      some { s1 with units.pools := s1.units.pools.set [] (8 * die + level) (s1.roundAfter die level (wq :: o.2)) }
    | none => s.dispatchFrom die l r

def State.dispatch (s : State) (die : Nat) : Option State := s.dispatchFrom die (s.cands die) [7, 6, 5, 4, 3, 2, 1, 0]

/-- NODE_DISPATCH (R377, R378). Operand: die. -/
def execNodeDispatch (s : State) : Out :=
  match s.dispatch s.operand.n0 with
  | some s1 => .next s1
  | none => notDue "NODE_DISPATCH"

/-- NODE_AGING (R377). Operand: launch, step, node or job. -/
def execNodeAging (s : State) : Out :=
  match (s.launchOf s.operand.n0).bind fun l => (l.inst s.operand.n1 s.operand.n2).map fun i => (l, i) with
  | some (l, i) => match i.phase with
    | .pooled since prio =>
      whenDue "NODE_AGING" (!l.stopped && decide (prio < 7) && decide (longCycles ≤ s.cyclesSince (72 * s.instDie l i) since))
        (s.setInst l i (.pooled s.gts (prio + 1)))
    | _ => notDue "NODE_AGING"
  | none => notDue "NODE_AGING"

/-! ## Pages (R43, R380, R458, R467, R475) -/

/-- The address and the value of a page's entry. -/
def State.entryAt (s : State) (asid obj page : Nat) : Option (Nat × DWord) :=
  (s.objEntry asid obj).bind fun e =>
    if page * pageSize < e.length then some (e.entryAddr page, s.mem8 (e.entryAddr page)) else none

/-- A page is resident. -/
def State.pageHere (s : State) (asid obj page : Nat) : Bool :=
  match s.entryAt asid obj page with
  | some (_, e) => decide (pageLoc e < 2)
  | none => false

/-- A page is no longer asked for. -/
def State.dropAskPage (s : State) (asid obj page : Nat) : State :=
  { s with units.pageReqs := s.units.pageReqs.filter fun r => !(r.asid == asid && r.obj == obj && r.page == page) }

/-- TASK_REQUEUE (R380). Operand: launch, step, node. -/
def execTaskRequeue (s : State) : Out :=
  match s.nodeNamed with
  | some (l, i, _) => match i.phase with
    | .aborted a o p prio =>
      whenDue "TASK_REQUEUE" (s.pageHere a o p && decide (s.poolCount i.die < poolSize)) ((s.dropAskPage a o p).setInst l i (.pooled s.gts prio))
    | _ => notDue "TASK_REQUEUE"
  | none => notDue "TASK_REQUEUE"

/-- FURLONG_ACCESS_RESUME (R475). Operand: ASID, object, page. -/
def execFurlongAccessResume (s : State) : Out :=
  let o := s.operand
  whenDue "FURLONG_ACCESS_RESUME"
    ((s.units.pageReqs.any fun r => r.asid == o.n0 && r.obj == o.n1 && r.page == o.n2) && s.pageHere o.n0 o.n1 o.n2)
    (s.dropAskPage o.n0 o.n1 o.n2)

/-- An event of a free die: the spec leaves open which die an event about a page, or a refused entry, comes from. -/
def State.postFree (s : State) (kind : Nat) (p0 p1 : DWord) : State :=
  { s with fresh := s.fresh + 1 }.post (srcDie (Config.eventDie s.fresh % 4)) kind p0 p1

/-- The request has been told to the driver. -/
def PageReq.tell (r : PageReq) (asid obj page : Nat) : PageReq :=
  if r.asid = asid ∧ r.obj = obj ∧ r.page = page then { r with told := true } else r

/-- A PAGEREQ event (R458, R461). -/
def State.tellPage (s : State) (r : PageReq) (empty : Bool) : State :=
  { s with units.pageReqs := s.units.pageReqs.map fun (x : PageReq) => x.tell r.asid r.obj r.page }.postFree kPagereq
    (BitVec.ofNat 64 (2 ^ 32 * r.asid + r.obj)) (BitVec.ofNat 64 (r.page + 2 ^ 63 * bit empty))

/-- A ring of the driver has an entry (R467). -/
def Ring.ready (r : Ring) : Bool := r.en && r.head != r.tail
def Ring.take (r : Ring) : Ring := { r with head := (r.head + 1) % 2 ^ (r.logsz + 1) }

/-- Host-window offsets of FLTAIL and SPTAIL (Table 1 of chapter 17). -/
def offFltail : Nat := 0x50
def offSptail : Nat := 0x70

/-- A refused entry of a ring is reported (R467). -/
def State.entryRefused (s : State) (v : DWord) (off : Nat) : State :=
  s.postFree kError (BitVec.ofNat 64 (3 * 2 ^ 60 + v.toNat % 2 ^ 52)) (BitVec.ofNat 64 off)

/-- An entry of the free-frame list that is not a frame of HBM4E. -/
def frameBad (v : DWord) : Bool := v.extractLsb' 31 33 != 0 || !isHbm (v.toNat * pageSize)

/-- The page in its new frame (R458): the second-tier frame's bytes, or zeros; PIN is kept. -/
def State.bringPage (s : State) (r : PageReq) (a : Nat) (e : DWord) (frame : Nat) : State :=
  let old := pageFrame e * pageSize
  let data := if isSecond old then s.mem.read old pageSize else List.replicate pageSize 0
  let s2 := ((s.agentWrite (frame * pageSize) data).setEntry a (BitVec.ofNat 64 (2 ^ 61 * bit (pagePin e) + frame))).forgetPage r.asid r.obj r.page
  if pagePin e then s2.pinFrame frame else s2

/-- The runs of written bytes of a sector, each with its place (fuel: the bytes). -/
def sectorRuns : Nat → Nat → List (Option Byte) → List (Nat × Bytes)
  | 0, _, _ => []
  | _, _, [] => []
  | f + 1, i, none :: r => sectorRuns f (i + 1) r
  | f + 1, i, some b :: r =>
    let t := r.takeWhile Option.isSome
    (i, b :: t.filterMap id) :: sectorRuns f (i + 1 + t.length) (r.drop t.length)

/-- What making a held sector visible reads and writes (R44). -/
def State.commitRanges (s : State) (c : Cap) (o : Nat) (d : List (Option Byte)) : List (Cap × Nat × Nat) :=
  (sectorRuns 33 0 d).flatMap fun r => { s with ctx.acc.commit := [] }.rangesOf c (o + r.1) r.2.length

/-- A page that the commit of a task waits for (R43): one of an object that a deferred command names, or a held
sector's. -/
def State.commitWants (s : State) (asid obj page : Nat) : Bool :=
  let names := fun (c : Cap) => c.asid.toNat == asid && c.obj.toNat == obj
  (s.units.cmds.any fun c => c.commitPos.isSome && match c.body with
    | .copy x => (match x.src with | .mem c _ => names c | _ => false) || (match x.dst with | .mem c _ => names c | _ => false)
    | .chain d a l _ => names d || names a || names l
    | .gwin w i e _ _ => names w || names i || names e
    | .atom c .. | .atomQ c _ => names c
    | _ => false)
  || s.contexts.any fun c => (match c.seq.wait with | .ending _ => true | _ => false) && c.acc.commit.any fun x => match x with
    | .sector c o d _ => (s.commitRanges c o d).any fun r => names r.1 && (pagesOf r.2.1 r.2.2).any fun p => p.1 / pageSize == page
    | _ => false

/-- The request for a page, or one that a commit makes now. -/
def State.pageReq (s : State) (asid obj page : Nat) : Option PageReq :=
  match s.units.pageReqs.find? fun r => r.asid == asid && r.obj == obj && r.page == page with
  | some r => some r
  | none => if s.commitWants asid obj page then some { asid := asid, obj := obj, page := page } else none

/-- PAGE_FAULT_SERVICE (R458, R467). Operand: ASID, object, page; `val` holds the entry of the free-frame list that is
read in host memory. -/
def execPageFaultService (s : State) : Out :=
  let o := s.operand
  match s.pageReq o.n0 o.n1 o.n2, s.entryAt o.n0 o.n1 o.n2 with
  | some r, some (a, e) =>
    let s1 := s.askPage r.asid r.obj r.page
    if pageLoc e ≠ 2 then notDue "PAGE_FAULT_SERVICE"
    else if s.hardware 0 ∧ s.host.freeList.ready then
      let s2 := { s1 with host.freeList := s1.host.freeList.take }
      .next (if frameBad o.val then s2.entryRefused o.val offFltail else s2.bringPage r a e o.val.toNat)
    else whenDue "PAGE_FAULT_SERVICE" (!r.told) (s1.tellPage r (s.hardware 0))
  | _, _ => notDue "PAGE_FAULT_SERVICE"

/-! ## LAUNCH_COMPLETE (R365, R376) -/

/-- Nothing of an instance is under way. -/
def Inst.settled (i : Inst) : Bool :=
  match i.phase with
  | .running _ | .skip | .fill => false
  | _ => true

/-- Every job or node of a launch has ended (R365, R376). -/
def Launch.over (l : Launch) : Bool :=
  l.begun && l.result.isNone && !l.waitCount &&
    if l.stopped then l.insts.all (·.settled)
    else if l.fields.type = 2 then
      decide (l.lastStep < l.nextStep) && (l.insts.filter fun i => i.step == l.lastStep).all fun i => i.phase == .done
    else l.insts.length == l.jobs && l.insts.all fun i => i.phase == .done

/-- The launch with its result, if it is the one named. -/
def Launch.finish (l : Launch) (n : Nat) (v : DWord) : Launch := if l.n = n then { l with result := some v } else l

/-- A launch completes: its queue's WQHEAD advances and a COMPLETE event is posted, or its spawner may join it. -/
def State.completeLaunch (s : State) (l : Launch) : State :=
  match l.spawner with
  | none =>
    let q := s.workQueue l.wq
    let s1 := { s with units.launches := s.units.launches.filter fun x => x.n != l.n }
    (s1.setWorkQueue l.wq { q with head := (q.head + 1) % 2 ^ (q.logsz + 1) }).postTo q.port l.wq kComplete l.status
      (BitVec.ofNat 64 q.head)
  | some u =>
    if (s.jobCtx u).isNone then { s with units.launches := s.units.launches.filter fun x => x.n != l.n }
    else { s with units.launches := s.units.launches.map (·.finish l.n l.status) }

/-- LAUNCH_COMPLETE (R365, R376, R459, R461). Operand: launch. -/
def execLaunchComplete (s : State) : Out :=
  match s.launchOf s.operand.n0 with
  | some l => whenDue "LAUNCH_COMPLETE" l.over (s.completeLaunch l)
  | none => notDue "LAUNCH_COMPLETE"

/-! ## Hardware spilling (R379, R418, R468) -/

/-- A candidate of a die finds no free bank on it that is awake. -/
def State.crowded (s : State) (die : Nat) : Bool :=
  s.cands die != [] && ((List.range 72).all fun c => (s.freeBank (72 * die + c)).isNone)

/-- Banks of a die that hold no context and are gated, or wake. -/
def State.sleepers (s : State) (die : Nat) : List BankKey := ((List.range 288).map (288 * die + ·)).filter s.bankSleeps

/-- The bank that the power manager wakes for a candidate of a die (R411): the first, unless one wakes already. -/
def State.wakeChoice (s : State) (die : Nat) : Option BankKey :=
  if s.crowded die ∧ (s.sleepers die).all fun k => !s.bankWaking.get false k then (s.sleepers die).head? else none

/-- A candidate of a die finds no free bank on it, and none that can be woken for it (R379, R411). -/
def State.starved (s : State) (die : Nat) : Bool := s.crowded die && s.sleepers die == []

/-- A resident context that has been not ready for 2^16 cycles. -/
def State.longBlocked (s : State) (k : BankKey) : Bool :=
  let c := s.bankCtx k
  c.status == .live && !s.readyCtx c && match c.blockedAt with
    | some t => decide (2 ^ 16 ≤ s.cyclesSince k.core t)
    | none => false

/-- Whether a context goes before another that is spilled: lower effective priority, then longer not ready (R379). The
lower core and bank stand first in the list. -/
def State.spillBefore (s : State) (a b : BankKey) : Bool :=
  let x := s.bankCtx a
  let y := s.bankCtx b
  decide (x.prio < y.prio) || (x.prio == y.prio && decide (x.blockedAt.getD 0 < y.blockedAt.getD 0))

/-- The context of a die that is spilled (R379). -/
def State.spillChoice (s : State) (die : Nat) : Option BankKey :=
  if !s.starved die then none
  else (((List.range 288).map (288 * die + ·)).filter fun k => s.longBlocked k).foldl (fun b k => match b with
    | some x => if s.spillBefore k x then some k else b
    | none => some k) none

/-- An entry of the save-area pool that is refused (R467, R468). -/
def areaBad (v : DWord) : Bool := v.extractLsb' 52 12 != 0 || v.extractLsb' 0 12 != 0 || !decodes v.toNat

/-- A failed command of Firkin's own is reported (R418, R469): an uncorrectable sector of the save area by its address and
its memory's unit, one of the bank by the place in the save area that it would have gone to and the bank's unit; any
other failure as a refused entry. -/
def State.firkinError (s : State) (die a : Nat) (t : TrapInfo) (fill : Bool) : State :=
  if t.cause = .eccUncorrectable then
    let sector := (a + t.toff) / 32 * 32
    let s1 := if fill then s.countSector 7 (sector / 32) else s
    if s.host.funcmode.getLsbD 5 then s1
    else s1.post (srcDie die) kError (BitVec.ofNat 64 (2 ^ 60 + sector)) (BitVec.ofNat 64 (if fill then s.sectorUnit sector else 3))
  else s.post (srcDie die) kError (BitVec.ofNat 64 (3 * 2 ^ 60 + a)) (BitVec.ofNat 64 offSptail)

/-- A SPILLREQ event that names a context, once (R379). -/
def State.askSpill (s : State) (k : BankKey) : State :=
  let c := s.bankCtx k
  { s with units.spillAsked := s.units.spillAsked ++ [c.job.uid] }.post (srcDie k.die) kSpillreq
    (BitVec.ofNat 64 (2 ^ 10 * k.die + 2 ^ 8 * k.bank + k.core % 72)) (BitVec.ofNat 64 c.job.code.asid.toNat)

/-- HW_SPILL (R379, R418, R468). Operand: die; `val` holds the entry of the save-area pool that is read in host
memory. -/
def execHwSpill (s : State) : Out :=
  match s.spillChoice s.operand.n0 with
  | none => notDue "HW_SPILL"
  | some k =>
    if s.hardware 2 ∧ s.host.savePool.ready then
      let a := s.operand.val.toNat
      let s1 := { s with host.savePool := s.host.savePool.take }
      if areaBad s.operand.val then .next (s1.entryRefused s.operand.val offSptail)
      else if !(s.bankCtx k).canStop then notDue "HW_SPILL"
      else match s1.spillBank k (.phys a) (some a) with
        | .ok s2 => .next s2
        | .later => notDue "HW_SPILL"
        | .fails t => .next ({ s1 with fresh := s1.fresh + 1 }.firkinError k.die a t false)
    else whenDue "HW_SPILL" (!s.units.spillAsked.contains (s.bankCtx k).job.uid) (s.askSpill k)

/-- The bank of a die that a filled context takes (R378, R379). -/
def State.fillPlace (s : State) (r : SpillRec) : Option BankKey :=
  ((s.freeCores (72 * r.die) 72).find? fun c => s.mayPlace r.ctx c).bind s.freeBank

/-- A FILL that has failed is tried again once a bank of the die has become free since (R418). -/
def State.fillAgain (s : State) (r : SpillRec) : Bool := match r.waitFree with
  | some n => decide (n < s.units.freed.get 0 r.die)
  | none => true

/-- A FILL has failed now. -/
def State.holdFill (s : State) (r : SpillRec) : State :=
  { s with units.spilled := s.units.spilled.map fun x =>
      if x.id = r.id then { x with waitFree := some (s.units.freed.get 0 r.die) } else x }

/-- HW_FILL (R379, R418). Operand: spill record. -/
def execHwFill (s : State) : Out :=
  match s.units.spilled.find? fun r => r.id == s.operand.n0 with
  | none => notDue "HW_FILL"
  | some r => match r.area, s.fillPlace r with
    | some a, some k =>
      if !s.readyRec r || !s.fillAgain r || (s.cands r.die).any fun c => decide (r.ctx.prio < c.prio) then notDue "HW_FILL"
      else match s.fillBank k (.phys a) with
        | .ok s1 => .next (s1.areaBack r.die (some a))
        | .later => notDue "HW_FILL"
        | .fails t => .next ((s.holdFill r).firkinError r.die a t true)
    | _, _ => notDue "HW_FILL"

/-! ## SPAWN, GLAUNCH, TJOIN and RUSTAT (R387 to R391) -/

/-- Tickets of a context, and spawned launches of the package (R388). -/
def maxTickets : Nat := 8
def maxSpawned : Nat := 256

/-- The ticket slot that is free with the lowest number. -/
def State.freeTicket (s : State) : Option Nat := (List.range maxTickets).find? fun i => (s.ctx.units.tickets.get none i).isNone

/-- The work queue of a context's launch. -/
def State.ownQueue (s : State) : Nat := ((s.ctx.job.launch.bind s.launchOf).map (·.wq)).getD 0

/-- Room for a result that SEQ delivers to x[d] (R148). -/
def awaitDeliver (d : BitVec 5) : M Unit := do
  let s ← get
  await (s.idleEngine .acc && !s.xBusy d || s.room .acc 1)

/-- Read the 256 bytes of a record (R388). -/
def readRecord (c : Cap) (o : Nat) : M Bytes := do
  let s ← get
  match s.readDirect c o 256 with
  | .bytes b => pure b
  | .later => wait
  | .bad t => raise t
  | .dataBad t => raise { t with noskip := false }

/-- SPAWN and GLAUNCH (R388): `graph` for a GRAPH record. -/
def submitRecord (d a : BitVec 5) (graph : Bool) : M Unit := do
  notInTask
  let s ← get
  await (s.queue .acc).isEmpty
  let c ← rdC a
  let o ← accessAt c 0 256 [tyData] [rR]
  if o % 64 ≠ 0 then raise { cause := .capBounds, toff := o, tinfo := 256, cap := c }
  await (s.wackCount == 0)
  let b ← readRecord c o
  let r := parseRec b
  need (!(if graph then decide (r.type < 2) else r.type == 2)) .illegalOperand
  if r.code.asid ≠ s.ctx.job.code.asid then raise { cause := .capType, toff := o, tinfo := 256, cap := c }
  need (!r.sup || s.ctx.seq.sup) .priv
  match s.freeTicket with
  | none => fault .illegalOperand
  | some slot => do
    await (decide (s.spawnedCount < maxSpawned))
    awaitDeliver d
    let count := s.ctx.units.taken + 1
    let ticket := BitVec.ofNat 64 (slot + 256 * count)
    set ((s.addLaunch s.ownQueue (some s.ctx.job.uid) b).modCtx fun x =>
      { x with units.tickets := x.units.tickets.set none slot (some (s.units.nextLaunch, ticket)), units.taken := count })
    next 1
    deliverX d ticket s.ctx.seq.fetch

/-- SPAWN (R388). -/
def execSpawn (d a : BitVec 5) (s : State) : Out := seqWord 1 (spawnFault a) (submitRecord d a false) s

/-- GLAUNCH (R388). -/
def execGlaunch (d a : BitVec 5) (s : State) : Out := seqWord 1 (spawnFault a) (submitRecord d a true) s

/-- The slot and the launch of a ticket that a context has not joined. -/
def State.ticketOf (s : State) (v : DWord) : Option (Nat × Nat) :=
  (List.range maxTickets).findSome? fun i => match s.ctx.units.tickets.get none i with
    | some (n, t) => if t = v then some (i, n) else none
    | none => none

/-- The status that a poll of a launch that has not completed gives (R389). -/
def notJoined : DWord := 0xFF

/-- TJOIN (R389). -/
def execTjoin (d a : BitVec 5) (poll : BitVec 1) (s : State) : Out := seqWord 1 none (do
  notInTask
  let s ← get
  await (s.queue .acc).isEmpty
  let v ← rdX a
  match s.ticketOf v with
  | none => fault .illegalOperand
  | some (slot, n) => match s.launchOf n with
    | none => fault .illegalOperand
    | some l => match l.result with
      | some st => do
        awaitDeliver d
        set ((({ s with units.launches := s.units.launches.filter fun x => x.n != n }).modCtx fun x =>
          { x with units.tickets := x.units.tickets.set none slot none, units.joined := l.counters }).l1Drop s.cur.core)
        next 1
        deliverX d st s.ctx.seq.fetch
      | none =>
        if poll = 1 then do
          awaitDeliver d
          next 1
          deliverX d notJoined s.ctx.seq.fetch
        else do
          modCtx fun x => { x with
            seq.join := some n
            blockedAt := if s.ctx.seq.join = some n then s.ctx.blockedAt else some s.gts }
          wait) s

/-- The counters that RUSTAT reads (R391): with a = 0 the own launch's in a task, else the joined ones. -/
def State.statCounters (s : State) (a : BitVec 5) (v : DWord) : Option (Sparse DWord) :=
  if a = 0 then
    if s.ctx.job.task then some (((s.ctx.job.launch.bind s.launchOf).map (·.counters)).getD []) else some s.ctx.units.joined
  else (s.ticketOf v).bind fun t => (s.launchOf t.2).map (·.counters)

/-- RUSTAT (R391). -/
def execRustat (d a : BitVec 5) (f : BitVec 4) (s : State) : Out := seqWord 1 (rustatFault f) (do
  let s ← get
  await (s.queue .acc).isEmpty
  let v ← rdX a
  match s.statCounters a v with
  | none => fault .illegalOperand
  | some t => do
    awaitDeliver d
    next 1
    deliverX d (t.get 0 f.toNat) s.ctx.seq.fetch) s

end Sys2Proof.Machine
end

