-- ==== Sys2Proof/Machine/Idx.lean ====
section
/-! DEFINITION. The index engine (chapter 11): operands (R340, R341), the signature stage (R343 to R351), moves and counts
(R352, R353), bitmaps (R354 to R357), merges (R358 to R360) and the fetch of CONTRACT (R361, R362). -/
namespace Sys2Proof.Machine

/-- An IDX instruction. -/
def issueIdx (i : Instr) (n : Nat) (wf : Option Cause) (eff : Env → M Unit) (s : State) : Out :=
  issue .idx i n wf eff s

/-! ## Operands (R340, R341) -/

/-- A data operand with the formats that its use takes from a stream; of a source, the blocks that the instruction pops. -/
structure XOp where
  fld : Nat
  fmts : List Nat
  out : Bool
  blocks : Nat := 1
  deriving DecidableEq, Repr

/-- The FMT of a row format. -/
def rowFmts (bf16 : Bool) : List Nat := if bf16 then [2] else [0]

def XOp.isStream (o : XOp) : Bool := decide (24 ≤ o.fld)
def XOp.isQueue (o : XOp) : Bool := decide (16 ≤ o.fld) && decide (o.fld < 24)
def XOp.stream (o : XOp) : Nat := o.fld - 24

/-- The stream of an operand fits its use (R263, R341). -/
def XOp.streamOk (o : XOp) (s : State) : Bool :=
  let t := s.stream o.stream
  t.desc.engn == Engine.idx.code && t.desc.out == o.out && o.fmts.contains t.desc.fmt

/-- What an instruction pops of an operand. -/
def XOp.pops (o : XOp) : Nat := if o.out || decide (o.fld < 16) then 0 else o.blocks

/-- Wait until every stream named has a run, and check the operands, with `ok` what the instruction asks besides (R263,
R341); the sources stand first, in pop order. -/
def idxChecks (all : List XOp) (ok : Bool := true) : M Unit := do
  let s ← get
  let l := unheld (s.heldBlocks .idx) (all.map fun o => (o, o.pops))
  await (l.all fun o => !o.isStream || (s.stream o.stream).st != .idle)
  need (ok && l.all fun o => !o.isStream || o.streamOk s) .illegalOperand
  l.forM fun o =>
    if o.isQueue then (if o.out then needProducer .idx (o.fld - 16) else needConsumer .idx (o.fld - 16))
    else pure ()

/-- y[n]. -/
def State.yreg (s : State) (n : Nat) : Bytes := s.ctx.idx.y.get (List.replicate 2048 0) n
/-- Write y[n]. -/
def State.setY (s : State) (n : Nat) (b : Bytes) : State :=
  { s with ctx.idx.y := s.ctx.idx.y.set (List.replicate 2048 0) n (entry b), ctx.idx.bad := s.ctx.idx.bad.filter (· != n) }

/-- Read y[n] (R341). -/
def readY (n : Nat) : M Bytes := do
  let s ← get
  if s.ctx.idx.bad.contains n then raise { cause := .eccUncorrectable, tinfo := n, bad := .bank } else pure (s.yreg n)

/-- Registers y[n] to y[n + k − 1] exist (R340). -/
def spanOk (fld k : Nat) : Bool := decide (k ≤ 16) && (decide (16 ≤ fld) || decide (fld + k ≤ 16))

/-- The source blocks of an operand. -/
def idxPop (fld k : Nat) (fmts : List Nat := rawFmts) : M (List Bytes) :=
  (List.range k).mapM fun i =>
    if fld < 16 then readY (fld + i)
    else do
      let b ← if fld < 24 then sourceQueue .idx (fld - 16) else sourceStream .idx (fld - 24) fmts
      pure b.bytes

/-- Write destination blocks: pushed or written in order, or to y registers; and do what follows the last write. -/
def idxEmit (fld : Nat) (l : List Bytes) (fmts : List Nat := rawFmts) (after : After := .nothing) : M Unit := do
  if fld < 16 then do
    modify fun s => l.zipIdx.foldl (fun s p => s.setY (fld + p.2) p.1) s
    modCtx after.run
  else emit .idx (l.map fun b =>
    { dest := if fld < 24 then .queue (fld - 16) else .stream (fld - 24), block := { bytes := entry b }, fmts := fmts }) after

/-- The 32-bit words of a block. -/
def wordsOf (b : Bytes) : List Nat := numbersOf 4 512 b

/-- Change IDX's state. -/
def modIdx (f : IdxSt → IdxSt) : M Unit := modify fun s => { s with ctx.idx := f s.ctx.idx }

/-! ## Rows (R343) -/

/-- Bytes of a row, and rows of a block. -/
def rowBytes (w : Nat) (bf : Bool) : Nat := w * (if bf then 2 else 4)
def rowsPer (w : Nat) (bf : Bool) : Nat := 2048 / rowBytes w bf
/-- Blocks of `n` rows. -/
def rowBlocks (w : Nat) (bf : Bool) (n : Nat) : Nat := (n + rowsPer w bf - 1) / rowsPer w bf

/-- The first `n` rows of blocks. -/
def unpackRows (w : Nat) (bf : Bool) (n : Nat) (l : List Bytes) : List Bytes :=
  (List.range n).map fun r =>
    (((l.getD (r / rowsPer w bf) []).drop (r % rowsPer w bf * rowBytes w bf)).take (rowBytes w bf))
/-- Blocks that hold rows. -/
def packRows (w : Nat) (bf : Bool) (l : List Bytes) : List Bytes :=
  (chunks (rowsPer w bf) (rowBlocks w bf l.length) l).map fun r => entry r.flatten

/-- The values of a row, BF16 widened. -/
def rowVals (w : Nat) (bf : Bool) (b : Bytes) : List FVal :=
  (numbersOf (if bf then 2 else 4) w b).map (if bf then bf16.val else fp32.val)
/-- FP32 encodings of a row. -/
def widened (w : Nat) (bf : Bool) (b : Bytes) : List Nat :=
  (numbersOf (if bf then 2 else 4) w b).map fun x => if bf then 65536 * x else x

/-! ## The signature stage (R344 to R351) -/

def effSigcfg (rowf : BitVec 1) (nh : BitVec 4) (a : BitVec 5) (w : BitVec 4) (bwid : BitVec 5) (_ : Env) : M Unit := do
  idxChecks [⟨a.toNat, rawFmts, false, 1⟩]
  let l ← idxPop a.toNat 1
  modIdx fun x => { x with
    nh := nh.toNat + 1, w := 32 * (w.toNat + 1), rowf := rowf == 1, bwid := bwid.toNat + 1
    seeds := l.flatten.take 1024, rc := 0, nb := 0, bv := false, repv := false }
/-- SIGCFG (R344). -/
def execSigcfg (rowf : BitVec 1) (nh : BitVec 4) (a : BitVec 5) (w : BitVec 4) (bwid : BitVec 5) (s : State) : Out :=
  issueIdx (.sigcfg rowf nh a w bwid) 1 none (effSigcfg rowf nh a w bwid) s

/-- Seed bit n (R344). -/
def IdxSt.seedBit (x : IdxSt) (n : Nat) : Bool := (x.seeds.getD (n / 8) 0).getLsbD (n % 8)

/-- The signature of a row (R345). -/
def IdxSt.signature (x : IdxSt) (row : List FVal) : Nat :=
  maskBits ((List.range x.nh).map fun h =>
    (FVal.zero false).lt (osum (row.zipIdx.map fun p => if x.seedBit (h * x.w + p.2) then p.1.neg else p.1)))

/-- Hashed rows (R345). -/
def IdxSt.hash (x : IdxSt) (rows : List (List FVal)) : IdxSt :=
  { x with
    sig := rows.zipIdx.foldl (fun t p => t.set 0 (x.rc + p.2) (x.signature p.1)) x.sig
    rc := x.rc + rows.length, bv := false, repv := false }

def effSigh (a n : BitVec 5) (_ : Env) : M Unit := do
  let s ← get
  let x := s.ctx.idx
  let k := n.toNat + 1
  idxChecks [⟨a.toNat, rowFmts x.rowf, false, 1⟩] (decide (k ≤ rowsPer x.w x.rowf) && decide (x.rc + k ≤ 1024))
  let l ← idxPop a.toNat 1 (rowFmts x.rowf)
  modIdx fun x => x.hash ((unpackRows x.w x.rowf k l).map (rowVals x.w x.rowf))
/-- SIGH (R345). -/
def execSigh (a n : BitVec 5) (s : State) : Out := issueIdx (.sigh a n) 1 none (effSigh a n) s

/-- A bucket while BKT runs: its signature and its members so far. -/
structure Bucket where
  sig : Nat
  members : Nat
  deriving DecidableEq, Repr

/-- The highest-numbered bucket with a signature; buckets stand newest first. -/
def findBucket (sig : Nat) (l : List Bucket) : Option Nat := (l.findIdx? (·.sig == sig)).map fun i => l.length - 1 - i

/-- Put row `r` into a bucket (R346). -/
def IdxSt.place (x : IdxSt) (acc : List Bucket × Sparse Nat) (r : Nat) : List Bucket × Sparse Nat :=
  let sig := x.sig.get 0 r
  let fresh := ({ sig := sig, members := 1 } :: acc.1, acc.2.set 0 r acc.1.length)
  match acc.1.findIdx? (·.sig == sig) with
  | none => fresh
  | some i =>
    if (acc.1.getD i ⟨0, 0⟩).members < x.bwid then
      (acc.1.modify i fun b => { b with members := b.members + 1 }, acc.2.set 0 r (acc.1.length - 1 - i))
    else fresh

/-- Buckets in order of first appearance (R346). -/
def IdxSt.bucketed (x : IdxSt) : IdxSt :=
  let r := (List.range x.rc).foldl x.place ([], [])
  { x with nb := r.1.length, bid := r.2, bv := true, repv := false }

def effBkt (_ : Env) : M Unit := modIdx IdxSt.bucketed
/-- BKT (R346). -/
def execBkt (s : State) : Out := issueIdx .bkt 1 none (effBkt) s

/-- The members of a bucket in row order. -/
def IdxSt.members (x : IdxSt) (b : Nat) : List Nat := (List.range x.rc).filter fun r => x.bid.get 0 r == b

/-- The mean of rows, element by element (R347). -/
def meanRow (w : Nat) (bf : Bool) (rows : List Bytes) : Bytes :=
  let vals := rows.map (rowVals w bf)
  numberBytes (if bf then 2 else 4) ((List.range w).map fun k =>
    let c := fp32.rne ((osum (vals.map (·.getD k (.zero false)))).div (.ofInt rows.length))
    if bf then bf16.rne (fp32.val c) else c)

/-- The distance of two rows (R347). -/
def rowDistance (x y : List FVal) : FVal :=
  osum (List.zipWith (fun p q => fp32.val (fp32.rne (p.sub false q).abs)) x y)

/-- The member with the least total distance: the lower row on a tie; the first where every total is NaN (R347). -/
def medoid (w : Nat) (bf : Bool) (rows : List Bytes) (members : List Nat) : Nat :=
  let vals := members.map fun m => rowVals w bf (rows.getD m [])
  let totals := vals.map fun x => osum (vals.map fun y => rowDistance x y)
  match (members.zip totals).filter fun p => !p.2.isNan with
  | [] => members.headD 0
  | p :: r => (r.foldl (fun best q => if q.2.lt best.2 then q else best) p).1

/-- Row b of REPBUF and REPIDX[b] under a rule (R347). -/
def IdxSt.representative (x : IdxSt) (rule : Nat) (rows : List Bytes) (b : Nat) : Bytes × Nat :=
  let ms := x.members b
  match rule with
  | 1 => (meanRow x.w x.rowf (ms.map fun m => rows.getD m []), 0xFFFF)
  | 2 => let m := medoid x.w x.rowf rows ms; (rows.getD m [], m)
  | _ => (rows.getD (ms.headD 0) [], ms.headD 0)

def effRepsel (a : BitVec 5) (rule : BitVec 2) (_ : Env) : M Unit := do
  let s ← get
  let x := s.ctx.idx
  let k := rowBlocks x.w x.rowf x.rc
  idxChecks [⟨a.toNat, rowFmts x.rowf, false, k⟩] (x.bv && spanOk a.toNat k)
  let l ← idxPop a.toNat k (rowFmts x.rowf)
  let reps := (List.range x.nb).map (x.representative rule.toNat (unpackRows x.w x.rowf x.rc l))
  modIdx fun x => { x with repbuf := reps.map (·.1), repidx := reps.map (·.2), repv := true }
/-- REPSEL (R347). -/
def execRepsel (a : BitVec 5) (rule : BitVec 2) (s : State) : Out :=
  issueIdx (.repsel a rule) 1 (repselFault rule) (effRepsel a rule) s

def effRepgat (d : BitVec 5) (_ : Env) : M Unit := do
  let s ← get
  let x := s.ctx.idx
  idxChecks [⟨d.toNat, rowFmts x.rowf, true, 0⟩] (x.repv && spanOk d.toNat (rowBlocks x.w x.rowf x.nb))
  idxEmit d.toNat (packRows x.w x.rowf (x.repbuf.take x.nb)) (rowFmts x.rowf)
/-- REPGAT (R348). -/
def execRepgat (d : BitVec 5) (s : State) : Out := issueIdx (.repgat d) 1 none (effRepgat d) s

def effRepscat (d a : BitVec 5) (rfmt : BitVec 1) (rw : BitVec 4) (_ : Env) : M Unit := do
  let s ← get
  let x := s.ctx.idx
  let bf := rfmt == 1
  let w := 32 * (rw.toNat + 1)
  idxChecks [⟨a.toNat, rowFmts bf, false, rowBlocks w bf x.nb⟩, ⟨d.toNat, rowFmts bf, true, 0⟩]
    (x.bv && spanOk a.toNat (rowBlocks w bf x.nb) && spanOk d.toNat (rowBlocks w bf x.rc))
  let l ← idxPop a.toNat (rowBlocks w bf x.nb) (rowFmts bf)
  let rows := unpackRows w bf x.nb l
  idxEmit d.toNat (packRows w bf ((List.range x.rc).map fun r => rows.getD (x.bid.get 0 r) [])) (rowFmts bf)
/-- REPSCAT (R349). -/
def execRepscat (d a : BitVec 5) (rfmt : BitVec 1) (rw : BitVec 4) (s : State) : Out :=
  issueIdx (.repscat d a rfmt rw) 1 none (effRepscat d a rfmt rw) s

/-- A raw block of 16-bit entries, filled up with 0xFFFF (R350). -/
def mapBlock (l : List Nat) : Bytes := numberBytes 2 (padTo 1024 0xFFFF l)

/-- The first entry of a map that is out of first-appearance order: its index (fuel of the list). -/
def badEntry : List Nat → Nat → Nat → Option Nat
  | [], _, _ => none
  | e :: r, i, next => if next < e then some i else badEntry r (i + 1) (max next (e + 1))

/-- The membership that a map gives (R350). -/
def IdxSt.loadMap (x : IdxSt) (l : List Nat) : IdxSt :=
  { x with
    rc := l.length, sig := [], bv := true, repv := false
    nb := l.foldl (fun m e => max m (e + 1)) 0
    bid := l.zipIdx.foldl (fun t p => t.set 0 p.2 p.1) [] }

def effMemb (d a : BitVec 5) (form : BitVec 2) (_ : Env) : M Unit := do
  let s ← get
  let x := s.ctx.idx
  if form = 2 then do
    idxChecks [⟨a.toNat, rawFmts, false, 1⟩]
    let l ← idxPop a.toNat 1
    let m := (numbersOf 2 1024 l.flatten).takeWhile (· != 0xFFFF)
    match badEntry m 0 0 with
    | some i => raise { cause := .illegalOperand, tinfo := i }
    | none => modIdx fun x => x.loadMap m
  else do
    idxChecks [⟨d.toNat, rawFmts, true, 0⟩] (if form = 0 then x.bv else x.repv)
    idxEmit d.toNat [mapBlock (if form = 0 then (List.range x.rc).map (x.bid.get 0) else x.repidx.take x.nb)]
/-- MEMB (R350). -/
def execMemb (d a : BitVec 5) (form : BitVec 2) (s : State) : Out :=
  issueIdx (.memb d a form) 1 (membFault d a form) (effMemb d a form) s

/-- Sums of member rows, column by column, as FP32; a single member is copied (R351). -/
def sumRows (w : Nat) (bf : Bool) (rows : List Bytes) : Bytes :=
  match rows with
  | [r] => numberBytes 4 (widened w bf r)
  | _ =>
    let vals := rows.map (rowVals w bf)
    numberBytes 4 ((List.range w).map fun k => fp32.rne (osum (vals.map (·.getD k (.zero false)))))

def effMemba (d a : BitVec 5) (rfmt : BitVec 1) (rw : BitVec 4) (_ : Env) : M Unit := do
  let s ← get
  let x := s.ctx.idx
  let bf := rfmt == 1
  let w := 32 * (rw.toNat + 1)
  idxChecks [⟨a.toNat, rowFmts bf, false, rowBlocks w bf x.rc⟩, ⟨d.toNat, rowFmts false, true, 0⟩]
    (x.bv && spanOk a.toNat (rowBlocks w bf x.rc) && spanOk d.toNat (rowBlocks w false x.nb))
  let l ← idxPop a.toNat (rowBlocks w bf x.rc) (rowFmts bf)
  let rows := unpackRows w bf x.rc l
  idxEmit d.toNat (packRows w false ((List.range x.nb).map fun b => sumRows w bf ((x.members b).map fun r => rows.getD r [])))
    (rowFmts false)
/-- MEMBA (R351). -/
def execMemba (d a : BitVec 5) (rfmt : BitVec 1) (rw : BitVec 4) (s : State) : Out :=
  issueIdx (.memba d a rfmt rw) 1 none (effMemba d a rfmt rw) s

/-! ## Moving (R352) -/

def effIxld (d a : BitVec 5) (_ : Env) : M Unit := do
  idxChecks [⟨a.toNat, rawFmts, false, 1⟩]
  let l ← idxPop a.toNat 1
  idxEmit d.toNat l
/-- IXLD (R352). -/
def execIxld (d a : BitVec 5) (s : State) : Out := issueIdx (.ixld d a) 1 (ixldFault d a) (effIxld d a) s

def effIxst (d a : BitVec 5) (_ : Env) : M Unit := do
  idxChecks [⟨d.toNat, rawFmts, true, 0⟩]
  let l ← idxPop a.toNat 1
  idxEmit d.toNat l
/-- IXST (R352). -/
def execIxst (d a : BitVec 5) (s : State) : Out := issueIdx (.ixst d a) 1 (ixstFault d a) (effIxst d a) s

def effIxmov (d a : BitVec 5) (form : BitVec 2) (_ : Env) : M Unit := do
  let b ← match form.toNat with
    | 0 => readY a.toNat
    | 1 => pure (List.replicate 2048 0)
    | _ => pure (List.replicate 2048 0xFF)
  idxEmit d.toNat [b]
/-- IXMOV (R352). -/
def execIxmov (d a : BitVec 5) (form : BitVec 2) (s : State) : Out :=
  issueIdx (.ixmov d a form) 1 (ixmovFault d a form) (effIxmov d a form) s

/-! ## Bitmaps and counts (R353 to R356) -/

/-- The one bits of a word. -/
def ones (n : Nat) : Nat := (List.range 32).foldl (fun c i => c + n / 2 ^ i % 2) 0

/-- BMAND and BMOR (R355). -/
def bitmapOp (f : Nat → Nat → Nat) (d a b : BitVec 5) : M Unit := do
  idxChecks [⟨a.toNat, rawFmts, false, 1⟩, ⟨b.toNat, rawFmts, false, 1⟩, ⟨d.toNat, rawFmts, true, 0⟩]
  let x ← idxPop a.toNat 1
  let y ← idxPop b.toNat 1
  let s ← get
  idxEmit d.toNat [numberBytes 4 (padTo 512 0 (((wordsOf x.flatten).zipWith f (wordsOf y.flatten)).take s.ctx.idx.nw))]

def effBmand (d a b : BitVec 5) (_ : Env) : M Unit := bitmapOp (· &&& ·) d a b
/-- BMAND (R355). -/
def execBmand (d a b : BitVec 5) (s : State) : Out := issueIdx (.bmand d a b) 1 none (effBmand d a b) s

def effBmor (d a b : BitVec 5) (_ : Env) : M Unit := bitmapOp (· ||| ·) d a b
/-- BMOR (R355). -/
def execBmor (d a b : BitVec 5) (s : State) : Out := issueIdx (.bmor d a b) 1 none (effBmor d a b) s

/-- The ones before each word, counted in the first `nw` words (R356). -/
def offsetsOf (nw : Nat) : List Nat → Nat → Nat → List Nat
  | [], _, _ => []
  | x :: r, w, off => off :: offsetsOf nw r (w + 1) (if w < nw then off + ones x else off)

def effBmpfx (d a : BitVec 5) (_ : Env) : M Unit := do
  idxChecks [⟨a.toNat, rawFmts, false, 1⟩, ⟨d.toNat, rawFmts, true, 0⟩]
  let l ← idxPop a.toNat 1
  let s ← get
  idxEmit d.toNat [numberBytes 4 (offsetsOf s.ctx.idx.nw (wordsOf l.flatten) 0 0)]
/-- BMPFX (R356). -/
def execBmpfx (d a : BitVec 5) (s : State) : Out := issueIdx (.bmpfx d a) 1 none (effBmpfx d a) s

/-- The block of IXCNT.stat (Table 6 of chapter 11). -/
def IdxSt.statBlock (x : IdxSt) : Bytes :=
  numberBytes 4 [x.rc, x.nb, x.nw,
    2 ^ 15 * bit x.repv + 2 ^ 14 * bit x.bv + 2 ^ 13 * bit x.rowf + 256 * (x.bwid - 1) + 16 * (x.w / 32 - 1) + (x.nh - 1),
    x.nout, 0] ++ natToBytes 8 x.spdw.toNat

/-- One bits of the bitmap words in use. -/
def popUsed (nw : Nat) (b : Bytes) : Nat := ((wordsOf b).take nw).foldl (fun c w => c + ones w) 0

def effIxcnt (d a : BitVec 5) (form : BitVec 2) (e : Env) : M Unit :=
  match form.toNat with
  | 0 => do
    idxChecks [⟨a.toNat, rawFmts, false, 1⟩, ⟨d.toNat, rawFmts, true, 0⟩]
    let l ← idxPop a.toNat 1
    let s ← get
    idxEmit d.toNat [natToBytes 4 (popUsed s.ctx.idx.nw l.flatten)]
  | 1 => do
    idxChecks [⟨d.toNat, rawFmts, true, 0⟩]
    let s ← get
    idxEmit d.toNat [s.ctx.idx.statBlock]
  | 2 => do
    let v := (e.kreg a.toNat).toNat
    need (decide (1 ≤ v) && decide (v ≤ 512)) .illegalOperand
    modIdx fun x => { x with nw := v }
  | _ => do
    idxChecks [⟨a.toNat, rawFmts, false, 1⟩]
    let s ← get
    need (s.ctx.bq.producer == some .idx) .queueProtocol
    let l ← idxPop a.toNat 1
    let s ← get
    emit .idx [{ dest := .branch, block := { bytes := [] }, bit := decide (0 < popUsed s.ctx.idx.nw l.flatten) }]
/-- IXCNT (R353). -/
def execIxcnt (d a : BitVec 5) (form : BitVec 2) (s : State) : Out :=
  issueIdx (.ixcnt d a form) 1 (ixcntFault d a form) (effIxcnt d a form) s

/-! ## SPDOT (R357) -/

/-- A sparse vector: bitmap, offsets, and its values block. -/
structure SpVec where
  bits : List Nat
  offs : List Nat
  data : Bytes
  deriving DecidableEq, Repr

/-- Values of a block, and a value's bytes. -/
def spCap (vfmt : Nat) : Nat := match vfmt with | 0 => 2048 | 1 => 1024 | _ => 512
def spSize (vfmt : Nat) : Nat := match vfmt with | 0 => 1 | 1 => 2 | _ => 4
/-- A value's encoding. -/
def SpVec.code (v : SpVec) (vfmt p : Nat) : Nat := bytesToNat ((v.data.drop (spSize vfmt * p)).take (spSize vfmt))
def SpVec.int (v : SpVec) (p : Nat) : Int := (BitVec.ofNat 8 (v.code 0 p)).toInt
def SpVec.fval (v : SpVec) (vfmt p : Nat) : FVal := if vfmt = 1 then bf16.val (v.code 1 p) else fp32.val (v.code 2 p)
/-- The position of bit j of word w. -/
def SpVec.posOf (v : SpVec) (w j : Nat) : Nat := v.offs.getD w 0 + ones (v.bits.getD w 0 % 2 ^ j)

/-- The pairs of positions of a word, in increasing j. -/
def spPairs (x y : SpVec) (w : Nat) : List (Nat × Nat × Nat) :=
  let m := x.bits.getD w 0 &&& y.bits.getD w 0
  ((List.range 32).filter fun j => m / 2 ^ j % 2 == 1).map fun j => (j, x.posOf w j, y.posOf w j)

/-- The sum so far: acc, np, nw, and empty words. -/
structure SpSum where
  acc : Nat := 0
  np : Nat := 0
  nw : Nat := 0
  empty : Nat := 0
  deriving DecidableEq, Repr

/-- One word of SPDOT; the index of a stored element beyond its block where there is one. -/
def spWord (vfmt : Nat) (x y : SpVec) (w : Nat) (t : SpSum) : Except Nat SpSum :=
  let ps := spPairs x y w
  if ps = [] then .ok { t with empty := t.empty + 1 }
  else match ps.find? fun (p : Nat × Nat × Nat) => decide (spCap vfmt ≤ p.2.1) || decide (spCap vfmt ≤ p.2.2) with
    | some p => .error (32 * w + p.1)
    | none =>
      let acc :=
        if vfmt = 0 then
          (((t.acc : Int) + ps.foldl (fun (s : Int) (p : Nat × Nat × Nat) => s + x.int p.2.1 * y.int p.2.2) 0) % 2 ^ 32).toNat
        else fp32.rne ((fp32.val t.acc).add false
          (exactSum false (.zero false :: ps.map fun p => (x.fval vfmt p.2.1).mul (y.fval vfmt p.2.2))))
      .ok { t with acc := acc, np := t.np + ps.length, nw := t.nw + 1 }

/-- The words from `w` on (fuel: how many). -/
def spWords (vfmt : Nat) (x y : SpVec) : Nat → Nat → SpSum → Except Nat SpSum
  | 0, _, t => .ok t
  | f + 1, w, t => match spWord vfmt x y w t with
    | .ok t' => spWords vfmt x y f (w + 1) t'
    | .error i => .error i

/-- The group of three registers at y[n]. -/
def readGroup (n : Nat) : M SpVec := do
  let b ← readY n
  let o ← readY (n + 1)
  let v ← readY (n + 2)
  pure { bits := wordsOf b, offs := wordsOf o, data := v }

def effSpdot (d a b : BitVec 5) (vfmt : BitVec 2) (_ : Env) : M Unit := do
  idxChecks [⟨d.toNat, rawFmts, true, 0⟩]
  let x ← readGroup a.toNat
  let y ← readGroup b.toNat
  let s ← get
  match spWords vfmt.toNat x y s.ctx.idx.nw 0 {} with
  | .error i => raise { cause := .illegalOperand, tinfo := i }
  | .ok t => do
    let w := BitVec.ofNat 64 (min (s.ctx.idx.spdw.toNat + t.empty) (2 ^ 64 - 1))
    idxEmit d.toNat [numberBytes 4 [t.acc, t.np, t.nw]] rawFmts (.spdw w)
/-- SPDOT (R357). -/
def execSpdot (d a b : BitVec 5) (vfmt : BitVec 2) (s : State) : Out :=
  issueIdx (.spdot d a b vfmt) 1 (spdotFault a b vfmt) (effSpdot d a b vfmt) s

/-! ## Merges (R358 to R360) -/

/-- The end marker. -/
def endMark : Nat := 0xFFFFFFFF

/-- The merge in IDX's hold buffer. -/
def State.merge (s : State) : MergeSt := (s.hold .idx).merge.getD {}
def State.setMerge (s : State) (m : MergeSt) : State := s.setHold .idx { s.hold .idx with merge := some m }

/-- Pop a block of a source of a merge. -/
def mergePop (fld : Nat) : M (List Nat) := do
  if fld < 24 then do
    let b ← popQ .idx (fld - 16)
    pure (wordsOf b)
  else do
    let b ← popStream .idx (fld - 24) rawFmts
    pure (wordsOf b.bytes)

/-- The words of a source with a block more, where the next one has not been popped. -/
def MergeSrc.more (q : MergeSrc) (l : List Nat) : MergeSrc := { q with words := q.words ++ l }

/-- The source that a flag names. -/
def MergeSt.src (m : MergeSt) (second : Bool) : MergeSrc := if second then m.b else m.a
def MergeSt.setSrc (m : MergeSt) (second : Bool) (q : MergeSrc) : MergeSt := if second then { m with b := q } else { m with a := q }

/-- The next word of a source becomes its head: `next` of R359. -/
def mergeNext (second : Bool) (fld : Nat) : M Unit := do
  let s ← get
  let q := s.merge.src second
  if q.head.isSome then pure ()
  else do
    if q.words.length ≤ q.pos then do
      let l ← mergePop fld
      modify fun s => s.setMerge (s.merge.setSrc second (q.more l))
    let s ← get
    let q := s.merge.src second
    let v := q.words.getD q.pos endMark
    if v != endMark && q.prev.any fun p => decide (v ≤ p) then
      raise { cause := .sortOrder, tinfo := fld + 2 ^ 32 * v, toff := q.pos }
    else set (s.setMerge (s.merge.setSrc second { q with pos := q.pos + 1, prev := some v, head := some v }))

/-- Push the block that is full. -/
def mergeFlush (d : Nat) : M Unit := do
  let s ← get
  match s.merge.pend with
  | none => pure ()
  | some l => do
    let b := entry (numberBytes 4 l)
    if d < 24 then pushQ .idx (d - 16) b else writeStream .idx (d - 24) { bytes := b } rawFmts
    modify fun s => s.setMerge { s.merge with pend := none }

/-- Emit a coordinate into the output block in progress. -/
def MergeSt.emit (m : MergeSt) (v : Nat) : MergeSt :=
  let o := m.out ++ [v]
  if o.length = 512 then { m with out := [], pend := some o } else { m with out := o }

/-- One turn of the loop of R359, with both heads read: the merge, and whether a coordinate was emitted. -/
def MergeSt.turn (m : MergeSt) (union : Bool) (ha hb : Nat) : MergeSt × Bool :=
  if ha = endMark ∧ hb = endMark then
    ({ m with fin := true, out := [], pend := some (padTo 512 endMark m.out) }, false)
  else if ha = hb then (({ m with a.head := none, b.head := none }).emit ha, true)
  else if ha < hb then
    let m1 := { m with a.head := none }
    if union then (m1.emit ha, true) else (m1, false)
  else
    let m1 := { m with b.head := none }
    if union then (m1.emit hb, true) else (m1, false)

/-- Words that a merge may consume before it pauses (R18): the model's own bound on one step. -/
def mergeTurns : Nat := 4096

/-- The merge from where it stands (fuel: its turns); it pauses, to be tried again, when the turns are used up. -/
def mergeLoop (union : Bool) (d a b : Nat) : Nat → M Unit
  | 0 => wait
  | f + 1 => do
    mergeFlush d
    let s ← get
    if s.merge.fin then pure ()
    else do
      mergeNext false a
      mergeNext true b
      let s ← get
      let m := s.merge
      let r := m.turn union (m.a.head.getD endMark) (m.b.head.getD endMark)
      set (s.setMerge r.1)
      if r.2 then modIdx fun x => { x with nout := x.nout + 1 }
      mergeLoop union d a b f

/-- A source still wants a block, or may: its head is not there, nor a word to take (R359). -/
def MergeSrc.wants (q : MergeSrc) : Bool := q.head.isNone && decide (q.words.length ≤ q.pos)

/-- ISECT and UNION (R359). One that goes on from its hold buffer looks only at the sources that want a block more. -/
def mergeOp (union : Bool) (d a b : BitVec 5) : M Unit := do
  let s ← get
  let m := s.merge
  idxChecks ((if m.a.wants then [⟨a.toNat, rawFmts, false, 0⟩] else []) ++ (if m.b.wants then [⟨b.toNat, rawFmts, false, 0⟩] else [])
    ++ [⟨d.toNat, rawFmts, true, 0⟩])
  if (s.hold .idx).merge.isNone then set ({ s.setMerge {} with ctx.idx.nout := 0 } : State)
  mergeLoop union d.toNat a.toNat b.toNat mergeTurns

def effIsect (d a b : BitVec 5) (_ : Env) : M Unit := mergeOp false d a b
/-- ISECT (R359, R360). -/
def execIsect (d a b : BitVec 5) (s : State) : Out := issueIdx (.isect d a b) 1 (mergeFault d a b) (effIsect d a b) s

def effUnion (d a b : BitVec 5) (_ : Env) : M Unit := mergeOp true d a b
/-- UNION (R359, R360). -/
def execUnion (d a b : BitVec 5) (s : State) : Out := issueIdx (.union d a b) 1 (mergeFault d a b) (effUnion d a b) s

/-! ## CONTRACT (R361 to R363) -/

/-- Bits of a word of the parameter block. -/
def pbits (p : List Word) (n hi lo : Nat) : Nat := bitsOf (p.getD n 0).toNat hi lo

/-- The class of a block. -/
def contractClass (p : List Word) : Nat := pbits p 0 3 0

/-- The index labels of an operand: first, second. -/
def labels (p : List Word) (lo : Nat) : Nat × Nat := (pbits p 1 (lo + 3) lo, pbits p 1 (lo + 7) (lo + 4))

/-- Class 0, first pattern: (i,k), (j,k) → (i,j). -/
def rowPattern (a b c : Nat × Nat) : Bool :=
  a.2 == b.2 && a.1 == c.1 && b.1 == c.2 && a.1 != 0 && a.2 != 0 && b.1 != 0 && a.1 != a.2 && a.1 != b.1 && a.2 != b.1
/-- Class 0, second pattern: (k,i), (k,j) → (i,j). -/
def colPattern (a b c : Nat × Nat) : Bool :=
  a.1 == b.1 && a.2 == c.1 && b.2 == c.2 && a.1 != 0 && a.2 != 0 && b.2 != 0 && a.1 != a.2 && a.2 != b.2 && a.1 != b.2

/-- Fields that no class uses (R362, Table 7). -/
def contractReserved (p : List Word) : Bool :=
  pbits p 0 31 16 != 0 || pbits p 1 31 24 != 0 || pbits p 5 31 0 != 0 || pbits p 6 31 0 != 0 || pbits p 7 31 0 != 0

/-- A block that R362 accepts. -/
def contractOk (p : List Word) : Bool :=
  let a := labels p 8
  let b := labels p 16
  let c := labels p 0
  let one := a.1 != 0 && a.2 == 0 && b == a
  let fa := pbits p 0 7 4
  let fb := pbits p 0 11 8
  let ga := pbits p 3 12 8
  let gb := pbits p 3 20 16
  let regs := pbits p 3 31 21 == 0 && pbits p 3 15 13 == 0 && pbits p 3 7 5 == 0 && pbits p 4 31 0 == 0
  !contractReserved p && pbits p 0 15 12 == 0 &&
  match contractClass p with
  | 0 => (rowPattern a b c || colPattern a b c) && pbits p 2 31 16 != 0 && pbits p 2 15 15 == 0 && pbits p 2 7 7 == 0
      && pbits p 3 31 13 == 0 && pbits p 3 11 11 == 0 && pbits p 3 7 7 == 0 && pbits p 3 3 2 == 0 && pbits p 4 31 9 == 0
  | 1 => one && c == (0, 0) && regs && fa == fb && (fa == 5 || fa == 2 || fa == 0) && decide (ga ≤ 13) && decide (gb ≤ 13)
  | 2 | 3 => one && c == a && regs && fa == 0 && fb == 0 && pbits p 2 31 0 == 0
      && decide (16 ≤ ga) && decide (16 ≤ gb) && decide (16 ≤ pbits p 3 4 0) && ga != gb
  | _ => false

/-- The largest of 8, 4, 2, 1 that divides KBT. -/
def contractKb (p : List Word) : Nat :=
  let n := pbits p 2 31 16
  if n % 8 = 0 then 8 else if n % 4 = 0 then 4 else if n % 2 = 0 then 2 else 1

/-- The words of an expansion (Table 8). -/
def contractCount (p : List Word) : Nat :=
  match contractClass p with
  | 0 => pbits p 3 12 12 + pbits p 2 31 16 / contractKb p
  | 1 => 4
  | _ => 1

/-- Word `i` of an expansion (Table 8); the block stands in k[a] to k[a + 7]. -/
def contractWord (a : Nat) (p : List Word) (i : Nat) : Instr :=
  let d := BitVec.ofNat 5 (pbits p 3 4 0)
  let ga := BitVec.ofNat 5 (pbits p 3 12 8)
  let gb := BitVec.ofNat 5 (pbits p 3 20 16)
  match contractClass p with
  | 0 =>
    let acc := BitVec.ofNat 2 (pbits p 3 1 0)
    let ra := BitVec.ofNat 3 (pbits p 3 6 4)
    let rb := BitVec.ofNat 3 (pbits p 3 10 8)
    if i = 0 ∧ pbits p 3 12 12 = 1 then
      .shape acc (BitVec.ofNat 1 (pbits p 4 8 8)) (BitVec.ofNat 4 (pbits p 0 11 8)) (BitVec.ofNat 4 (pbits p 0 7 4))
        (BitVec.ofNat 7 (pbits p 2 6 0)) (BitVec.ofNat 7 (pbits p 2 14 8)) (BitVec.ofNat 3 (contractKb p - 1))
        (BitVec.ofNat 4 (pbits p 4 3 0)) (BitVec.ofNat 4 (pbits p 4 7 4))
    else if rowPattern (labels p 8) (labels p 16) (labels p 0) then .mma acc ra rb 0 0 0
    else .mmat acc ra rb 0 0 0
  | 1 => match i with
    | 0 => .ixcnt 0 (BitVec.ofNat 5 (a + 2)) 2
    | 1 => .bmpfx (ga + 1) ga
    | 2 => .bmpfx (gb + 1) gb
    | _ => .spdot d ga gb (match pbits p 0 7 4 with | 5 => 0 | 2 => 1 | _ => 2)
  | 2 => .isect d ga gb
  | _ => .union d ga gb

/-- Begin an expansion, or raise what R362 finds (R361). -/
def beginContract (a : Nat) (s : State) : Out :=
  let p := (List.range 8).map fun j => s.kreg (a + j)
  let at' := s.ctx.seq.fetch
  if contractOk p then
    .next { s with ctx.seq.wait := .contract a p 0, ctx.seq.pfx := none, ctx.seq.adv := false, ctx.stuck := 0 }
  else .next ({ s with ctx.seq.pfx := none }.takeTrap .seq at' 1 { cause := .illegalOperand })

/-- CONTRACT (R361): the dispatcher's microcode takes it as it is fetched; a word-level fault of the word goes to IDX's
queue (R15). -/
def execContract (a : BitVec 5) (s : State) : Out :=
  match s.ctx.seq.pfx with
  | none =>
    if (contractFault a).isSome ∨ s.masked .idx then issueIdx (.contract a) 1 (some .illegalOperand) (fun _ => pure ()) s
    else beginContract a.toNat s
  | some p =>
    if p.eng.toNat ≠ Engine.idx.code then orphan p s
    else if (contractFault a).isSome ∨ s.masked .idx ∨ pfxFault (.contract a) p.rnd p.sat then
      issueIdx (.contract a) 1 (some .illegalOperand) (fun _ => pure ()) s
    else if pfxCond s p then beginContract a.toNat s
    else .next (s.advance 1)

end Sys2Proof.Machine
end

