-- ==== Sys2Proof/Machine/Ldt.lean ====
section
/-! DEFINITION. LDT and where its data comes from (R29, R33, R303 to R306). -/
namespace Sys2Proof.Machine

/-! ## The data of a landing (R306) -/

/-- Read blocks of a run as it stood when they were taken: those that had been filled, and fills of the others. -/
def readRun (i : Nat) (t : Stream) (n : Nat) : M (List VReg) :=
  (List.range n).mapM fun j =>
    match t.buf[j]? with
    | some b => pure (lanesOf 512 b.bytes)
    | none => do
      let b ← readBlock i t (t.done + j)
      pure (lanesOf 512 b.bytes)

/-- The index in its run of the first block whose fill fails (fuel: the blocks). -/
def failingBlock (i : Nat) (t : Stream) : Nat → Nat → State → Nat
  | 0, k, _ => k
  | f + 1, k, s =>
    if k < t.done + t.buf.length then failingBlock i t f (k + 1) s
    else match readBlock i t k s with
      | .ok _ s' => failingBlock i t f (k + 1) s'
      | .error _ _ => k

/-- What reading the data of a landing comes to: the lanes, a failure, or nothing yet. -/
inductive Arrived where
  | data (d : List VReg)
  | failed (t : TrapInfo)
  | later
  deriving DecidableEq, Repr

/-- The registers of a run of bytes. -/
def blockRows (n : Nat) (b : Bytes) : List VReg := (chunks 2048 n b).map (lanesOf 512)

/-- Read the data of a landing of `n` registers. A failure of a scratchpad read names the failing sector (R33). -/
def State.arrival (s : State) (src : LdtSource) (n : Nat) : Arrived :=
  match src with
  | .pad o => match readPad o (2048 * n) s with
    | .ok b _ => .data (blockRows n b)
    | .error (.trap t) _ => .failed t
    | .error _ _ => .later
  | .l2 sl o => if s.watermarked (.l2 sl) o (2048 * n) then .later else .data (blockRows n (s.l2.read (2 ^ 23 * sl + o) (2048 * n)))
  | .run i t => match readRun i t n (s.setStream i t) with
    | .ok d _ => .data d
    | .error (.trap e) _ => .failed (streamTrap i (failingBlock i t n t.done (s.setStream i t)) e)
    | .error _ _ => .later

/-- A landing with what has arrived for it. -/
def Landing.receive (l : Landing) (a : Arrived) : Landing :=
  match a with
  | .data d => { l with data := some d }
  | .failed t => { l with failed := some t }
  | .later => l

/-- A failed fill leaves its stream in FAULT (R305). -/
def State.failRun (s : State) (src : LdtSource) (a : Arrived) : State :=
  match src, a with
  | .run i t, .failed f =>
    let u := s.stream i
    if u.ldcap = t.ldcap ∧ u.desc = t.desc then s.setStream i { u with st := .fault, fillFault := some { f with bad := .told }, reported := true }
    else s
  | _, _ => s

/-- What the data of a landing does as it arrives. -/
def State.receive (s : State) (l : Landing) : State × Landing :=
  let a := s.arrival l.src (l.h * l.w)
  (s.failRun l.src a, l.receive a)

/-! ## LDT -/

/-- Landing slots (R29). -/
def landingSlots : Nat := 8

/-- The reference of an LDT of the scratchpad or an L2 slice, from k registers or bytes 0 to 7 of a queue entry. -/
def ldtRef (o : Ldt) (e : Env) : M DWord := do
  if o.ka = 2 then do
    let b ← sourceQueue .vec o.a.toNat
    pure (BitVec.ofNat 64 (bytesToNat (b.bytes.take 8)))
  else if o.fn.toNat = 1 then pure (e.kreg (o.a.toNat + 1) ++ e.kreg o.a.toNat)
  else pure ((e.kreg o.a.toNat).setWidth 64)

/-- The source of an LDT, with its checks at issue (R304, R305). -/
def ldtSource (o : Ldt) (e : Env) (n : Nat) : M LdtSource := do
  if o.fn = 2 then do
    let i := o.a.toNat
    checkIn .vec i rawFmts
    let s ← get
    let t := s.stream i
    await (t.st == .run || t.st == .fault)
    landingGate n
    need (decide (t.done + n ≤ t.desc.blocks)) .illegalOperand
    pure (.run i t)
  else do
    let v ← ldtRef o e
    landingGate n
    let s ← get
    if o.fn = 1 then do
      need (!l2RefBad v && l2Off v % 64 == 0) .illegalOperand
      check (s.l2Check v 0 (2048 * n))
      pure (.l2 (l2Slice v) (l2Off v))
    else do
      need (!s.ownRefBad v && refOff v % 64 == 0) .illegalOperand
      check (s.padCheck (refOff v) (2048 * n))
      pure (.pad (refOff v))

/-- A run without the blocks that an LDT has taken of it (R305). -/
def Stream.without (t : Stream) (n : Nat) : Stream :=
  let last := t.done + n == t.desc.blocks
  let retry := decide (t.buf.length < n)
  { t with done := t.done + n, buf := t.buf.drop n,
           st := if last then .ended else if retry then .run else t.st,
           fillFault := if retry then none else t.fillFault, reported := !retry && t.reported }

def effLdt (o : Ldt) (e : Env) : M Unit := do
  let h := o.h.toNat + 1
  let w := o.w.toNat + 1
  let s ← get
  need (decide ((s.ctx.vec.slots.filter (·.rem != 0)).length < landingSlots)) .illegalOperand
  let src ← ldtSource o e (h * w)
  needGood (if o.m = 0 then [] else [64 + o.m.toNat])
  let s ← get
  let l : Landing :=
    { base := o.d.toNat, h := h, w := w, mask := s.mreg o.m.toNat, rem := o.dly.toNat + 1, src := src, addr := e.addr }
  let s1 := match src with
    | .run i t => s.setStream i (t.without (h * w))
    | _ => s
  let r := if s.late then (s1, l) else s1.receive l
  set ({ r.1 with ctx.vec.slots := r.1.ctx.vec.slots ++ [r.2] } : State)
/-- LDT (R303 to R306). -/
def execLdt (o : Ldt) (s : State) : Out := issueVec (.ldt o) 2 (ldtFault o) (effLdt o) s

end Sys2Proof.Machine
end

