-- ==== Sys2Proof/Machine/Prefix.lean ====
section
/-! DEFINITION. The prefix word (R65 to R69). -/
namespace Sys2Proof.Machine

/-- PFX (R65, R68, R69): the prefix waits for the next word; one that names no engine with prefixable instructions is
orphaned at its own fetch. -/
def execPfx (eng rnd : BitVec 3) (sat : BitVec 2) (pred : BitVec 3) (sense : BitVec 1) (s : State) : Out :=
  match s.ctx.seq.pfx with
  | some p => orphan p s
  | none =>
    if eng = 0 then .next (s.takeTrap .seq s.ctx.seq.fetch 1 { cause := .orphanPrefix })
    else if 6 ≤ eng.toNat ∨ rnd = 7 ∨ sat = 3 then
      -- the decoder gives no such word; R65 and R15 make it ILLEGAL
      .next (s.takeTrap .seq s.ctx.seq.fetch 1 { cause := .illegal })
    else
      let p : PendingPfx :=
        { eng := eng, rnd := rnd, sat := sat, pred := pred, sense := sense, addr := s.ctx.seq.fetch }
      .next { s.advance 1 with ctx.seq.pfx := some p }

end Sys2Proof.Machine
end

