-- ==== Sys2Proof/Machine/Run.lean ====
section
/-! DEFINITION. What the head of an engine's queue does, by its instruction, and the meaning of a fetched word. -/
namespace Sys2Proof.Machine

/-- The effect of an instruction that an engine takes from its queue; SEQ words and unit steps are in no queue. -/
def effOf (i : Instr) (e : Env) : M Unit :=
  match i with
  | .add d a b f => effAdd d a b f e
  | .sub d a b f => effSub d a b f e
  | .mul d a b f => effMul d a b f e
  | .mulh d a b f => effMulh d a b f e
  | .and d a b _ => effAnd d a b e
  | .or d a b _ => effOr d a b e
  | .xor d a b _ => effXor d a b e
  | .shl d a b _ => effShl d a b e
  | .shr d a b _ => effShr d a b e
  | .sra d a b _ => effSra d a b e
  | .min d a b f => effMin d a b f e
  | .max d a b f => effMax d a b f e
  | .addi d a imm => effAddi d a imm e
  | .andi d a imm => effAndi d a imm e
  | .ori d a imm => effOri d a imm e
  | .shli d a n => effShli d a n e
  | .shri d a n => effShri d a n e
  | .li d hi lo => effLi d hi lo e
  | .lih d u => effLih d u e
  | .cmp d a b f => effCmp d a b f e
  | .cmpb a b f => effCmpb a b f e
  | .movq d a => effMovq d a e
  | .popq d a => effPopq d a e
  | .divu d a b => effDivu d a b e
  | .remu d a b => effRemu d a b e
  | .clz d a _ => effClz d a e
  | .popc d a _ => effPopc d a e
  | .cmov d a => effCmov d a e
  | .cnarrow d a b => effCnarrow d a b e
  | .crights d a b => effCrights d a b e
  | .cadd d a b f => effCadd d a b f e
  | .cget d a f => effCget d a f e
  | .cld d a b im => effCld d a b im e
  | .cst d a b im => effCst d a b im e
  | .ld d a b im sx size => effLd d a b im sx size e
  | .st d a b im size => effSt d a b im size e
  | .lds d a b im sx size => effLds d a b im sx size e
  | .sts d a b im size => effSts d a b im size e
  | .ldq d a b im sp len => effLdq d a b im sp len e
  | .stq d a b im sp len => effStq d a b im sp len e
  | .prf a b im lvl => effPrf a b im lvl e
  | .fence scope => effFence scope e
  | .sbind d a f => effSbind d a f e
  | .sset d a b im sp => effSset d a b im sp e
  | .sring d a => effSring d a e
  | .sstop d => effSstop d e
  | .sstat d a f => effSstat d a f e
  | .sout d a => effSout d a e
  | .pgdist d a f => effPgdist d a f e
  | .cpy d a b dsp ssp => effCpy d a b dsp ssp e
  | .cpy2 d a b dsp ssp => effCpy2 d a b dsp ssp e
  | .cpyl2 d a b osp dir => effCpyl2 d a b osp dir e
  | .chain d a b => effChain d a b e
  | .mcast d a b ssp => effMcast d a b ssp e
  | .gwin d a b f => effGwin d a b f e
  | .scrub d a b => effScrub d a b e
  | .wmark => effWmark e
  | .swarm a clr => effSwarm a clr e
  | .migr a b => effMigr a b e
  | .atom d a b ret size op => effAtom d a b ret size op e
  | .atomf d a b ret => effAtomf d a b ret e
  | .atomfQ a b => effAtomfQ a b e
  | .bind d a b rep scope => effBind d a b rep scope e
  | .acq a sh => effAcq a sh e
  | .rel a => effRel a e
  | .tryacq d a sh => effTryacq d a sh e
  | .tlget d iss cls => effTlget d iss cls e
  | .tlarm d a b kind => effTlarm d a b kind e
  | .lsend d a b ssp => effLsend d a b ssp e
  | .lrecv d a b dsp => effLrecv d a b dsp e
  | .lradd d a b => effLradd d a b e
  | .lslot d a b off => effLslot d a b off e
  | .evict d a b mode => effEvict d a b mode e
  | .rmap d a b form => effRmap d a b form e
  | .eqpost d a b arm => effEqpost d a b arm e
  | .eqpeek d a b => effEqpeek d a b e
  | .eqrel a b => effEqrel a b e
  | .eqcut a b => effEqcut a b e
  | .spill a b => effSpill a b e
  | .fill a b => effFill a b e
  | .fadd o => effFadd o e
  | .fsub o => effFsub o e
  | .fmul o => effFmul o e
  | .ffma o => effFfma o e
  | .fmin o => effFmin o e
  | .fmax o => effFmax o e
  | .fabs o => effFabs o e
  | .fneg o => effFneg o e
  | .frcp o => effFrcp o e
  | .frsq o => effFrsq o e
  | .fexp2 o => effFexp2 o e
  | .flog2 o => effFlog2 o e
  | .ftanh o => effFtanh o e
  | .fcmp o => effFcmp o e
  | .iadd o => effIadd o e
  | .isub o => effIsub o e
  | .imul o => effImul o e
  | .imad o => effImad o e
  | .imin o => effImin o e
  | .imax o => effImax o e
  | .vecAnd o => effVecAnd o e
  | .vecOr o => effVecOr o e
  | .vecXor o => effVecXor o e
  | .lop3 o => effLop3 o e
  | .vecShl o => effVecShl o e
  | .vecShr o => effVecShr o e
  | .vecSra o => effVecSra o e
  | .fshl o => effFshl o e
  | .fshr o => effFshr o e
  | .vecPopc o => effVecPopc o e
  | .vecClz o => effVecClz o e
  | .icmp o => effIcmp o e
  | .mov o => effMov o e
  | .sel o => effSel o e
  | .bcst o => effBcst o e
  | .perm o => effPerm o e
  | .rot o => effRot o e
  | .cvt o => effCvt o e
  | .rsum o => effRsum o e
  | .rmax o => effRmax o e
  | .rmin o => effRmin o e
  | .scan o => effScan o e
  | .vcmpb o => effVcmpb o e
  | .ldt o => effLdt o e
  | .mset o => effMset o e
  | .shape acc smode fb fa m n kb kta ktb => effShape acc smode fb fa m n kb kta ktb e
  | .ringdef ring off fmt base slots rows kb => effRingdef ring off fmt base slots rows kb e
  | .mzero acc => effMzero acc e
  | .mma acc ra rb zero keepb keepa => effMma acc ra rb zero keepb keepa e
  | .mmat acc ra rb zero keepb keepa => effMmat acc ra rb zero keepb keepa e
  | .mscl acc norm k => effMscl acc norm k e
  | .mdrain acc clr ofmt d => effMdrain acc clr ofmt d e
  | .madd acc ra keepa => effMadd acc ra keepa e
  | .rskip ra n => effRskip ra n e
  | .atts acc ra rb nov keepb keepa ks kh => effAtts acc ra rb nov keepb keepa ks kh e
  | .attv acc rb keepb kh => effAttv acc rb keepb kh e
  | .attm acc ra rb keepb keepa ks kh => effAttm acc ra rb keepb keepa ks kh e
  | .mstat clr d => effMstat clr d e
  | .rowst acc ra keepa load d => effRowst acc ra keepa load d e
  | .sigcfg rowf nh a w bwid => effSigcfg rowf nh a w bwid e
  | .sigh a n => effSigh a n e
  | .bkt => effBkt e
  | .repsel a rule => effRepsel a rule e
  | .repgat d => effRepgat d e
  | .repscat d a rfmt rw => effRepscat d a rfmt rw e
  | .memb d a form => effMemb d a form e
  | .memba d a rfmt rw => effMemba d a rfmt rw e
  | .bmand d a b => effBmand d a b e
  | .bmor d a b => effBmor d a b e
  | .bmpfx d a => effBmpfx d a e
  | .isect d a b => effIsect d a b e
  | .union d a b => effUnion d a b e
  | .spdot d a b vfmt => effSpdot d a b vfmt e
  | .ixld d a => effIxld d a e
  | .ixst d a => effIxst d a e
  | .ixmov d a form => effIxmov d a form e
  | .ixcnt d a form => effIxcnt d a form e
  | .had d a n => effHad d a n e
  | .qst d a b blk ifmt hadn => effQst d a b blk ifmt hadn e
  | .qstm d a b blk ifmt hadn sel => effQstm d a b blk ifmt hadn sel e
  | .qsel hmode mask => effQsel hmode mask e
  | .ctbl d b => effCtbl d b e
  | .deq d a b blk ofmt => effDeq d a b blk ofmt e
  | .cvtx d a clr pf => effCvtx d a clr pf e
  | .cvtn d a b ofmt => effCvtn d a b ofmt e
  | .qhdr d a flt => effQhdr d a flt e
  | .qerr d a b ifmt => effQerr d a b ifmt e
  | .qstat d clr => effQstat d clr e
  | .hadw d a n => effHadw d a n e
  | _ => pure ()

/-- The meaning of a word that the dispatcher has fetched. Steps of units and of the host are no words. -/
def runWord (i : Instr) (s : State) : Out :=
  match i with
  | .pfx eng rnd sat pred sense => execPfx eng rnd sat pred sense s
  | .nop => execNop s
  | .br c w => execBr c w s
  | .brq z w => execBrq z w s
  | .call c w => execCall c w s
  | .ret => execRet s
  | .jmpq n w => execJmpq n w s
  | .loop d len count => execLoop d len count s
  | .loopq d len => execLoopq d len s
  | .lbrk c => execLbrk c s
  | .pset d a b f => execPset d a b f s
  | .plog d a b f => execPlog d a b f s
  | .ppop p => execPpop p s
  | .kld d a imm => execKld d a imm s
  | .snq d f => execSnq d f s
  | .rdv mask => execRdv mask s
  | .phase mask => execPhase mask s
  | .wait all mask exp mant => execWait all mask exp mant s
  | .yield => execYield s
  | .jobEnd => execJobEnd s
  | .trap imm => execTrap imm s
  | .rft skip => execRft skip s
  | .csrr d r f => execCsrr d r f s
  | .csrw d r f => execCsrw d r f s
  | .ctxsel n => execCtxsel n s
  | .tstamp d => execTstamp d s
  | .qcfg d a b f => execQcfg d a b f s
  | .halt => execHalt s
  | .spawn d a => execSpawn d a s
  | .tjoin d a poll => execTjoin d a poll s
  | .ruinv a f => execRuinv a f s
  | .rustat d a f => execRustat d a f s
  | .glaunch d a => execGlaunch d a s
  | .add d a b f => execAdd d a b f s
  | .sub d a b f => execSub d a b f s
  | .mul d a b f => execMul d a b f s
  | .mulh d a b f => execMulh d a b f s
  | .and d a b f => execAnd d a b f s
  | .or d a b f => execOr d a b f s
  | .xor d a b f => execXor d a b f s
  | .shl d a b f => execShl d a b f s
  | .shr d a b f => execShr d a b f s
  | .sra d a b f => execSra d a b f s
  | .min d a b f => execMin d a b f s
  | .max d a b f => execMax d a b f s
  | .addi d a imm => execAddi d a imm s
  | .andi d a imm => execAndi d a imm s
  | .ori d a imm => execOri d a imm s
  | .shli d a n => execShli d a n s
  | .shri d a n => execShri d a n s
  | .li d hi lo => execLi d hi lo s
  | .lih d u => execLih d u s
  | .cmp d a b f => execCmp d a b f s
  | .cmpb a b f => execCmpb a b f s
  | .movq d a => execMovq d a s
  | .popq d a => execPopq d a s
  | .divu d a b => execDivu d a b s
  | .remu d a b => execRemu d a b s
  | .clz d a f => execClz d a f s
  | .popc d a f => execPopc d a f s
  | .cmov d a => execCmov d a s
  | .cnarrow d a b => execCnarrow d a b s
  | .crights d a b => execCrights d a b s
  | .cadd d a b f => execCadd d a b f s
  | .cget d a f => execCget d a f s
  | .cld d a b im => execCld d a b im s
  | .cst d a b im => execCst d a b im s
  | .ld d a b im sx size => execLd d a b im sx size s
  | .st d a b im size => execSt d a b im size s
  | .lds d a b im sx size => execLds d a b im sx size s
  | .sts d a b im size => execSts d a b im size s
  | .ldq d a b im sp len => execLdq d a b im sp len s
  | .stq d a b im sp len => execStq d a b im sp len s
  | .prf a b im lvl => execPrf a b im lvl s
  | .fence scope => execFence scope s
  | .sbind d a f => execSbind d a f s
  | .sset d a b im sp => execSset d a b im sp s
  | .sring d a => execSring d a s
  | .sstop d => execSstop d s
  | .sstat d a f => execSstat d a f s
  | .sout d a => execSout d a s
  | .pgdist d a f => execPgdist d a f s
  | .cpy d a b dsp ssp => execCpy d a b dsp ssp s
  | .cpy2 d a b dsp ssp => execCpy2 d a b dsp ssp s
  | .cpyl2 d a b osp dir => execCpyl2 d a b osp dir s
  | .chain d a b => execChain d a b s
  | .mcast d a b ssp => execMcast d a b ssp s
  | .gwin d a b f => execGwin d a b f s
  | .scrub d a b => execScrub d a b s
  | .wmark => execWmark s
  | .swarm a clr => execSwarm a clr s
  | .migr a b => execMigr a b s
  | .atom d a b ret size op => execAtom d a b ret size op s
  | .atomf d a b ret => execAtomf d a b ret s
  | .atomfQ a b => execAtomfQ a b s
  | .bind d a b rep scope => execBind d a b rep scope s
  | .acq a sh => execAcq a sh s
  | .rel a => execRel a s
  | .tryacq d a sh => execTryacq d a sh s
  | .tlget d iss cls => execTlget d iss cls s
  | .tlarm d a b kind => execTlarm d a b kind s
  | .lsend d a b ssp => execLsend d a b ssp s
  | .lrecv d a b dsp => execLrecv d a b dsp s
  | .lradd d a b => execLradd d a b s
  | .lslot d a b off => execLslot d a b off s
  | .evict d a b mode => execEvict d a b mode s
  | .rmap d a b form => execRmap d a b form s
  | .eqpost d a b arm => execEqpost d a b arm s
  | .eqpeek d a b => execEqpeek d a b s
  | .eqrel a b => execEqrel a b s
  | .eqcut a b => execEqcut a b s
  | .spill a b => execSpill a b s
  | .fill a b => execFill a b s
  | .fadd o => execFadd o s
  | .fsub o => execFsub o s
  | .fmul o => execFmul o s
  | .ffma o => execFfma o s
  | .fmin o => execFmin o s
  | .fmax o => execFmax o s
  | .fabs o => execFabs o s
  | .fneg o => execFneg o s
  | .frcp o => execFrcp o s
  | .frsq o => execFrsq o s
  | .fexp2 o => execFexp2 o s
  | .flog2 o => execFlog2 o s
  | .ftanh o => execFtanh o s
  | .fcmp o => execFcmp o s
  | .iadd o => execIadd o s
  | .isub o => execIsub o s
  | .imul o => execImul o s
  | .imad o => execImad o s
  | .imin o => execImin o s
  | .imax o => execImax o s
  | .vecAnd o => execVecAnd o s
  | .vecOr o => execVecOr o s
  | .vecXor o => execVecXor o s
  | .lop3 o => execLop3 o s
  | .vecShl o => execVecShl o s
  | .vecShr o => execVecShr o s
  | .vecSra o => execVecSra o s
  | .fshl o => execFshl o s
  | .fshr o => execFshr o s
  | .vecPopc o => execVecPopc o s
  | .vecClz o => execVecClz o s
  | .icmp o => execIcmp o s
  | .mov o => execMov o s
  | .sel o => execSel o s
  | .bcst o => execBcst o s
  | .perm o => execPerm o s
  | .rot o => execRot o s
  | .cvt o => execCvt o s
  | .rsum o => execRsum o s
  | .rmax o => execRmax o s
  | .rmin o => execRmin o s
  | .scan o => execScan o s
  | .vcmpb o => execVcmpb o s
  | .ldt o => execLdt o s
  | .mset o => execMset o s
  | .shape acc smode fb fa m n kb kta ktb => execShape acc smode fb fa m n kb kta ktb s
  | .ringdef ring off fmt base slots rows kb => execRingdef ring off fmt base slots rows kb s
  | .mzero acc => execMzero acc s
  | .mma acc ra rb zero keepb keepa => execMma acc ra rb zero keepb keepa s
  | .mmat acc ra rb zero keepb keepa => execMmat acc ra rb zero keepb keepa s
  | .mscl acc norm k => execMscl acc norm k s
  | .mdrain acc clr ofmt d => execMdrain acc clr ofmt d s
  | .madd acc ra keepa => execMadd acc ra keepa s
  | .rskip ra n => execRskip ra n s
  | .atts acc ra rb nov keepb keepa ks kh => execAtts acc ra rb nov keepb keepa ks kh s
  | .attv acc rb keepb kh => execAttv acc rb keepb kh s
  | .attm acc ra rb keepb keepa ks kh => execAttm acc ra rb keepb keepa ks kh s
  | .mstat clr d => execMstat clr d s
  | .rowst acc ra keepa load d => execRowst acc ra keepa load d s
  | .sigcfg rowf nh a w bwid => execSigcfg rowf nh a w bwid s
  | .sigh a n => execSigh a n s
  | .bkt => execBkt s
  | .repsel a rule => execRepsel a rule s
  | .repgat d => execRepgat d s
  | .repscat d a rfmt rw => execRepscat d a rfmt rw s
  | .memb d a form => execMemb d a form s
  | .memba d a rfmt rw => execMemba d a rfmt rw s
  | .bmand d a b => execBmand d a b s
  | .bmor d a b => execBmor d a b s
  | .bmpfx d a => execBmpfx d a s
  | .isect d a b => execIsect d a b s
  | .union d a b => execUnion d a b s
  | .spdot d a b vfmt => execSpdot d a b vfmt s
  | .contract a => execContract a s
  | .ixld d a => execIxld d a s
  | .ixst d a => execIxst d a s
  | .ixmov d a form => execIxmov d a form s
  | .ixcnt d a form => execIxcnt d a form s
  | .had d a n => execHad d a n s
  | .qst d a b blk ifmt hadn => execQst d a b blk ifmt hadn s
  | .qstm d a b blk ifmt hadn sel => execQstm d a b blk ifmt hadn sel s
  | .qsel hmode mask => execQsel hmode mask s
  | .ctbl d b => execCtbl d b s
  | .deq d a b blk ofmt => execDeq d a b blk ofmt s
  | .cvtx d a clr pf => execCvtx d a clr pf s
  | .cvtn d a b ofmt => execCvtn d a b ofmt s
  | .qhdr d a flt => execQhdr d a flt s
  | .qerr d a b ifmt => execQerr d a b ifmt s
  | .qstat d clr => execQstat d clr s
  | .hadw d a n => execHadw d a n s
  | _ => .next s

end Sys2Proof.Machine
end

