-- ==== Sys2Proof/Machine/Fetch.lean ====
section
/-! DEFINITION. The fetch of the next word (R10, R11, R15, R60, R68 to R71) and the loop end check (R131). -/
namespace Sys2Proof.Machine

/-! ## The loop end check (R131, R133) -/

/-- One end check. Answers true when it looped back. -/
def endCheckOnce (l : Loop) : M Bool := do
  let s ← get
  let lc := s.lc l.ctr
  let again ← match l.kind with
    | .counted => do
      set (s.setLc l.ctr (lc - 1))
      pure (lc - 1 != 0)
    | .queued => do
      let b ← popBq
      if b then modify fun s => s.setLc l.ctr (if lc = BitVec.allOnes 27 then lc else lc + 1)
      pure b
  modify fun s =>
    if again then { s with ctx.seq.fetch := l.start, ctx.seq.adv := false, ctx.seq.xfer := true }
    else { s with ctx.seq.loops := s.ctx.seq.loops.erase l }
  pure again

/-- The end checks due at the fetch point, from the innermost loop outward; at most four loops are active. -/
def endChecks : Nat → M Unit
  | 0 => pure ()
  | f + 1 => do
    let s ← get
    match s.innerLoop with
    | some l =>
      if s.ctx.seq.adv ∧ l.stop = s.ctx.seq.fetch then do
        let again ← endCheckOnce l
        if again then pure () else endChecks f
      else pure ()
    | none => pure ()

/-! ## Reading code (R71) -/

/-- The word at an offset of the code object, or the fault that its fetch raises. -/
def State.codeWord (s : State) (o : Nat) : Except Stop Word :=
  let c := s.ctx.job.code
  let t := fun cause => (Stop.trap { cause := cause, toff := o, tinfo := 4, cap := c } : Stop)
  if c = Cap.null then .error (.trap { cause := .capBounds, toff := 0, tinfo := 4, cap := c })
  else if c.type.toNat ≠ tyCode then .error (t .capType)
  else if !c.rights.getLsbD rX then .error (t .capRights)
  else if o < c.lower.toNat ∨ o + 4 > c.upper.toNat then .error (t .capBounds)
  else match s.readDirect c o 4 with
    | .bytes b => .ok (BitVec.ofNat 32 (bytesToNat b))
    | .later => .error .wait
    | .bad i => .error (t i.cause)
    | .dataBad i => .error (t i.cause)

/-- What the fetch of the next instruction comes to. -/
inductive Fetched where
  /-- A decoded instruction, to be executed in the state given. -/
  | instr (i : Instr) (s : State)
  /-- Nothing to execute: the dispatcher waits, or a fault has been raised or placed. -/
  | out (o : Out)

/-- A word that fails decoding (R15): SEQ faults at once, another engine's queue takes a fault marker, and fetch goes on
behind the `n` words. Its marker carries the instruction's first word, which is its prefix where it has one (R13, R16,
log 56). -/
def badWord (eng n : Nat) (c : Cause) (s : State) : Out :=
  match Engine.ofCode eng with
  | none | some .seq => .next (s.takeTrap .seq s.fetchPoint 1 { cause := c })
  | some e =>
    if s.room e 1 then steer e (.marker c s.fetchPoint 1) (pure ()) (s.advance n) else .next s.stall

/-- A head word at the end of the body of a loop (R133): the loop's end check comes before its tail. Answers true
when fetch looped back, so that the head has no tail. -/
def headAtEnd (s : State) : EStateM.Result Stop State Bool :=
  let a := s.ctx.seq.fetch
  match (do
    set { s with ctx.seq.fetch := a + 4, ctx.seq.adv := true }
    endChecks 4
    let s' ← get
    pure (s'.ctx.seq.fetch != a + 4) : M Bool) s with
  | .ok true s' => .ok true s'
  | .ok false s' => .ok false { s' with ctx.seq.fetch := a, ctx.seq.adv := false }
  | .error e s' => .error e { s' with ctx.seq.fetch := a, ctx.seq.adv := s.ctx.seq.adv }

/-- The head and the word after it. -/
def fetchPair (w : Word) (s : State) : Fetched :=
  let eng := wordEng w
  match headAtEnd s with
  | .ok true s' =>
    -- the head raises ILLEGAL, after the counter has been updated; fetch is at the loop's start
    match Engine.ofCode eng with
    | none | some .seq => .out (.next (s'.takeTrap .seq s.fetchPoint 1 { cause := .illegal }))
    | some e =>
      if s.room e 1 then
        .out (steer e (.marker .illegal s.fetchPoint 1) (pure ()) { s' with ctx.seq.pfx := none })
      else .out (.next s.stall)
  | .ok false s' =>
    match s'.codeWord (s'.ctx.seq.fetch + 4) with
    | .error (.trap t) => .out (.next (s'.takeTrap .seq s'.fetchPoint 1 t))
    | .error _ => .out (.next s'.stall)
    | .ok t =>
      match decodeWords w (some t) with
      | .instr i _ => .instr i s'
      | .bad .noTail => .out (badWord eng 1 .illegal s')
      | .bad .reservedField => .out (badWord eng 2 .illegal s')
      | .bad _ => .out (badWord eng 1 .illegal s')
  | .error (.trap t) s' => .out (.next (s'.takeTrap .seq s'.fetchPoint 0 t))
  | .error _ s' => .out (.next s'.stall)

/-- Decode the word at the fetch point (R58 to R60, R68, R70, R71). A word of KIND 01 whose opcode is not that of a head takes
no tail with it: a tail behind it is decoded for itself and raises ILLEGAL too (log 56). -/
def decodeAt (w : Word) (s : State) : Fetched :=
  let eng := wordEng w
  let orphaned := match s.ctx.seq.pfx with
    | some p => p.eng.toNat != eng || decide (2 ≤ wordKind w)
        || (match decodeWords w none with | .bad .unassignedOp => true | _ => false)
    | none => false
  match s.ctx.seq.pfx, orphaned with
  | some p, true => .out (orphan p s)
  | _, _ =>
    if 6 ≤ eng then .out (badWord eng 1 .illegal s)
    else if wordKind w = 3 then .out (badWord eng 1 (if s.ctx.seq.xfer then .misalignedTarget else .illegal) s)
    else if wordKind w = 1 ∧ isTwoWord eng (wordOp w) then fetchPair w s
    else match decodeWords w none with
      | .instr i _ => .instr i s
      | .bad _ => .out (badWord eng 1 .illegal s)

/-- The queue of a prefix's engine takes its marker (R69). -/
def orphanRoom (p : PendingPfx) (s : State) : Bool :=
  match Engine.ofCode p.eng.toNat with
  | some e => s.room e 1
  | none => false

/-- The dispatcher may fetch: it waits for no marker, no phase, no END, no WAIT and no orphan. A wait that is over
ends here. -/
def State.fetchReady (s : State) : Option State :=
  match s.ctx.seq.wait with
  | .none => some s
  | .rdv n => if s.ctx.seq.rdvs.any (·.n == n) then none else some { s with ctx.seq.wait := .none }
  | .phase n => if s.ctx.seq.phases.any (·.n == n) then none else some { s with ctx.seq.wait := .none }
  | _ => none

/-- The word-level fault of a word that an expansion inserts (R362 has checked its registers). -/
def insertedFault : Instr → Option Cause
  | .shape _ _ fb fa _ _ _ _ _ => shapeFault fa fb
  | _ => none

/-- The words that an inserted instruction takes of its queue. -/
def insertedWords : Instr → Nat
  | .shape .. => 2
  | _ => 1

/-- The engine of an inserted instruction. -/
def insertedEngine : Instr → Engine
  | .shape .. | .mma .. | .mmat .. => .mat
  | _ => .idx

/-- Steer word `i` of an expansion, as though it had been fetched at the address of its CONTRACT (R361, R363). -/
def expandNext (a : Nat) (p : List Word) (i : Nat) (s : State) : Out :=
  let w := contractWord a p i
  let e := insertedEngine w
  let it := s.itemOf e w (insertedWords w) (insertedFault w)
  if s.room e it.words then
    steer e it (effOf w it.env)
      (if i + 1 < contractCount p then { s with ctx.seq.wait := .contract a p (i + 1), ctx.stuck := 0 }
        else { s.advance 1 with ctx.seq.wait := .none })
  else .next s.stall

/-- A context that has been filled into its bank: once each write that it has made is visible at package scope, its core's L1
is dropped and it may run (R120). -/
def State.settleMoved (s : State) : State :=
  if s.storesBefore { uid := s.ctx.job.uid, stamp := s.ctx.acc.nextLoad } then
    { s.l1Drop s.cur.core with ctx.moved := false }
  else s.stall

/-- Fetch the next instruction of the running context; a core without one stands idle. TCAUSE.LEN of a fault at a LOOPQ
end check, where no instruction faults, is 0, and of a word that cannot be fetched 1, also behind its head (log 58). -/
def fetchNext (s : State) : Fetched :=
  if !s.runsBank s.cur ∨ s.ctx.status ≠ .live ∨ s.power.dieOff.getLsbD s.cur.die then .out (.next s)
  else if s.ctx.moved then .out (.next s.settleMoved)
  else if s.coreFrozen ∨ s.ctx.trapPending.isSome then .out (.next s.stall)
  else match s.ctx.seq.wait with
  | .contract a p i => .out (expandNext a p i s)
  | _ => match s.fetchReady with
    | none => .out (.next s.stall)
    | some s0 =>
      match endChecks 4 s0 with
      | .error (.trap t) s1 => .out (.next (s1.takeTrap .seq s1.fetchPoint 0 t))
      | .error _ s1 => .out (.next s1.stall)
      | .ok _ s1 =>
        match s1.ctx.seq.pfx, decide (s1.ctx.seq.fetch = s0.ctx.seq.fetch) with
        | some p, false => .out (if orphanRoom p s1 then orphan p s1 else .next s.stall)
        | _, _ =>
          match s1.codeWord s1.ctx.seq.fetch with
          | .error (.trap t) => .out (.next (s1.takeTrap .seq s1.fetchPoint 1 t))
          | .error _ => .out (.next s1.stall)
          | .ok w => decodeAt w s1

/-- FETCH_WORD (R10): the dispatcher fetches the next instruction and executes it or steers it. -/
def execFetchWord (s : State) : Out :=
  match fetchNext s with
  | .instr i s' => runWord i s'
  | .out o => o

end Sys2Proof.Machine
end

