-- ==== Sys2Proof/Machine/EvCore.lean ====
section
/-! DEFINITION. The steps of a core's own engines: queue heads, markers, traps, landings (R15, R28 to R34, R48, R54,
R137, R142). Each step names what it acts on in `State.operand`; a step whose condition does not hold is not due. -/
namespace Sys2Proof.Machine

/-- The focus context runs: it is its core's running context (R36), live, its core is not frozen and no trap is
pending. -/
def State.runs (s : State) : Bool :=
  s.runsBank s.cur && !s.ctx.moved && s.ctx.status == .live && !s.coreFrozen && s.ctx.trapPending.isNone && !s.power.dieOff.getLsbD s.cur.die

/-- The head of the queue of the operand's engine. -/
def State.headItem (s : State) : Option Item := (s.queue s.operand.eng).head?

/-- Run the head of the operand's engine. -/
def runOperandHead (s : State) : Out := runHead s.operand.eng effOf s

/-- QUEUE_UNBLOCK (R54): the engine tries the instruction at the head of its queue. -/
def execQueueUnblock (s : State) : Out :=
  match s.headItem with
  | some (.instr ..) | some (.deliver ..) | some (.seed ..) =>
    if s.runs && s.mayRun s.operand.eng then runOperandHead s else notDue "QUEUE_UNBLOCK"
  | _ => notDue "QUEUE_UNBLOCK"

/-- FAULT_MARKER (R15, R17). -/
def execFaultMarker (s : State) : Out :=
  match s.headItem with
  | some (.marker ..) => if s.runs && s.mayRun s.operand.eng then runOperandHead s else notDue "FAULT_MARKER"
  | _ => notDue "FAULT_MARKER"

/-- RDV_MARKER (R137). -/
def execRdvMarker (s : State) : Out :=
  match s.headItem with
  | some (.rdv ..) => if s.runs && s.mayRun s.operand.eng then runOperandHead s else notDue "RDV_MARKER"
  | _ => notDue "RDV_MARKER"

/-- PHASE_MARKER (R48). -/
def execPhaseMarker (s : State) : Out :=
  match s.headItem with
  | some (.phase ..) => if s.runs && s.mayRun s.operand.eng then runOperandHead s else notDue "PHASE_MARKER"
  | _ => notDue "PHASE_MARKER"

/-- TRAP_TAKEN (R34, R142): a raised trap whose landings have settled. -/
def execTrapTaken (s : State) : Out :=
  match s.ctx.trapPending with
  | some t => if s.landingsSettled then .next (s.trapNow t.eng t.addr t.len t.info) else notDue "TRAP_TAKEN"
  | none => notDue "TRAP_TAKEN"

/-- The head of an engine's queue can make progress. -/
def State.headReady (s : State) (e : Engine) : Bool :=
  match s.queue e with
  | [] => false
  | it :: _ => s.mayRun e &&
    let i := match it with | .instr i .. => i | _ => .nop
    match runItem e it (effOf i it.env) s with
    | .error .wait s' => (s'.hold e).blocks.length != (s.hold e).blocks.length || (s'.hold e).merge != (s.hold e).merge
    | _ => true

/-- The row that an item's retirement is. -/
def Item.row : Item → Instr
  | .marker .. => .faultMarker
  | .rdv .. => .rdvMarker
  | .phase .. => .phaseMarker
  | _ => .queueUnblock

end Sys2Proof.Machine
end

