-- ==== Sys2Proof/Machine/EvJob.lean ====
section
/-! DEFINITION. The steps of a context's own course: deadlock (R35), phases (R48 to R50, R438), acknowledgements and
returning loads (R39, R154), translations (R164 to R166), streams (R195, R197), the end of a job and the commit of a task
(R38 to R44), and the end of a WAIT (R140). -/
namespace Sys2Proof.Machine

/-! ## Deadlock (R35) -/

/-- The consecutive cycles after which a context is in deadlock. -/
def deadlockCycles : Nat := 65536

/-- A word at which the dispatcher can wait for bq or for room in an instruction queue. -/
def queueBound : Instr → Bool
  | .nop | .br .. | .call .. | .ret | .loop .. | .loopq .. | .lbrk .. | .pset .. | .plog .. | .kld .. | .snq .. => false
  | .wait .. | .yield | .jobEnd | .trap .. | .rft .. | .csrw .. | .ctxsel .. | .qcfg .. | .halt => false
  | .spawn .. | .tjoin .. | .ruinv .. | .rustat .. | .glaunch .. => false
  | _ => true

/-- A head at the end of a loop's body waits for bq at the loop's end check (R133). -/
def headWaits (s : State) : Bool := match headAtEnd s with
  | .error .wait _ => true
  | _ => false

/-- The dispatcher is blocked on bq or on an instruction queue: the address and the words of what it cannot do. -/
def State.dispatchBlocked (s : State) : Option (Nat × Nat) :=
  match s.ctx.seq.wait with
  | .contract .. => some (s.ctx.seq.fetch, 1)
  | .none => match endChecks 4 s with
    | .error .wait s1 => some (s1.fetchPoint, 0)
    | .error _ _ => none
    | .ok _ s1 => match s1.codeWord s1.ctx.seq.fetch with
      | .error _ => none
      | .ok w =>
        if wordKind w = 1 ∧ isTwoWord (wordEng w) (wordOp w) ∧ headWaits s1 then some (s1.fetchPoint, 0)
        else
        let t := match s1.codeWord (s1.ctx.seq.fetch + 4) with
          | .ok t => some t
          | .error _ => none
        match decodeWords w (if wordKind w = 1 then t else none) with
        | .instr i _ =>
          if queueBound i then some (s1.fetchPoint, (s1.ctx.seq.fetch - s1.fetchPoint) / 4 + (if wordKind w = 1 then 2 else 1))
          else none
        | .bad _ => some (s1.fetchPoint, 1)
  | _ => none

/-- What ACC can wait at for a queue, a stream or a ring; every instruction of another engine can. -/
def accWaits : Instr → Bool
  | .ldq .. | .stq .. | .movq .. | .popq .. | .cmpb .. | .sset .. | .sring .. | .sout .. | .atomfQ .. => true
  | _ => false

/-- An engine whose head waits for a queue, a stream or a ring. -/
def State.engineBlocked (s : State) (e : Engine) : Bool :=
  match s.queue e with
  | .instr i a n r t k on :: _ => (e != .acc || accWaits i) && s.mayRun e && match runItem e (.instr i a n r t k on)
      (effOf i { rnd := r, sat := t, k := k, addr := a }) s with
    | .error .wait _ => true
    | _ => false
  | _ => false

/-- The blocked engine of the lowest ENG, with the address and the words of its instruction. -/
def State.blockedEngine (s : State) : Option (Engine × Nat × Nat) :=
  match s.dispatchBlocked with
  | some p => some (.seq, p.1, p.2)
  | none => (engines.find? s.engineBlocked).bind fun e => (s.queue e).head?.map fun it => (e, it.addr, it.len)

/-- DEADLOCK (R35). -/
def execDeadlock (s : State) : Out :=
  if s.runs ∧ deadlockCycles ≤ s.ctx.stuck ∧ !s.outstanding ∧ !s.uncounted then
    match s.blockedEngine with
    | some (e, a, n) => .next ({ s with ctx.stuck := 0 }.takeTrap e a n { cause := .deadlock })
    | none => notDue "DEADLOCK"
  else notDue "DEADLOCK"

/-! ## Phases (R48 to R50, R438) -/

/-- The oldest phase's markers of a context have retired and nothing of it is unacknowledged. -/
def State.flagDue (s : State) (c : Ctx) : Bool :=
  match c.seq.phases with
  | m :: _ => c.status == .live && m.pending == 0 && s.wackOf c.job.uid == 0 && !c.seq.flag
  | [] => false

/-- A context whose flag has been set. -/
def Ctx.setFlag (c : Ctx) (gts : Nat) : Ctx := { c with seq := { c.seq with flag := true, flagAt := some gts } }

/-- PHASE_FLAG_SET (R49, R417). With `flag` in the operand: of the spilled context with a record's number. -/
def execPhaseFlagSet (s : State) : Out :=
  if s.operand.flag then match s.units.spilled.find? fun r => r.id == s.operand.n0 with
    | some r => whenDue "PHASE_FLAG_SET" (s.flagDue r.ctx)
        { s with units.spilled := s.units.spilled.map (·.modIf r.id fun c => c.setFlag s.gts) }
    | none => notDue "PHASE_FLAG_SET"
  else whenDue "PHASE_FLAG_SET" (s.flagDue s.ctx) (s.modCtx fun c => c.setFlag s.gts)

/-- Every bank of the package that has been used. -/
def State.bankKeys (s : State) : List BankKey := s.cur :: s.banks.map (·.1)

/-- A rank has arrived at the phase of its group: its context has its flag set, or it has ended or left (R50, R473); at
fabric level a rank of another package, where the messages say so. -/
def State.arrived (s : State) (g : Nat × Nat) (away : Bool) (r : Nat) : Bool :=
  (s.contexts.any fun c => c.group == g && c.rank == r && c.seq.flag) || s.units.departed.contains (g.1, g.2, r)
    || (away && !s.contexts.any fun c => c.group == g && c.rank == r)

/-- The bundle of a group can be released: every rank has arrived, and its members agree on SIZE. -/
def State.bundleDue (s : State) (g : Nat × Nat) (away : Bool) : Bool :=
  match s.contexts.find? fun c => c.group == g && c.seq.flag with
  | none => false
  | some c => (s.contexts.all fun d => d.group != g || d.groupSize == c.groupSize)
      && (List.range c.groupSize).all (s.arrived g (away && g.1 == 4 && !s.units.link.hold))

/-- What the bundle does in one context (R49). -/
def Ctx.release (c : Ctx) : Ctx :=
  { c with seq := { c.seq with flag := false, flagAt := none, phnum := c.seq.phnum + 1, phases := c.seq.phases.tail } }

/-- A member that waits for the bundle. -/
def Ctx.flagged (c : Ctx) (g : Nat × Nat) : Bool := c.status == .live && c.group == g && c.seq.flag

/-- The end-of-phase bundle at every member, wherever its state is held (R49, R50). -/
def State.bundle (s : State) (g : Nat × Nat) : State :=
  let s1 := s.bankKeys.foldl (fun (s : State) k =>
    if (s.bankCtx k).flagged g then (s.setBank k (s.bankCtx k).release).l1Drop k.core else s) s
  { s1 with units.spilled := s1.units.spilled.map fun r => if r.ctx.flagged g then { r with ctx := r.ctx.release } else r }

/-- END_OF_PHASE_BUNDLE (R49, R50, R473). Operand: level, group; with `flag`, the ranks of other packages have arrived. -/
def execEndOfPhaseBundle (s : State) : Out :=
  let g := (s.operand.n0, s.operand.n1)
  whenDue "END_OF_PHASE_BUNDLE" (s.bundleDue g s.operand.flag) (s.bundle g)

/-- FABRIC_PHASE_TIMEOUT (R438). -/
def execFabricPhaseTimeout (s : State) : Out :=
  match s.ctx.seq.flagAt with
  | some t =>
    if s.runs ∧ s.ctx.seq.flag ∧ s.ctx.group.1 = 4 ∧ linkTimeout ≤ s.cyclesSince s.cur.core t then
      .next ((s.modSeq fun q => { q with flagAt := none }).takeTrap .seq s.fetchPoint 0
        { cause := .linkError, tinfo := s.ctx.group.2, noskip := true })
    else notDue "FABRIC_PHASE_TIMEOUT"
  | none => notDue "FABRIC_PHASE_TIMEOUT"

/-! ## Acknowledgements (R39) -/

/-- WRITE_ACK (R39): a write that has left its port and its stream's buffer is acknowledged, also after its job has ended.
Operand: job, and the write's number among the job's accesses. -/
def execWriteAck (s : State) : Out :=
  let w : Ack := { uid := s.operand.n0, stamp := s.operand.n1 }
  whenDue "WRITE_ACK" (s.acks.contains w && !s.unmade w) { s with acks := s.acks.erase w }

/-! ## Returning loads (R154, R184) -/

/-- The places of a load: those that it was sent with, else by a walk of its own (R164, R167). -/
def State.loadPlaces (s : State) (l : Load) (c : Cap) (o n : Nat) : List (Place × Nat) :=
  match l.sent with
  | some p => p.map fun x => (Place.at x.1, x.2)
  | none => s.placeRange c o n

/-- Read the parts of a load behind a window, once nothing that it follows is to be performed. -/
def State.partsGot (s : State) (l : Load) (p : List Part) : Got :=
  if p.any fun x => s.earlierAt s.ctx.job.uid l.n (x.cap, x.off, x.len) then .later
  else joinGot (s.readParts false l.held p)

/-- Bytes of the scratchpad as an outstanding LDQ finds them (R184). -/
def State.padGot (s : State) (o n : Nat) : Got :=
  match s.padCheck o n, s.padBadIn o n with
  | some t, _ => .dataBad t
  | none, some e => .dataBad { cause := .eccUncorrectable, toff := e, tinfo := n, noskip := true, bad := .bank }
  | none, none => if s.padWaits o n then .later else .bytes (s.ctx.pad.read o n)

/-- What the bytes of an outstanding load are now. -/
def State.loadGot (s : State) (l : Load) : Got :=
  match l.src with
  | .mem c o n =>
    if c.isWindow then match s.plan c o n with
      | .parts p => s.partsGot l p
      | .stop g => g
    else if s.earlier s.ctx.job.uid l.n c o n then .later
    else s.readPlaces c o (s.loadPlaces l c o n) l.held (c.type.toNat == tyData)
  | .parts p => s.partsGot l p
  | .pad o n => s.padGot o n
  | .remap c pos x commit => (s.remapGot l.n commit c pos x).2
  | .ready b => .bytes b
  | .failed t => .bad t
  | .answer _ => .later

/-- Lines that a returning load has read. -/
def State.loadTouch (s : State) (l : Load) : State :=
  match l.src with
  | .mem c o n => s.touchPlaces (s.loadPlaces l c o n) (c.type.toNat == tyData)
  | .parts p => p.foldl (fun s x => s.touchRead x.cap x.off x.len) s
  | .remap c pos x commit => (s.remapGot l.n commit c pos x).1
  | _ => s

/-- The entry of an LDQ whose data has arrived. -/
def DataQ.answer (d : DataQ) (n : Nat) (b : Bytes) : DataQ :=
  let r := d.reserved.map fun p => if p.1 = n ∧ p.2.isNone then (p.1, some (entry b)) else p
  { d with reserved := r }.settle r.length

/-- Write what a load has brought. -/
def State.deliverLoad (s : State) (l : Load) (b : Bytes) : State :=
  let s := s.modAcc fun a => { a with loads := a.loads.filter fun x => x.n != l.n }
  match l.dest with
  | .x d size sx => s.setX (BitVec.ofNat 5 d) (extend size sx b)
  | .c d => s.setC d (Cap.ofBytes b)
  | .q q _ => s.setDataQ q ((s.dataQ q).answer l.n b)

/-- A load that has failed leaves; an LDQ stays, to be made again (R154, R184). -/
def State.failLoad (s : State) (l : Load) : State :=
  match l.dest with
  | .q .. => s.modAcc fun a => { a with loads := a.loads.map fun x => if x.n = l.n then { x with again := true } else x }
  | _ => s.modAcc fun a => { a with loads := a.loads.filter fun x => x.n != l.n }

/-- The cycles that a load has waited at its port (R444). -/
def State.chargeLoad (s : State) (l : Load) : State :=
  match l.lat with
  | some i => s.addLat s.ctx.job.uid i (s.cyclesSince s.cur.core l.gts)
  | none => s

/-- The return of a load: none where nothing has come, or its fault must wait. -/
def State.returnLoad (s : State) (l : Load) : Option State :=
  if l.again && s.ctx.seq.intrap then none
  else match s.loadGot l with
    | .bytes b => some (((s.loadTouch l).chargeLoad l).deliverLoad l b)
    | .later => none
    | .bad t | .dataBad t =>
      if s.runs then some ((s.failLoad l).takeTrap .acc (s.epc .acc) 0 { t with taddr := some l.addr, noskip := true })
      else none

/-- LOAD_RETURN (R154). Operand: load. -/
def execLoadReturn (s : State) : Out :=
  match (s.ctx.acc.loads.find? fun l => l.n == s.operand.n0).bind s.returnLoad with
  | some s1 => if s.ctx.status = .live then .next s1 else notDue "LOAD_RETURN"
  | none => notDue "LOAD_RETURN"

/-! ## Translations (R164 to R166) -/

/-- A walk has been completed for the access that waits for it: a stream's access may need several. -/
def Holder.gotWalk (h : Holder) (i : HolderId) (p : Nat × Nat) : Holder :=
  { h with walk := none, walked := match i with | .stream _ => h.walked ++ [p] | .accessQueue _ => [p] }

/-- TRANSLATION_WALK (R164): the walk that an access waits for completes, and the access goes on. Operand: holder. -/
def execTranslationWalk (s : State) : Out :=
  let h := s.holder s.operand.holder
  match h.walk with
  | some p => .next (s.setHolder s.operand.holder (h.gotWalk s.operand.holder p))
  | none => notDue "TRANSLATION_WALK"

/-- The entry of a page of an object of the focus context, as a next-page walk finds it. -/
def State.nextPage (s : State) (p : Nat × Nat) : Option Trans :=
  (s.objEntry s.ctx.job.code.asid.toNat p.1).bind fun e =>
    if p.2 * pageSize < e.length ∧ pageLoc (s.mem8 (e.entryAddr p.2)) < 2 then
      some { obj := p.1, page := p.2, entry := s.mem8 (e.entryAddr p.2), length := e.length }
    else none

/-- NEXT_PAGE_WALK (R166). Operand: holder. -/
def execNextPageWalk (s : State) : Out :=
  let h := s.holder s.operand.holder
  match h.want with
  | some p => .next (s.setHolder s.operand.holder { h with want := none, next := s.nextPage p <|> h.next })
  | none => notDue "NEXT_PAGE_WALK"

/-! ## Writes at the ports (R164) -/

/-- An earlier access of the same job to some of the same bytes stands before it. -/
def State.portBehind (s : State) (p : PortStore) : Bool := s.earlier p.uid p.stamp p.cap p.off p.data.length

/-- Write a list of pieces, by the core of the job's context where it is resident (R91). -/
def State.writePieces (s : State) (p : PortStore) (l : List (Nat × Nat)) : State :=
  let put := fun (w : State → Nat → Bytes → State) (s : State) =>
    (l.foldl (fun (acc : State × Bytes) x => (w acc.1 x.1 (acc.2.take x.2), acc.2.drop x.2)) (s, p.data)).1
  match s.placeOf p.uid with
  | .bank k => s.inBank k (put State.coreWrite)
  | _ => put State.agentWrite s

/-- The pieces of a waiting write: those that it was sent with, else by a walk of its own, once no page of it is under
migration (R164, R167). -/
def State.portPieces (s : State) (p : PortStore) : Option (List (Nat × Nat)) :=
  p.sent <|> sentPieces (s.placeRange p.cap p.off p.data.length)

/-- The write that waits at a port is performed, or fails: none while it must wait. -/
def State.portEnd (s : State) (p : PortStore) : Option State :=
  let info := fun cause n => ({ cause := cause, toff := p.off, tinfo := n, cap := p.cap } : TrapInfo)
  match s.portPieces p with
  | none => match failOf (s.placeRange p.cap p.off p.data.length) with
    | some .pageNonresident | none => none
    | some c => some (s.dropPort p (info c p.data.length))
  | some l =>
    if l.any fun x => s.quarterGated x.1 then some (s.dropPort p (info .powerState p.data.length))
    else if s.portBehind p ∨ (l.any fun x => s.memHeld x.1) ∨ (l.any fun x => s.reach (packageOf x.1) == .held) then
      if p.sent.isNone then
        some { s with ports := s.ports.map fun (q : PortStore) => if q.n = p.n then { q with sent := some l } else q }
      else none
    else match l.find? fun x => s.reach (packageOf x.1) == .broken with
      | some x => some (s.dropPort p (info .linkError (packageOf x.1)))
      | none => some { s.writePieces p l with ports := s.ports.filter fun q => q.n != p.n }

/-- PORT_MIGRATION_WAIT_END (R164). Operand: the write's number. -/
def execPortMigrationWaitEnd (s : State) : Out :=
  match (s.ports.find? fun p => p.n == s.operand.n0).bind s.portEnd with
  | some s1 => .next s1
  | none => notDue "PORT_MIGRATION_WAIT_END"

/-! ## Streams (R195 to R197) -/

/-- STREAM_FILL (R195, R196). Operand: stream. -/
def execStreamFill (s : State) : Out :=
  let r := s.fillStream s.operand.n0
  whenDue "STREAM_FILL" (s.runs && (s.stream s.operand.n0).fillable && r.2) r.1

/-- An output stream has a block to drain. -/
def Stream.drainable (t : Stream) : Bool := t.desc.out && t.buf != []

/-- OUTPUT_DRAIN (R197). Operand: stream. -/
def execOutputDrain (s : State) : Out :=
  let r := s.drainStream s.operand.n0
  whenDue "OUTPUT_DRAIN" (s.ctx.status == .live && (s.stream s.operand.n0).drainable && r.2) r.1

/-! ## The end of a job (R38) -/

/-- The stage of an END in progress. -/
def State.endStage (s : State) : Option Nat :=
  match s.ctx.seq.wait with
  | .ending n => some n
  | _ => none

/-- A data queue or bq holds entries (R26); one that an outstanding LDQ has reserved counts (log 59). -/
def Ctx.queuesHeld (c : Ctx) : Bool := (c.dq.any fun p => p.2.entries != [] || p.2.reserved != []) || c.bq.bits != []

/-- JOB_END_CHECK: the checks of stage 2 of END, once every engine has retired every word (R38). -/
def execJobEndCheck (s : State) : Out :=
  if s.runs ∧ s.endStage = some 1 ∧ s.drained then
    match s.ctx.units.holds with
    | h :: _ => .next (s.takeTrap .seq s.ctx.seq.fetch 1 { cause := .illegalOperand, tinfo := h.handle.toNat })
    | [] =>
    if s.ctx.queuesHeld then .next (s.takeTrap .seq s.ctx.seq.fetch 1 { cause := .queueProtocol })
    else .next (s.modSeq fun q => { q with wait := .ending 3 })
  else notDue "JOB_END_CHECK"

/-- A stream with a drain failure to report (R197). -/
def State.drainFailed (s : State) : Option Nat :=
  (List.range 16).find? fun i => (s.stream i).drainFault.isSome

/-- Deliver the failure of a drain at END. -/
def State.deliverDrain (s : State) (i : Nat) (t : TrapInfo) : State :=
  (s.setStream i { s.stream i with drainFault := none }).takeTrap .seq s.ctx.seq.fetch 1 t

/-- The first class whose error slot holds a failure. -/
def Ctx.firstErr (c : Ctx) : Option (Nat × ErrRec) :=
  [0, 1, 2, 3].findSome? fun k => (c.units.err.get none k).map fun e => (k, e)

/-- Deliver the failure of a class in SEQ, at the word at the fetch point, and empty its slot (R213). -/
def State.deliverErr (s : State) (k : Nat) (e : ErrRec) (len : Nat) : State :=
  (s.modCtx fun c => { c with units.err := c.units.err.set none k none }).takeTrap .seq s.ctx.seq.fetch len e.info

/-- Stage 3 of END: landings written, loads returned, commands complete, writes acknowledged. -/
def State.endSettled (s : State) : Bool :=
  s.landed && s.ctx.acc.loads.isEmpty && (s.cmdsOf s.ctx.job.uid).isEmpty && s.wackCount == 0

/-- Stages 3 and 4 of END, and for a job that is no task its end. -/
def State.endStages (s : State) : Option State :=
  if !s.endSettled then none
  else match s.drainFailed with
  | some i => (s.stream i).drainFault.map fun t => s.deliverDrain i t
  | none => match s.ctx.acc.storeFail, s.ctx.firstErr with
      | some t, _ => some ((s.modAcc fun a => { a with storeFail := none }).takeTrap .seq s.ctx.seq.fetch 1 t)
      | none, some (k, e) => some (s.deliverErr k e 1)
      | none, none =>
        if s.ctx.job.task then some (s.modSeq fun q => { q with wait := .ending 4 })
        else some (s.endJob .ended .ended)

/-! ## The commit of a task (R41, R43, R44) -/

/-- What making a held write visible comes to. -/
inductive Committed where
  | made (s : State)
  | fails (c : Cause) (s : State)
  | later
  deriving DecidableEq, Repr

/-- What keeps a range from being written at commit: a wait (none), or a failure (R43, R44). -/
def State.commitStop (s : State) (c : Cap) (o n : Nat) : Option (Option Cause) :=
  let l := s.placeRange c o n
  let at' := l.filterMap fun x => match x.1 with | .at a => some a | _ => none
  if l.any fun p => p.1 == .fails .pageNonresident then some none
  else match failOf l with
    | some e => some (some e)
    | none =>
      if at'.any s.quarterGated then some (some .powerState)
      else if at'.any s.memHeld then some none
      else if at'.any fun a => s.reach (packageOf a) == .broken then some (some .linkError)
      else none

/-- Make the parts of a held write visible, each as a plain store; one that fails does not keep the others back. -/
def State.commitParts (s : State) : List (Part × Bytes) → Committed
  | [] => .made s
  | p :: r => match s.commitStop p.1.cap p.1.off p.1.len with
    | some none => .later
    | some (some e) => match s.commitParts r with
      | .made s1 | .fails _ s1 => .fails e s1
      | .later => .later
    | none =>
      let o := p.1.off + p.1.lo
      (s.storePlaces p.1.cap o (s.placeRange p.1.cap o p.1.n) p.2).commitParts r

/-- Make a run of bytes of a held write visible (R41, R44): behind a window, by the index as it stands in memory now. -/
def State.commitRun (s : State) (cap : Cap) (o : Nat) (b : Bytes) : Committed :=
  if s.indexFollows cap o b.length then .later
  else match { s with ctx.acc.commit := [] }.plan cap o b.length with
    | .stop (.bad t) | .stop (.dataBad t) => if t.cause = .pageNonresident then .later else .fails t.cause (s.noteBad t)
    | .stop _ => .later
    | .parts l => s.commitParts (l.zip ((cutParts b l).map (·.2.2)))

/-- Make the runs of a sector visible in order. -/
def State.commitRuns (s : State) (cap : Cap) (off : Nat) : List (Nat × Bytes) → Committed
  | [] => .made s
  | r :: l => match s.commitRun cap (off + r.1) r.2 with
    | .made s1 => s1.commitRuns cap off l
    | .fails c s1 => match s1.commitRuns cap off l with
      | .made s2 | .fails _ s2 => .fails c s2
      | .later => .later
    | .later => .later

/-- The head of the commit buffer has been dealt with. -/
def State.commitNext (s : State) : State :=
  s.modAcc fun a => { a with commit := a.commit.tail, commitAt := a.commitAt + 1 }

/-- Issue a deferred command (R41, R119): it takes its number, its place among the job's accesses and its translations
now, in buffer order. -/
def State.issueDeferred (s : State) (c : Cmd) : Option State :=
  if maxInFlight ≤ ((s.cmdsOf s.ctx.job.uid).filter fun d => d.cls == c.cls).length then none
  else
    let t := s.ctx.units.tl.get {} c.cls
    let c' := { c with n := s.units.nextCmd, held := false, num := t.issued + 1, gts := s.gts, stamp := s.ctx.acc.nextLoad
                       sent := c.body.atoms.flatMap fun r => s.sendTrans r.1 r.2.1 r.2.2
                       commitPos := some s.ctx.acc.commitAt }
    let s1 := (s.dropCmd c.n).addCmd c'
    some ((s1.modCtx fun x => { x with units.tl := x.units.tl.set {} c.cls { t with issued := t.issued + 1 }
                                       acc.nextLoad := x.acc.nextLoad + 1 }).commitNext)

/-- One entry of the commit buffer, in order: none while it must wait. -/
def State.commitOne (s : State) : Option State :=
  match s.ctx.acc.commit with
  | [] => some (s.modSeq fun q => { q with wait := .ending 5 })
  | .sector cap off d _ :: _ => match s.commitRuns cap off (sectorRuns 33 0 d) with
    | .made s1 => some s1.commitNext
    | .fails c s1 => some (s1.modCtx fun x => x.failCommit x.acc.commitAt c.code).commitNext
    | .later => none
  | .deferred n :: _ => match s.cmd n with
    | some c => s.issueDeferred c
    | none => some s.commitNext
  | .payload _ :: _ => some s.commitNext

/-- JOB_END_COMPLETE: stages 3 to 5 of END (R38), one delivery or one committed entry at a time. -/
def execJobEndComplete (s : State) : Out :=
  let r := match s.endStage with
    | some 3 => s.endStages
    | some 4 => s.commitOne
    | _ => none
  match r with
  | some s1 => if s.runs then .next s1 else notDue "JOB_END_COMPLETE"
  | none => notDue "JOB_END_COMPLETE"

/-- How a task that has committed ends: a failure of its commit ends it as failed (R44), and one on its way to another
package terminates it (R437). -/
def Ctx.taskEnd (c : Ctx) : CtxStatus × EndKind :=
  match c.acc.commitFail with
  | none => (.ended, .ended)
  | some (_, cause) => if cause = Cause.linkError.code then (.terminated, .trapped cause) else (.ended, .commitFailed cause)

/-- TASK_COMPLETION_REPORT (R41, R44). -/
def execTaskCompletionReport (s : State) : Out :=
  whenDue "TASK_COMPLETION_REPORT"
    (s.ctx.status == .live && s.endStage == some 5 && s.wackCount == 0 && (s.cmdsOf s.ctx.job.uid).isEmpty)
    (s.endJob s.ctx.taskEnd.1 s.ctx.taskEnd.2)

/-! ## The end of a WAIT (R140) -/

/-- The slots of a mask whose conditions are acquire sides (R250). -/
def Ctx.acquires (c : Ctx) (sat : BitVec 4) : Bool :=
  (waitSlots sat).any fun i => match c.seq.slots.get .unarmed i with
    | .timeline .. | .gen .. => true
    | _ => false

/-- The failure that a satisfied WAIT delivers: that of a class on which a satisfied slot is armed at or beyond its
number (R213, R237, R400, R436). -/
def Ctx.waitErr (c : Ctx) (sat : BitVec 4) : Option (Nat × ErrRec) :=
  [0, 1, 2, 3].findSome? fun k => (c.units.err.get none k).bind fun e =>
    if (waitSlots sat).any fun i => match c.seq.slots.get .unarmed i with
      | .timeline j v => j == k && decide (e.num ≤ v.toNat)
      | _ => false
    then some (k, e) else none

/-- A WAIT is over. -/
def State.endWait (s : State) (p7 : Bool) : State :=
  { (s.advance 2).setPred 7 p7 with ctx.seq.wait := .none, ctx.blockedAt := none }

/-- WAIT_SATISFIED (R140): a failure is delivered first (R213); else the WAIT ends and acquires (R92, R104, R108). -/
def execWaitSatisfied (s : State) : Out :=
  match s.ctx.seq.wait with
  | .waiting _ all mask _ _ =>
    let sat := s.ctx.waitSat s.gts mask
    if s.runs && waitDone all mask sat then
      match s.ctx.waitErr sat with
      | some (k, e) => .next (s.deliverErr k e 2)
      | none =>
        let s1 := if s.ctx.acquires sat then s.l1Drop s.cur.core else s
        .next ((s1.endWait false).modSeq fun q => { q with wsat := sat })
    else notDue "WAIT_SATISFIED"
  | _ => notDue "WAIT_SATISFIED"

/-- WAIT_TIMEOUT (R140). -/
def execWaitTimeout (s : State) : Out :=
  match s.ctx.seq.wait with
  | .waiting t0 all mask exp mant =>
    whenDue "WAIT_TIMEOUT" (s.runs && !waitDone all mask (s.ctx.waitSat s.gts mask) && waitExpired s.refTick t0 exp mant)
      (s.endWait true)
  | _ => notDue "WAIT_TIMEOUT"

end Sys2Proof.Machine
end

