-- ==== Sys2Proof/Machine/EvLanding.lean ====
section
/-! DEFINITION. The steps of pending landings (R28 to R34). -/
namespace Sys2Proof.Machine

/-- Take the landing at a place of the list, write it or raise what it failed of, and look again whether the core stands
still. What it failed of waits for a trap that is pending to be taken. -/
def State.takeLanding (s : State) (i : Nat) : Option State :=
  match s.ctx.vec.slots[i]? with
  | none => none
  | some l =>
    let rest := s.ctx.vec.slots.eraseIdx i
    let s1 := { s with ctx.vec.slots := rest, ctx.frozen := overdue rest }
    match l.data, l.failed with
    | some d, _ => some (s1.land l d)
    | none, some t => if s.ctx.trapPending.isSome then none else some (s1.takeTrap .vec (s1.epc .vec) 0 (landingTrap l t))
    | none, none => none

/-- LANDING (R28, R30, R33): a landing that is due and settled. -/
def execLanding (s : State) : Out :=
  match s.ctx.vec.slots with
  | l :: _ => if l.rem = 0 ∧ s.ctx.status = .live then match s.takeLanding 0 with
      | some s' => .next s'
      | none => notDue "LANDING"
    else notDue "LANDING"
  | [] => notDue "LANDING"

/-- LANDING_DATA_ARRIVAL (R30): the data of the landing at place n0 reaches its slot. -/
def execLandingDataArrival (s : State) : Out :=
  match s.ctx.vec.slots[s.operand.n0]? with
  | none => notDue "LANDING_DATA_ARRIVAL"
  | some l =>
    if l.settled then notDue "LANDING_DATA_ARRIVAL"
    else
      let r := s.receive l
      if r.2.settled then
        let slots := r.1.ctx.vec.slots.set s.operand.n0 r.2
        .next { r.1 with ctx.vec.slots := slots, ctx.frozen := overdue slots }
      else notDue "LANDING_DATA_ARRIVAL"

/-- The dispatcher has stopped at END, HALT or RFT (R34). -/
def State.atEnd (s : State) : Bool :=
  match s.ctx.seq.wait with
  | .ending _ => true
  | .none => match s.codeWord s.ctx.seq.fetch with
    | .ok w => match decodeWords w none with
      | .instr .halt _ | .instr (.rft _) _ => s.ctx.seq.pfx.isNone
      | _ => false
    | .error _ => false
  | _ => false

/-- The place of the first settled landing. -/
def State.settledLanding (s : State) : Option Nat := s.ctx.vec.slots.findIdx? (·.settled)

/-- EARLY_LANDING (R34): VEC has nothing more to issue, and a landing whose data is in its slot is written. -/
def execEarlyLanding (s : State) : Out :=
  if s.ctx.status = .live ∧ (s.queue .vec).isEmpty ∧ s.atEnd then
    match s.settledLanding.bind s.takeLanding with
    | some s' => .next s'
    | none => notDue "EARLY_LANDING"
  else notDue "EARLY_LANDING"

end Sys2Proof.Machine
end

