-- ==== Sys2Proof/Machine/Host.lean ====
section
/-! DEFINITION. The host's side (R455 to R463, R467 to R469): the host window, the invalidation of translations, banks
that the driver frees, semaphores, the rings, and the plain accesses of the ports. -/
namespace Sys2Proof.Machine

/-- The host window answers (R464): from boot step 1 on. -/
def State.windowUp (s : State) : Bool := decide (1 ≤ s.host.bootStep)

/-- An operand's value is kept for the port that reads. -/
def State.answer (s : State) (b : Bytes) : State := { s with host.out := b }

/-! ## OTINV (R167, R457) -/

/-- A holder without its translations; its distance stays. -/
def Holder.empty (h : Holder) : Holder := { pgdist := h.pgdist }

/-- An invalidation names an object. -/
def Otinv.names (o : Otinv) (asid obj : Nat) : Bool := o.all || (asid == o.asid && o.obj.all fun n => obj == n)
def Otinv.namesCap (o : Otinv) (c : Cap) : Bool := o.names c.asid.toNat c.obj.toNat

/-- A context drops its held translations of an object, or all of them (R457). -/
def Ctx.forgetObj (c : Ctx) (o : Otinv) : Ctx :=
  { c with
    acc.s := c.acc.s.map fun p =>
      (p.1, if o.namesCap p.2.ldcap || o.namesCap p.2.lhcap then { p.2 with holder := p.2.holder.empty } else p.2)
    acc.aq := (c.acc.aq.map fun p =>
      (p.1, if o.namesCap (c.acc.c.get Cap.null p.1) then p.2.empty else p.2)).filter fun p => p.2 != {} }

/-- What a value written to OTINV names. -/
def otinvOf (v : DWord) : Otinv :=
  { asid := (v.extractLsb' 32 14).toNat, obj := some (v.setWidth 32).toNat, all := v == BitVec.allOnes 64 }

/-- Start an invalidation: every context of the package, resident or spilled, drops what it names, and the bindings of
the windows that it names are removed (R224). -/
def State.startOtinv (s : State) (o : Otinv) : State :=
  { s with
    host.otinv := some { o with gts := s.gts }
    windows := s.windows.filter fun w => !o.names w.asid w.obj
    ctx := s.ctx.forgetObj o
    banks := s.banks.map fun p => (p.1, p.2.forgetObj o)
    units.spilled := s.units.spilled.map fun r => { r with ctx := r.ctx.forgetObj o } }

/-- OTINV (R457). Operand: the value in `val`. -/
def execOtinv (s : State) : Out := whenDue "OTINV" s.windowUp (s.startOtinv (otinvOf s.operand.val))

/-- An access that was sent under a translation before an invalidation began has not been performed: a load, a write at a
port, or an atomic (R167). -/
def State.sentUnder (s : State) (o : Otinv) : Bool :=
  (s.ports.any fun p => p.sent.isSome && decide (p.gts ≤ o.gts) && o.namesCap p.cap)
  || (s.units.cmds.any fun c => !c.held && !c.done && c.sent != [] && decide (c.gts ≤ o.gts) && c.body.atoms.any fun r => o.namesCap r.1)
  || s.contexts.any fun c => c.acc.loads.any fun l => l.sent.isSome && decide (l.gts ≤ o.gts) && match l.src with
    | .mem x _ _ => o.namesCap x
    | _ => false

/-- OTINV_DONE (R167): each access sent before has been performed at the old frame. -/
def execOtinvDone (s : State) : Out :=
  match s.host.otinv with
  | some o => whenDue "OTINV_DONE" (!s.sentUnder o) { s with host.otinv := none }
  | none => notDue "OTINV_DONE"

/-! ## BANKFREE (R151) -/

/-- Free the bank of a halted context; a bank that holds none is left. -/
def State.freeHalted (s : State) (k : BankKey) : State :=
  if (s.bankCtx k).status = .halted then (s.setBank k (s.bankCtx k).vacate).noteFree k.die else s

/-- The bank that a value written to BANKFREE names. -/
def bankfreeKey (v : DWord) : BankKey :=
  bankKey (v.extractLsb' 8 2).toNat (v.extractLsb' 0 7).toNat (v.extractLsb' 10 2).toNat

/-- BANKFREE (R151). Operand: the value in `val`. -/
def execBankfree (s : State) : Out :=
  whenDue "BANKFREE" (s.windowUp && decide ((s.operand.val.extractLsb' 0 7).toNat < 72)) (s.freeHalted (bankfreeKey s.operand.val))

/-! ## Semaphores (R456) -/

/-- SEM_READ (R456). Operand: semaphore, user; the prior value goes to the reader. -/
def execSemRead (s : State) : Out :=
  whenDue "SEM_READ" (decide (s.operand.n0 < 64))
    ((s.takeSem s.operand.n0 s.operand.user).answer (natToBytes 8 (s.sem s.operand.n0).toNat))

/-- SEM_WRITE (R456). Operand: semaphore, user, and the value in `val`. -/
def execSemWrite (s : State) : Out :=
  whenDue "SEM_WRITE" (decide (s.operand.n0 < 64)) (s.writeSem s.operand.n0 s.operand.user s.operand.val)

/-! ## The driver's rings (R467, R468) -/

/-- A ring with a new tail; none where it would hold more entries than it has. -/
def Ring.setTail (r : Ring) (v : DWord) : Option Ring :=
  let t := v.toNat % 2 ^ (r.logsz + 1)
  if 2 ^ r.logsz < ringCount r.logsz t r.head then none else some { r with tail := t }

/-- A write of FLTAIL, or of SPTAIL: one that overflows is ignored and reported (R467). -/
def State.writeFltail (s : State) (v : DWord) : State :=
  match s.host.freeList.setTail v with
  | some r => { s with host.freeList := r }
  | none => s.entryRefused 0 offFltail
def State.writeSptail (s : State) (v : DWord) : State :=
  match s.host.savePool.setTail v with
  | some r => { s with host.savePool := r }
  | none => s.entryRefused 0 offSptail

/-- FREELIST_TAIL_WRITE (R467). Operand: the value in `val`. -/
def execFreelistTailWrite (s : State) : Out := whenDue "FREELIST_TAIL_WRITE" s.windowUp (s.writeFltail s.operand.val)

/-- SAVE_POOL_TAIL_WRITE (R468). Operand: the value in `val`. -/
def execSavePoolTailWrite (s : State) : Out := whenDue "SAVE_POOL_TAIL_WRITE" s.windowUp (s.writeSptail s.operand.val)

/-! ## Event rings (R461, R462, R469) -/

/-- The 32 bytes of an event (R461, R469). -/
def Event.record (e : Event) : Bytes :=
  natToBytes 8 e.gts ++ natToBytes 2 e.source ++ natToBytes 1 e.kind ++ List.replicate 5 0
    ++ natToBytes 8 e.p0.toNat ++ natToBytes 8 e.p1.toNat

/-- The ring takes another record. -/
def EventRing.room (r : EventRing) : Bool := r.en && decide (ringCount r.logsz r.tail r.head < 2 ^ r.logsz)

/-- The ring after its oldest waiting event has been written. -/
def EventRing.push (r : EventRing) (e : Event) (l : List Event) : EventRing :=
  { r with
    waiting := l
    tail := (r.tail + 1) % 2 ^ (r.logsz + 1)
    egress := if e.kind = kEgress then r.egress ++ [(r.tail, e.source - 1024, e.p0.toNat)] else r.egress }

/-- EVENT_POST (R462, R469). Operand: port. The record goes to host memory. -/
def execEventPost (s : State) : Out :=
  let p := s.operand.n0
  let r := s.host.rings.get {} p
  match r.waiting with
  | e :: l => whenDue "EVENT_POST" r.room ({ s with host.rings := s.host.rings.set {} p (r.push e l) }.answer e.record)
  | [] => notDue "EVENT_POST"

/-- Acknowledge the egress entries of a list (R407, R463). -/
def State.ackAll (s : State) : List (Nat × Nat × Nat) → State
  | [] => s
  | x :: r => (s.setEq x.2.1 ((s.eq x.2.1).ack (x.2.2 / 2 ^ 32) (x.2.2 % 2 ^ 32))).ackAll r

/-- A write of EVHEAD: the events before it are consumed; a value beyond the tail is ignored. -/
def State.writeEvhead (s : State) (p : Nat) (v : DWord) : State :=
  let r := s.host.rings.get {} p
  let h := v.toNat % 2 ^ (r.logsz + 1)
  let n := ringCount r.logsz h r.head
  if ringCount r.logsz r.tail r.head < n then s
  else
    let old := fun (x : Nat × Nat × Nat) => decide (ringCount r.logsz x.1 r.head < n)
    { s with host.rings := s.host.rings.set {} p { r with head := h, egress := r.egress.filter fun x => !old x } }.ackAll
      (r.egress.filter old)

/-- EVHEAD_WRITE (R463, R469). Operand: port, and the value in `val`. -/
def execEvheadWrite (s : State) : Out :=
  whenDue "EVHEAD_WRITE" (s.windowUp && decide (s.operand.n0 < 2)) (s.writeEvhead s.operand.n0 s.operand.val)

/-! ## Writes of system registers by the running context -/

/-- A write of a system register that the running context makes at supervisor level, in ACC's and SEQ's order. -/
def State.csrWrite (s : State) (row : String) (ok : Bool) (n : Nat) : Out :=
  if s.runs && ok && csrAssigned n then
    match writeCsr n s.operand.val s with
    | .ok _ s1 => .next s1
    | .error (.trap t) s1 => .next (s1.takeTrap .seq s1.fetchPoint 1 t)
    | .error _ _ => notDue row
  else notDue row

/-- DMEMB_WRITE (R473). Operand: the value in `val`. -/
def execDmembWrite (s : State) : Out := s.csrWrite "DMEMB_WRITE" s.ctx.seq.sup 0x010

/-- RNGSEED_WRITE (R76). Operand: the value in `val`. -/
def execRngseedWrite (s : State) : Out := s.csrWrite "RNGSEED_WRITE" true 0x013

/-! ## The host window (R455) -/

/-- The package has no unscheduled request on its way to another (R434): while HOLD is set, those that wait are held. -/
def State.linkIdle (s : State) : Bool :=
  s.units.link.hold || !(s.ports.any fun p => (s.awayOf p.cap p.off).isSome) && !(s.units.cmds.any fun c => !c.held && !c.done && (s.cmdAway c).isSome)
    && !s.contexts.any fun c => c.acc.loads.any fun l => (s.loadAway l).isSome

/-- BOOTSTAT. -/
def HostSt.bootstat (h : HostSt) : Nat := 2 ^ 63 * bit h.ready + 2 ^ 62 * bit h.fail + h.bootStep

/-- The four registers of a ring of the driver, of an event ring and of a work queue. -/
def Ring.word (r : Ring) (i : Nat) : Nat :=
  match i with
  | 0 => r.base.toNat
  | 1 => 2 ^ 63 * bit r.en + r.logsz
  | 2 => r.tail
  | _ => r.head
def EventRing.word (r : EventRing) (i : Nat) : Nat :=
  match i with
  | 0 => r.base.toNat
  | 1 => 2 ^ 63 * bit r.en + r.logsz
  | 2 => r.head
  | _ => r.tail
def WorkQueue.word (q : WorkQueue) (i : Nat) : Nat :=
  match i with
  | 0 => q.base.toNat
  | 1 => 2 ^ 63 * bit q.en + 2 ^ 62 * bit q.err + 256 * q.port + q.logsz
  | 2 => q.tail
  | _ => q.head

/-- A neighbour entry (Table 6 of chapter 15). -/
def PortSt.word (p : PortSt) : Nat := 2 ^ 63 * bit p.up + 2 ^ 42 * p.pkg + p.nport

/-- The parts of the window (Table 1 of chapter 17). -/
inductive WindowReg where
  | bootstat | asidroot | otinv | syncbase (d : Nat) | freeList (i : Nat) | savePool (i : Nat) | ring (p i : Nat)
  | bankfree | eqreset | workQueue (n i : Nat) | csr (n : Nat) | eqdeliv (q : Nat) | eqack (q : Nat)
  | neighbour (p : Nat) | mypkg | fquiesce | route (q : Nat) | none
  deriving DecidableEq, Repr

/-- What an offset of the window names. -/
def windowReg (off : Nat) : WindowReg :=
  if 0x41000 ≤ off ∧ off < 0x41400 then .route (off - 0x41000)
  else if off % 8 ≠ 0 then .none
  else if off = 0 then .bootstat
  else if off = 8 then .asidroot
  else if off = 0x10 then .otinv
  else if 0x20 ≤ off ∧ off < 0x40 then .syncbase ((off - 0x20) / 8)
  else if 0x40 ≤ off ∧ off < 0x60 then .freeList ((off - 0x40) / 8)
  else if 0x60 ≤ off ∧ off < 0x80 then .savePool ((off - 0x60) / 8)
  else if 0x80 ≤ off ∧ off < 0xC0 then .ring ((off - 0x80) / 32) (off / 8 % 4)
  else if off = 0x100 then .bankfree
  else if off = 0x108 then .eqreset
  else if 0x10000 ≤ off ∧ off < 0x18000 then .workQueue ((off - 0x10000) / 32) (off / 8 % 4)
  else if 0x20000 ≤ off ∧ off < 0x20800 then .csr (0x300 + (off - 0x20000) / 8)
  else if 0x30000 ≤ off ∧ off < 0x40000 then (if off % 16 = 0 then .eqdeliv ((off - 0x30000) / 16) else .eqack ((off - 0x30000) / 16))
  else if 0x40000 ≤ off ∧ off < 0x40080 then .neighbour ((off - 0x40000) / 8)
  else if off = 0x40080 then .mypkg
  else if off = 0x40088 then .fquiesce
  else .none

/-- The owner that a port is (R456). -/
def portUser (p : Nat) : SemUser := if p = 0 then .port0 else .port1

/-- What a read of the window answers. -/
def State.windowBytes (s : State) (off : Nat) : Bytes :=
  match windowReg off with
  | .bootstat => natToBytes 8 s.host.bootstat
  | .asidroot => natToBytes 8 s.asidRoot.toNat
  | .otinv => natToBytes 8 (2 ^ 63 * bit s.host.otinv.isSome)
  | .syncbase d => natToBytes 8 (s.host.syncBase.get 0 d).toNat
  | .freeList i => natToBytes 8 (s.host.freeList.word i)
  | .savePool i => natToBytes 8 (s.host.savePool.word i)
  | .ring p i => natToBytes 8 ((s.host.rings.get {} p).word i)
  | .workQueue n i => natToBytes 8 ((s.workQueue n).word i)
  | .csr n => natToBytes 8 (s.readHostReg n).toNat
  | .eqdeliv q => s.eqdeliv q
  | .neighbour p => natToBytes 8 (s.port p).word
  | .mypkg => natToBytes 8 s.myPkg
  | .fquiesce => natToBytes 8 (2 ^ 63 * bit s.linkIdle + bit s.units.link.hold)
  | .route q => natToBytes 1 (s.units.link.route.get 0 q).toNat
  | .bankfree | .eqreset | .eqack _ | .none => natToBytes 8 0

/-- A read of the window by a port: a read of a semaphore in the mirror takes it (R456). -/
def State.windowRead (s : State) (port off : Nat) : State :=
  let b := s.windowBytes off
  match windowReg off with
  | .csr n => match semOf n with
    | some i => (s.takeSem i (portUser port)).answer b
    | none => s.answer b
  | _ => s.answer b

/-- The configuration of a ring: EN and LOGSZ; a LOGSZ that the register does not allow is not taken. -/
def Ring.write (r : Ring) (i : Nat) (v : DWord) : Ring :=
  match i with
  | 0 => { r with base := v }
  | 1 => if 1 ≤ v.toNat % 16 then { r with en := v.getLsbD 63, logsz := v.toNat % 16 } else r
  | _ => r
def EventRing.write (r : EventRing) (i : Nat) (v : DWord) : EventRing :=
  match i with
  | 0 => { r with base := v }
  | 1 => if 1 ≤ v.toNat % 32 ∧ v.toNat % 32 ≤ 16 then { r with en := v.getLsbD 63, logsz := v.toNat % 32 } else r
  | _ => r

/-- A write of WQBASE or WQCFG: while EN is 1 only ERR changes (R459, R460). -/
def WorkQueue.write (q : WorkQueue) (i : Nat) (v : DWord) : WorkQueue :=
  let q1 := if i = 1 ∧ v.getLsbD 62 then { q with err := false } else q
  match i with
  | 0 => { q with base := v }
  | 1 =>
    if q.en then q1
    else if 1 ≤ v.toNat % 16 ∧ v.toNat % 16 ≤ 12 then
      { q1 with en := v.getLsbD 63, port := bit (v.getLsbD 8), logsz := v.toNat % 16 }
    else q1
  | _ => q

/-- A write of the window by a port. -/
def State.windowWrite (s : State) (port off : Nat) (v : DWord) : State :=
  match windowReg off with
  | .asidroot => { s with asidRoot := v }
  | .otinv => s.startOtinv (otinvOf v)
  | .syncbase d => { s with host.syncBase := s.host.syncBase.set 0 d v }
  | .freeList i => if i = 2 then s.writeFltail v else { s with host.freeList := s.host.freeList.write i v }
  | .savePool i => if i = 2 then s.writeSptail v else { s with host.savePool := s.host.savePool.write i v }
  | .ring p i =>
    if i = 2 then s.writeEvhead p v
    else { s with host.rings := s.host.rings.set {} p ((s.host.rings.get {} p).write i v) }
  | .bankfree => if (v.extractLsb' 0 7).toNat < 72 then s.freeHalted (bankfreeKey v) else s
  | .eqreset => if v.toNat < 4096 then s.setEq v.toNat {} else s
  | .workQueue n i => if i = 2 then s.doorbell n v else s.setWorkQueue n ((s.workQueue n).write i v)
  | .csr n => s.writeHostReg n (portUser port) v
  | .eqack q => s.writeEqack q v
  | .neighbour p =>
    if v.getLsbD 62 then s.retrain p else s
  | .mypkg => if s.units.link.hold then { s with myPkg := v.toNat % 1024 } else s
  | .fquiesce => { s with units.link.hold := v.getLsbD 0 }
  | .route q =>
    if s.units.link.hold then { s with units.link.route := s.units.link.route.set 0 q (v.setWidth 8 &&& 0x8F) } else s
  | .bootstat | .eqdeliv _ | .none => s

/-- REGISTER_WRITE (R148, R455). Operand: the register, and the value in `val`; for the window the port. -/
def execRegisterWrite (s : State) : Out :=
  match s.operand.reg with
  | .csr n => s.csrWrite "REGISTER_WRITE" (s.ctx.seq.sup || taskMayWrite n) n
  | .window off => whenDue "REGISTER_WRITE" (s.windowUp && decide (s.operand.n0 < 2)) (s.windowWrite s.operand.n0 off s.operand.val)

/-! ## Plain accesses of the ports (R87, R455) -/

/-- There is memory at both ends of a range (R439). -/
def memoryAt (a n : Nat) : Bool := decodes a && decodes (a + n - 1)

/-- A range cannot be accessed now: a region wakes, or the fabric is quiesced (R437, R452). -/
def State.memoryWaits (s : State) (a n : Nat) : Bool :=
  s.memHeld a || s.memHeld (a + n - 1) || s.reach (packageOf a) == .held

/-- An access to a range fails: a local address that decodes to no memory, a gated quarter, or a package that cannot be
reached (R437, R439, R451). -/
def State.memoryFails (s : State) (a n : Nat) : Bool :=
  !memoryAt a n || s.quarterGated a || s.quarterGated (a + n - 1) || s.reach (packageOf a) == .broken

/-- A plain read: bytes that cannot be read have no value that the spec states, and uncorrectable sectors are reported
(R4, log 7, log 54). -/
def State.hostRead (s : State) (a n : Nat) : State :=
  if s.memoryFails a n then (s.spend n).answer (freeBytes s.fresh n)
  else if (s.badIn a n).isSome then ((s.spend n).reportRange a n).answer (s.marred s.fresh a n)
  else s.answer (s.mem.read a n)

/-- A plain write: one that cannot be made writes nothing. -/
def State.hostWrite (s : State) (a : Nat) (b : Bytes) : State := if s.memoryFails a b.length then s else s.agentWrite a b

/-- HOST_ACCESS (R439, R455). Operand: port, and the access. One that fails changes no memory, and the machine goes on. -/
def execHostAccess (s : State) : Out :=
  if !s.windowUp ∨ 2 ≤ s.operand.n0 then notDue "HOST_ACCESS"
  else match s.operand.host with
  | .readMem a n => whenDue "HOST_ACCESS" (!s.memoryWaits a n) (s.hostRead a n)
  | .writeMem a b => whenDue "HOST_ACCESS" (!s.memoryWaits a b.length) (s.hostWrite a b)
  | .readWindow off => .next (s.windowRead s.operand.n0 off)
  | .writeWindow off v => .next (s.windowWrite s.operand.n0 off v)

end Sys2Proof.Machine
end

