-- ==== Sys2Proof/Machine/Power.lean ====
section
/-! DEFINITION. Power-on and boot (R464), the levels of the islands (R465), and the power manager (R466); the firmware's
scrub (R458). -/
namespace Sys2Proof.Machine

/-! ## Boot (R464) -/

/-- POWER_ON (R464). -/
def execPowerOn (s : State) : Out :=
  whenDue "POWER_ON" (!s.host.powered) { s with host := { s.host with powered := true, bootStep := 0, ready := false, fail := false } }

/-- Every island of the package at a level. -/
def allLevels (l : Nat) : Sparse Nat := (List.range 1024).map fun i => (i, l)

/-- What training finds at a port: four bytes of a list, whether it is up, the neighbour's package and its port. -/
def trained (b : Bytes) (p : Nat) : PortSt :=
  let x := (b.drop (4 * p)).take 4
  if (x.getD 0 0).getLsbD 0 then
    { up := true, pkg := (x.getD 1 0).toNat + 256 * ((x.getD 2 0).toNat % 4), nport := (x.getD 3 0).toNat % 16 }
  else {}

/-- Boot step 5: the ports are trained, and ROUTE points at the neighbours (R434). -/
def State.bootLinks (s : State) (b : Bytes) (pkg : Nat) : State :=
  let ports : Sparse PortSt := (List.range 16).foldl (fun t p => Sparse.set {} t p (trained b p)) []
  { s with
    myPkg := pkg % 1024
    units.link.ports := ports
    units.link.route := ports.foldl (fun t p => if p.2.up then Sparse.set 0 t p.2.pkg (BitVec.ofNat 8 (128 + p.1)) else t) [] }

/-- The action of a boot step (Table 4 of chapter 17). Operand: the GTS of the domain, the strap, and what training has
found. -/
def State.bootAction (s : State) (n : Nat) : State :=
  match n with
  | 2 => { s with power.level := allLevels 3, ctx := {}, banks := [], msc := [], units.bushel := [] }
  | 4 => { s with pcs := [] }
  | 5 => s.bootLinks s.operand.bytes s.operand.n1
  | 6 => { s with gts := max s.gts s.operand.n0 }
  | 7 => { s with power.level := allLevels 0, host.wq := [], host.sem := [], host.funcmode := 0, host.ready := true }
  | _ => s

/-- BOOT_STEP_COMPLETE (R464). With `flag` the step fails. -/
def execBootStepComplete (s : State) : Out :=
  let n := s.host.bootStep + 1
  whenDue "BOOT_STEP_COMPLETE" (s.host.powered && !s.host.fail && decide (n ≤ 7))
    (if s.operand.flag then { s with host.fail := true }
      else { s.bootAction n with host.bootStep := n })

/-! ## Islands (R465, R466) -/

/-- An island's level; an unlisted island is gated. -/
def State.levelOf (s : State) (i : Nat) : Nat := s.power.level.get 4 i
def State.setLevel (s : State) (i l : Nat) : State := { s with power.level := s.power.level.set 4 i l }

/-- The order in which the power manager lowers islands: matrix, front-end, then slice and die islands. -/
def islandClass (i : Nat) : Nat := if 864 ≤ i then 2 else if i % 3 = 1 then 0 else if i % 3 = 0 then 1 else 2

/-- The die of an island. -/
def islandDie (i : Nat) : Nat := if 864 ≤ i then (i - 864) / 40 else i / 3 / 72

/-- The lowest RATIO that a slice island at a level permits. -/
def levelCap : Nat → Nat
  | 0 => 0
  | 1 => 1
  | _ => 2

/-- The payload of a POWER event (Table 7 of chapter 17). -/
def State.postPower (s : State) (i l : Nat) (gated : Bool) (info : DWord) : State :=
  s.post srcPower kPower (BitVec.ofNat 64 (i + 4096 * l + 16384 * bit gated)) (info &&& 0xFFFFFFFF)

/-- An island changes its level: a front-end or matrix island stops its core meanwhile. -/
def State.changeLevel (s : State) (i l : Nat) (info : DWord) : State :=
  let s1 := (s.setLevel i l).postPower i l false info
  if islandClass i = 2 then s1 else { s1 with power.changing := s1.power.changing ++ [i] }

/-- The module's draw and the hottest junction, as the manager measures them. -/
def drawOf (v : DWord) : Nat := (v.extractLsb' 0 16).toNat
def junctionOf (v : DWord) : Nat := (v.extractLsb' 16 16).toNat

/-- Islands of earlier classes can be lowered no further. -/
def State.lowered (s : State) (k : Nat) : Bool := s.power.level.all fun p => decide (k ≤ islandClass p.1) || decide (3 ≤ p.2)

/-- Islands of later classes are at their nominal level. -/
def State.raised (s : State) (k : Nat) : Bool := s.power.level.all fun p => decide (islandClass p.1 ≤ k) || p.2 == 0 || p.2 == 4

/-- POWER_STEP_DOWN (R466). Operand: island; in `val` the draw and the junction. A slice island is lowered past the cap
of its die's stacked clock only after that clock has changed (R465). -/
def execPowerStepDown (s : State) : Out :=
  let i := s.operand.n0
  let l := s.levelOf i + 1
  let d := s.dieSt (islandDie i)
  let capped := i < 864 ∧ i % 3 = 2 ∧ (d.ratio.toNat < levelCap l ∨ d.stage ≠ .idle)
  whenDue "POWER_STEP_DOWN"
    (decide (i < 1024) && decide (l ≤ 3) && !s.power.changing.contains i && s.lowered (islandClass i)
      && (decide (2400 < drawOf s.operand.val) || decide (105 < junctionOf s.operand.val)))
    (if capped then s.startXclk (islandDie i) (BitVec.ofNat 2 (levelCap l)) else s.changeLevel i l s.operand.val)

/-- POWER_STEP_UP (R466). Operand as for a step down. -/
def execPowerStepUp (s : State) : Out :=
  let i := s.operand.n0
  let l := s.levelOf i
  whenDue "POWER_STEP_UP"
    (decide (i < 1024) && decide (1 ≤ l) && decide (l ≤ 3) && !s.power.changing.contains i && s.raised (islandClass i)
      && decide (drawOf s.operand.val < 2280) && decide (junctionOf s.operand.val ≤ 105))
    (s.changeLevel i (l - 1) s.operand.val)

/-- ISLAND_LEVEL_CHANGE_DONE (R465). Operand: island. -/
def execIslandLevelChangeDone (s : State) : Out :=
  whenDue "ISLAND_LEVEL_CHANGE_DONE" (s.power.changing.contains s.operand.n0)
    { s with power.changing := s.power.changing.filter fun i => i != s.operand.n0 }

/-- THERMAL_SHUTDOWN (R466): every island of every compute die is gated. The junction in `val`, as for a step down. -/
def execThermalShutdown (s : State) : Out :=
  whenDue "THERMAL_SHUTDOWN" (decide (115 ≤ junctionOf s.operand.val) && s.power.dieOff != 0xF)
    ({ s with power.dieOff := 0xF, power.level := [] }.post srcPower kMcheck 3 (BitVec.ofNat 64 (junctionOf s.operand.val)))

/-! ## The firmware's scrub (R458) -/

/-- Bytes that the firmware scrubs in an idle second. -/
def scrubBytes : Nat := 2 ^ 30

/-- A launch has nodes on a die. -/
def State.dieInUse (s : State) (d : Nat) : Bool :=
  s.units.launches.any fun l => l.begun && l.result.isNone && l.nodes.any fun n => n.die == d

/-- Scrub a range of a die's HBM4E: what can be corrected is rewritten; the result is reported. -/
def State.scrubDie (s : State) (d a n : Nat) : State :=
  let inside := fun (x : Nat) => decide (a ≤ 32 * x) && decide (32 * x < a + n)
  let bads := s.bad.filter inside
  let softs := s.soft.filter fun x => inside x && !s.bad.contains x
  let s1 := bads.foldl State.detect s
  let s2 := softs.foldl State.corrected s1
  let s3 := { s2 with soft := s2.soft.filter fun x => !softs.contains x }
  if s.host.funcmode.getLsbD 5 then s3
  else s3.post (srcDie d) kError (BitVec.ofNat 64 (2 ^ 60 * 2 + a)) (BitVec.ofNat 64 (softs.length + 2 ^ 32 * bads.length))

/-- FIRMWARE_SCRUB (R458). Operand: die, and the first byte's physical address. -/
def execFirmwareScrub (s : State) : Out :=
  let a := s.operand.n1
  whenDue "FIRMWARE_SCRUB"
    (!s.host.funcmode.getLsbD 1 && s.host.ready && isHbm a && hbmDie a == s.operand.n0 && packageOf a == s.myPkg
      && a % scrubBytes == 0 && !s.dieInUse s.operand.n0)
    (s.scrubDie s.operand.n0 a scrubBytes)

end Sys2Proof.Machine
end

