-- ==== Sys2Proof/Machine/Dispatch.lean ====
section
/-! DEFINITION. The dispatch of every row of the opcode table to its meaning. -/
namespace Sys2Proof.Machine

def exec (i : Instr) (s : State) : Host.Outcome State Fault Refusal :=
  match i with
  | .pfx eng rnd sat pred sense => Sys2Proof.Machine.execPfx eng rnd sat pred sense s
  | .nop => Sys2Proof.Machine.execNop s
  | .br c w => Sys2Proof.Machine.execBr c w s
  | .brq z w => Sys2Proof.Machine.execBrq z w s
  | .call c w => Sys2Proof.Machine.execCall c w s
  | .ret => Sys2Proof.Machine.execRet s
  | .jmpq n w => Sys2Proof.Machine.execJmpq n w s
  | .loop d len count => Sys2Proof.Machine.execLoop d len count s
  | .loopq d len => Sys2Proof.Machine.execLoopq d len s
  | .lbrk c => Sys2Proof.Machine.execLbrk c s
  | .pset d a b f => Sys2Proof.Machine.execPset d a b f s
  | .plog d a b f => Sys2Proof.Machine.execPlog d a b f s
  | .ppop p => Sys2Proof.Machine.execPpop p s
  | .kld d a imm => Sys2Proof.Machine.execKld d a imm s
  | .snq d f => Sys2Proof.Machine.execSnq d f s
  | .rdv mask => Sys2Proof.Machine.execRdv mask s
  | .phase mask => Sys2Proof.Machine.execPhase mask s
  | .wait all mask exp mant => Sys2Proof.Machine.execWait all mask exp mant s
  | .yield => Sys2Proof.Machine.execYield s
  | .jobEnd => Sys2Proof.Machine.execJobEnd s
  | .trap imm => Sys2Proof.Machine.execTrap imm s
  | .rft skip => Sys2Proof.Machine.execRft skip s
  | .csrr d r f => Sys2Proof.Machine.execCsrr d r f s
  | .csrw d r f => Sys2Proof.Machine.execCsrw d r f s
  | .ctxsel n => Sys2Proof.Machine.execCtxsel n s
  | .tstamp d => Sys2Proof.Machine.execTstamp d s
  | .qcfg d a b f => Sys2Proof.Machine.execQcfg d a b f s
  | .halt => Sys2Proof.Machine.execHalt s
  | .spawn d a => Sys2Proof.Machine.execSpawn d a s
  | .tjoin d a poll => Sys2Proof.Machine.execTjoin d a poll s
  | .ruinv a f => Sys2Proof.Machine.execRuinv a f s
  | .rustat d a f => Sys2Proof.Machine.execRustat d a f s
  | .glaunch d a => Sys2Proof.Machine.execGlaunch d a s
  | .add d a b f => Sys2Proof.Machine.execAdd d a b f s
  | .sub d a b f => Sys2Proof.Machine.execSub d a b f s
  | .mul d a b f => Sys2Proof.Machine.execMul d a b f s
  | .mulh d a b f => Sys2Proof.Machine.execMulh d a b f s
  | .and d a b f => Sys2Proof.Machine.execAnd d a b f s
  | .or d a b f => Sys2Proof.Machine.execOr d a b f s
  | .xor d a b f => Sys2Proof.Machine.execXor d a b f s
  | .shl d a b f => Sys2Proof.Machine.execShl d a b f s
  | .shr d a b f => Sys2Proof.Machine.execShr d a b f s
  | .sra d a b f => Sys2Proof.Machine.execSra d a b f s
  | .min d a b f => Sys2Proof.Machine.execMin d a b f s
  | .max d a b f => Sys2Proof.Machine.execMax d a b f s
  | .addi d a imm => Sys2Proof.Machine.execAddi d a imm s
  | .andi d a imm => Sys2Proof.Machine.execAndi d a imm s
  | .ori d a imm => Sys2Proof.Machine.execOri d a imm s
  | .shli d a n => Sys2Proof.Machine.execShli d a n s
  | .shri d a n => Sys2Proof.Machine.execShri d a n s
  | .li d hi lo => Sys2Proof.Machine.execLi d hi lo s
  | .lih d u => Sys2Proof.Machine.execLih d u s
  | .cmp d a b f => Sys2Proof.Machine.execCmp d a b f s
  | .cmpb a b f => Sys2Proof.Machine.execCmpb a b f s
  | .movq d a => Sys2Proof.Machine.execMovq d a s
  | .popq d a => Sys2Proof.Machine.execPopq d a s
  | .divu d a b => Sys2Proof.Machine.execDivu d a b s
  | .remu d a b => Sys2Proof.Machine.execRemu d a b s
  | .clz d a f => Sys2Proof.Machine.execClz d a f s
  | .popc d a f => Sys2Proof.Machine.execPopc d a f s
  | .cmov d a => Sys2Proof.Machine.execCmov d a s
  | .cnarrow d a b => Sys2Proof.Machine.execCnarrow d a b s
  | .crights d a b => Sys2Proof.Machine.execCrights d a b s
  | .cadd d a b f => Sys2Proof.Machine.execCadd d a b f s
  | .cget d a f => Sys2Proof.Machine.execCget d a f s
  | .cld d a b im => Sys2Proof.Machine.execCld d a b im s
  | .cst d a b im => Sys2Proof.Machine.execCst d a b im s
  | .ld d a b im sx size => Sys2Proof.Machine.execLd d a b im sx size s
  | .st d a b im size => Sys2Proof.Machine.execSt d a b im size s
  | .lds d a b im sx size => Sys2Proof.Machine.execLds d a b im sx size s
  | .sts d a b im size => Sys2Proof.Machine.execSts d a b im size s
  | .ldq d a b im sp len => Sys2Proof.Machine.execLdq d a b im sp len s
  | .stq d a b im sp len => Sys2Proof.Machine.execStq d a b im sp len s
  | .prf a b im lvl => Sys2Proof.Machine.execPrf a b im lvl s
  | .fence scope => Sys2Proof.Machine.execFence scope s
  | .sbind d a f => Sys2Proof.Machine.execSbind d a f s
  | .sset d a b im sp => Sys2Proof.Machine.execSset d a b im sp s
  | .sring d a => Sys2Proof.Machine.execSring d a s
  | .sstop d => Sys2Proof.Machine.execSstop d s
  | .sstat d a f => Sys2Proof.Machine.execSstat d a f s
  | .sout d a => Sys2Proof.Machine.execSout d a s
  | .pgdist d a f => Sys2Proof.Machine.execPgdist d a f s
  | .cpy d a b dsp ssp => Sys2Proof.Machine.execCpy d a b dsp ssp s
  | .cpy2 d a b dsp ssp => Sys2Proof.Machine.execCpy2 d a b dsp ssp s
  | .cpyl2 d a b osp dir => Sys2Proof.Machine.execCpyl2 d a b osp dir s
  | .chain d a b => Sys2Proof.Machine.execChain d a b s
  | .mcast d a b ssp => Sys2Proof.Machine.execMcast d a b ssp s
  | .gwin d a b f => Sys2Proof.Machine.execGwin d a b f s
  | .scrub d a b => Sys2Proof.Machine.execScrub d a b s
  | .wmark => Sys2Proof.Machine.execWmark s
  | .swarm a clr => Sys2Proof.Machine.execSwarm a clr s
  | .migr a b => Sys2Proof.Machine.execMigr a b s
  | .atom d a b ret size op => Sys2Proof.Machine.execAtom d a b ret size op s
  | .atomf d a b ret => Sys2Proof.Machine.execAtomf d a b ret s
  | .atomfQ a b => Sys2Proof.Machine.execAtomfQ a b s
  | .bind d a b rep scope => Sys2Proof.Machine.execBind d a b rep scope s
  | .acq a sh => Sys2Proof.Machine.execAcq a sh s
  | .rel a => Sys2Proof.Machine.execRel a s
  | .tryacq d a sh => Sys2Proof.Machine.execTryacq d a sh s
  | .tlget d iss cls => Sys2Proof.Machine.execTlget d iss cls s
  | .tlarm d a b kind => Sys2Proof.Machine.execTlarm d a b kind s
  | .lsend d a b ssp => Sys2Proof.Machine.execLsend d a b ssp s
  | .lrecv d a b dsp => Sys2Proof.Machine.execLrecv d a b dsp s
  | .lradd d a b => Sys2Proof.Machine.execLradd d a b s
  | .lslot d a b off => Sys2Proof.Machine.execLslot d a b off s
  | .evict d a b mode => Sys2Proof.Machine.execEvict d a b mode s
  | .rmap d a b form => Sys2Proof.Machine.execRmap d a b form s
  | .eqpost d a b arm => Sys2Proof.Machine.execEqpost d a b arm s
  | .eqpeek d a b => Sys2Proof.Machine.execEqpeek d a b s
  | .eqrel a b => Sys2Proof.Machine.execEqrel a b s
  | .eqcut a b => Sys2Proof.Machine.execEqcut a b s
  | .spill a b => Sys2Proof.Machine.execSpill a b s
  | .fill a b => Sys2Proof.Machine.execFill a b s
  | .fadd o => Sys2Proof.Machine.execFadd o s
  | .fsub o => Sys2Proof.Machine.execFsub o s
  | .fmul o => Sys2Proof.Machine.execFmul o s
  | .ffma o => Sys2Proof.Machine.execFfma o s
  | .fmin o => Sys2Proof.Machine.execFmin o s
  | .fmax o => Sys2Proof.Machine.execFmax o s
  | .fabs o => Sys2Proof.Machine.execFabs o s
  | .fneg o => Sys2Proof.Machine.execFneg o s
  | .frcp o => Sys2Proof.Machine.execFrcp o s
  | .frsq o => Sys2Proof.Machine.execFrsq o s
  | .fexp2 o => Sys2Proof.Machine.execFexp2 o s
  | .flog2 o => Sys2Proof.Machine.execFlog2 o s
  | .ftanh o => Sys2Proof.Machine.execFtanh o s
  | .fcmp o => Sys2Proof.Machine.execFcmp o s
  | .iadd o => Sys2Proof.Machine.execIadd o s
  | .isub o => Sys2Proof.Machine.execIsub o s
  | .imul o => Sys2Proof.Machine.execImul o s
  | .imad o => Sys2Proof.Machine.execImad o s
  | .imin o => Sys2Proof.Machine.execImin o s
  | .imax o => Sys2Proof.Machine.execImax o s
  | .vecAnd o => Sys2Proof.Machine.execVecAnd o s
  | .vecOr o => Sys2Proof.Machine.execVecOr o s
  | .vecXor o => Sys2Proof.Machine.execVecXor o s
  | .lop3 o => Sys2Proof.Machine.execLop3 o s
  | .vecShl o => Sys2Proof.Machine.execVecShl o s
  | .vecShr o => Sys2Proof.Machine.execVecShr o s
  | .vecSra o => Sys2Proof.Machine.execVecSra o s
  | .fshl o => Sys2Proof.Machine.execFshl o s
  | .fshr o => Sys2Proof.Machine.execFshr o s
  | .vecPopc o => Sys2Proof.Machine.execVecPopc o s
  | .vecClz o => Sys2Proof.Machine.execVecClz o s
  | .icmp o => Sys2Proof.Machine.execIcmp o s
  | .mov o => Sys2Proof.Machine.execMov o s
  | .sel o => Sys2Proof.Machine.execSel o s
  | .bcst o => Sys2Proof.Machine.execBcst o s
  | .perm o => Sys2Proof.Machine.execPerm o s
  | .rot o => Sys2Proof.Machine.execRot o s
  | .cvt o => Sys2Proof.Machine.execCvt o s
  | .rsum o => Sys2Proof.Machine.execRsum o s
  | .rmax o => Sys2Proof.Machine.execRmax o s
  | .rmin o => Sys2Proof.Machine.execRmin o s
  | .scan o => Sys2Proof.Machine.execScan o s
  | .vcmpb o => Sys2Proof.Machine.execVcmpb o s
  | .ldt o => Sys2Proof.Machine.execLdt o s
  | .mset o => Sys2Proof.Machine.execMset o s
  | .shape acc smode fb fa m n kb kta ktb => Sys2Proof.Machine.execShape acc smode fb fa m n kb kta ktb s
  | .ringdef ring off fmt base slots rows kb => Sys2Proof.Machine.execRingdef ring off fmt base slots rows kb s
  | .mzero acc => Sys2Proof.Machine.execMzero acc s
  | .mma acc ra rb zero keepb keepa => Sys2Proof.Machine.execMma acc ra rb zero keepb keepa s
  | .mmat acc ra rb zero keepb keepa => Sys2Proof.Machine.execMmat acc ra rb zero keepb keepa s
  | .mscl acc norm k => Sys2Proof.Machine.execMscl acc norm k s
  | .mdrain acc clr ofmt d => Sys2Proof.Machine.execMdrain acc clr ofmt d s
  | .madd acc ra keepa => Sys2Proof.Machine.execMadd acc ra keepa s
  | .rskip ra n => Sys2Proof.Machine.execRskip ra n s
  | .atts acc ra rb nov keepb keepa ks kh => Sys2Proof.Machine.execAtts acc ra rb nov keepb keepa ks kh s
  | .attv acc rb keepb kh => Sys2Proof.Machine.execAttv acc rb keepb kh s
  | .attm acc ra rb keepb keepa ks kh => Sys2Proof.Machine.execAttm acc ra rb keepb keepa ks kh s
  | .mstat clr d => Sys2Proof.Machine.execMstat clr d s
  | .rowst acc ra keepa load d => Sys2Proof.Machine.execRowst acc ra keepa load d s
  | .sigcfg rowf nh a w bwid => Sys2Proof.Machine.execSigcfg rowf nh a w bwid s
  | .sigh a n => Sys2Proof.Machine.execSigh a n s
  | .bkt => Sys2Proof.Machine.execBkt s
  | .repsel a rule => Sys2Proof.Machine.execRepsel a rule s
  | .repgat d => Sys2Proof.Machine.execRepgat d s
  | .repscat d a rfmt rw => Sys2Proof.Machine.execRepscat d a rfmt rw s
  | .memb d a form => Sys2Proof.Machine.execMemb d a form s
  | .memba d a rfmt rw => Sys2Proof.Machine.execMemba d a rfmt rw s
  | .bmand d a b => Sys2Proof.Machine.execBmand d a b s
  | .bmor d a b => Sys2Proof.Machine.execBmor d a b s
  | .bmpfx d a => Sys2Proof.Machine.execBmpfx d a s
  | .isect d a b => Sys2Proof.Machine.execIsect d a b s
  | .union d a b => Sys2Proof.Machine.execUnion d a b s
  | .spdot d a b vfmt => Sys2Proof.Machine.execSpdot d a b vfmt s
  | .contract a => Sys2Proof.Machine.execContract a s
  | .ixld d a => Sys2Proof.Machine.execIxld d a s
  | .ixst d a => Sys2Proof.Machine.execIxst d a s
  | .ixmov d a form => Sys2Proof.Machine.execIxmov d a form s
  | .ixcnt d a form => Sys2Proof.Machine.execIxcnt d a form s
  | .had d a n => Sys2Proof.Machine.execHad d a n s
  | .qst d a b blk ifmt hadn => Sys2Proof.Machine.execQst d a b blk ifmt hadn s
  | .qstm d a b blk ifmt hadn sel => Sys2Proof.Machine.execQstm d a b blk ifmt hadn sel s
  | .qsel hmode mask => Sys2Proof.Machine.execQsel hmode mask s
  | .ctbl d b => Sys2Proof.Machine.execCtbl d b s
  | .deq d a b blk ofmt => Sys2Proof.Machine.execDeq d a b blk ofmt s
  | .cvtx d a clr pf => Sys2Proof.Machine.execCvtx d a clr pf s
  | .cvtn d a b ofmt => Sys2Proof.Machine.execCvtn d a b ofmt s
  | .qhdr d a flt => Sys2Proof.Machine.execQhdr d a flt s
  | .qerr d a b ifmt => Sys2Proof.Machine.execQerr d a b ifmt s
  | .qstat d clr => Sys2Proof.Machine.execQstat d clr s
  | .hadw d a n => Sys2Proof.Machine.execHadw d a n s
  | .fetchWord => Sys2Proof.Machine.execFetchWord s
  | .faultMarker => Sys2Proof.Machine.execFaultMarker s
  | .trapTaken => Sys2Proof.Machine.execTrapTaken s
  | .deadlock => Sys2Proof.Machine.execDeadlock s
  | .landing => Sys2Proof.Machine.execLanding s
  | .landingDataArrival => Sys2Proof.Machine.execLandingDataArrival s
  | .earlyLanding => Sys2Proof.Machine.execEarlyLanding s
  | .queueUnblock => Sys2Proof.Machine.execQueueUnblock s
  | .contextSwitch => Sys2Proof.Machine.execContextSwitch s
  | .timesliceExpiry => Sys2Proof.Machine.execTimesliceExpiry s
  | .contextAging => Sys2Proof.Machine.execContextAging s
  | .contextReady => Sys2Proof.Machine.execContextReady s
  | .rdvMarker => Sys2Proof.Machine.execRdvMarker s
  | .phaseMarker => Sys2Proof.Machine.execPhaseMarker s
  | .phaseFlagSet => Sys2Proof.Machine.execPhaseFlagSet s
  | .endOfPhaseBundle => Sys2Proof.Machine.execEndOfPhaseBundle s
  | .fabricPhaseTimeout => Sys2Proof.Machine.execFabricPhaseTimeout s
  | .writeAck => Sys2Proof.Machine.execWriteAck s
  | .loadReturn => Sys2Proof.Machine.execLoadReturn s
  | .translationWalk => Sys2Proof.Machine.execTranslationWalk s
  | .nextPageWalk => Sys2Proof.Machine.execNextPageWalk s
  | .portMigrationWaitEnd => Sys2Proof.Machine.execPortMigrationWaitEnd s
  | .streamFill => Sys2Proof.Machine.execStreamFill s
  | .outputDrain => Sys2Proof.Machine.execOutputDrain s
  | .pumpSlotFill => Sys2Proof.Machine.execPumpSlotFill s
  | .jobEndCheck => Sys2Proof.Machine.execJobEndCheck s
  | .jobEndComplete => Sys2Proof.Machine.execJobEndComplete s
  | .taskCompletionReport => Sys2Proof.Machine.execTaskCompletionReport s
  | .asyncCommandComplete => Sys2Proof.Machine.execAsyncCommandComplete s
  | .copyDispatch => Sys2Proof.Machine.execCopyDispatch s
  | .syncWordCount => Sys2Proof.Machine.execSyncWordCount s
  | .watermarkAdvance => Sys2Proof.Machine.execWatermarkAdvance s
  | .chainRecord => Sys2Proof.Machine.execChainRecord s
  | .mcastGroupChange => Sys2Proof.Machine.execMcastGroupChange s
  | .atomicAtHome => Sys2Proof.Machine.execAtomicAtHome s
  | .atomicLineWriteback => Sys2Proof.Machine.execAtomicLineWriteback s
  | .bindApply => Sys2Proof.Machine.execBindApply s
  | .holdGrant => Sys2Proof.Machine.execHoldGrant s
  | .holdRelease => Sys2Proof.Machine.execHoldRelease s
  | .waitSatisfied => Sys2Proof.Machine.execWaitSatisfied s
  | .waitTimeout => Sys2Proof.Machine.execWaitTimeout s
  | .evictApply => Sys2Proof.Machine.execEvictApply s
  | .eqpostArrival => Sys2Proof.Machine.execEqpostArrival s
  | .eqTag => Sys2Proof.Machine.execEqTag s
  | .eqrelArrival => Sys2Proof.Machine.execEqrelArrival s
  | .eqcutArrival => Sys2Proof.Machine.execEqcutArrival s
  | .eqpeekArrival => Sys2Proof.Machine.execEqpeekArrival s
  | .egressDelivery => Sys2Proof.Machine.execEgressDelivery s
  | .eqdeliv => Sys2Proof.Machine.execEqdeliv s
  | .eqack => Sys2Proof.Machine.execEqack s
  | .eqreset => Sys2Proof.Machine.execEqreset s
  | .workQueueDoorbell => Sys2Proof.Machine.execWorkQueueDoorbell s
  | .launchRecordBegin => Sys2Proof.Machine.execLaunchRecordBegin s
  | .indirectCountRead => Sys2Proof.Machine.execIndirectCountRead s
  | .stepInstantiate => Sys2Proof.Machine.execStepInstantiate s
  | .nodeReady => Sys2Proof.Machine.execNodeReady s
  | .bushelProbe => Sys2Proof.Machine.execBushelProbe s
  | .skipCopy => Sys2Proof.Machine.execSkipCopy s
  | .bushelFill => Sys2Proof.Machine.execBushelFill s
  | .nodeDispatch => Sys2Proof.Machine.execNodeDispatch s
  | .nodeAging => Sys2Proof.Machine.execNodeAging s
  | .taskRequeue => Sys2Proof.Machine.execTaskRequeue s
  | .launchComplete => Sys2Proof.Machine.execLaunchComplete s
  | .furlongAccessResume => Sys2Proof.Machine.execFurlongAccessResume s
  | .pageFaultService => Sys2Proof.Machine.execPageFaultService s
  | .hwSpill => Sys2Proof.Machine.execHwSpill s
  | .hwFill => Sys2Proof.Machine.execHwFill s
  | .spillApply => Sys2Proof.Machine.execSpillApply s
  | .fillApply => Sys2Proof.Machine.execFillApply s
  | .scheduleTick => Sys2Proof.Machine.execScheduleTick s
  | .linkLandingDrain => Sys2Proof.Machine.execLinkLandingDrain s
  | .unscheduledRequest => Sys2Proof.Machine.execUnscheduledRequest s
  | .flitReplay => Sys2Proof.Machine.execFlitReplay s
  | .portDown => Sys2Proof.Machine.execPortDown s
  | .unscheduledTimeout => Sys2Proof.Machine.execUnscheduledTimeout s
  | .portRetrain => Sys2Proof.Machine.execPortRetrain s
  | .fquiesceHold => Sys2Proof.Machine.execFquiesceHold s
  | .memoryReadArrival => Sys2Proof.Machine.execMemoryReadArrival s
  | .refreshDue => Sys2Proof.Machine.execRefreshDue s
  | .groupInactive => Sys2Proof.Machine.execGroupInactive s
  | .forcedRefreshStart => Sys2Proof.Machine.execForcedRefreshStart s
  | .refreshEnd => Sys2Proof.Machine.execRefreshEnd s
  | .refcfgAlign => Sys2Proof.Machine.execRefcfgAlign s
  | .mscflushSlice => Sys2Proof.Machine.execMscflushSlice s
  | .mscflushFrame => Sys2Proof.Machine.execMscflushFrame s
  | .mscflushDone => Sys2Proof.Machine.execMscflushDone s
  | .mscpinPin => Sys2Proof.Machine.execMscpinPin s
  | .mscpinUnpin => Sys2Proof.Machine.execMscpinUnpin s
  | .mscpinDone => Sys2Proof.Machine.execMscpinDone s
  | .waygate => Sys2Proof.Machine.execWaygate s
  | .pwrreqGateScratchpad => Sys2Proof.Machine.execPwrreqGateScratchpad s
  | .pwrreqWakeScratchpad => Sys2Proof.Machine.execPwrreqWakeScratchpad s
  | .pwrreqGateQuarter => Sys2Proof.Machine.execPwrreqGateQuarter s
  | .pwrreqWakeQuarter => Sys2Proof.Machine.execPwrreqWakeQuarter s
  | .pwrreqGateBank => Sys2Proof.Machine.execPwrreqGateBank s
  | .pwrreqWakeBank => Sys2Proof.Machine.execPwrreqWakeBank s
  | .regionAwake => Sys2Proof.Machine.execRegionAwake s
  | .xclk => Sys2Proof.Machine.execXclk s
  | .crossingDrainDone => Sys2Proof.Machine.execCrossingDrainDone s
  | .relockDone => Sys2Proof.Machine.execRelockDone s
  | .otinv => Sys2Proof.Machine.execOtinv s
  | .otinvDone => Sys2Proof.Machine.execOtinvDone s
  | .bankfree => Sys2Proof.Machine.execBankfree s
  | .semRead => Sys2Proof.Machine.execSemRead s
  | .semWrite => Sys2Proof.Machine.execSemWrite s
  | .freelistTailWrite => Sys2Proof.Machine.execFreelistTailWrite s
  | .savePoolTailWrite => Sys2Proof.Machine.execSavePoolTailWrite s
  | .eventPost => Sys2Proof.Machine.execEventPost s
  | .evheadWrite => Sys2Proof.Machine.execEvheadWrite s
  | .dmembWrite => Sys2Proof.Machine.execDmembWrite s
  | .rngseedWrite => Sys2Proof.Machine.execRngseedWrite s
  | .registerWrite => Sys2Proof.Machine.execRegisterWrite s
  | .hostAccess => Sys2Proof.Machine.execHostAccess s
  | .powerOn => Sys2Proof.Machine.execPowerOn s
  | .bootStepComplete => Sys2Proof.Machine.execBootStepComplete s
  | .powerStepDown => Sys2Proof.Machine.execPowerStepDown s
  | .powerStepUp => Sys2Proof.Machine.execPowerStepUp s
  | .thermalShutdown => Sys2Proof.Machine.execThermalShutdown s
  | .secondTierRefresh => Sys2Proof.Machine.execSecondTierRefresh s
  | .firmwareScrub => Sys2Proof.Machine.execFirmwareScrub s
  | .powerManagerRequest => Sys2Proof.Machine.execPowerManagerRequest s
  | .portTrainingDone => Sys2Proof.Machine.execPortTrainingDone s
  | .regionGated => Sys2Proof.Machine.execRegionGated s
  | .islandLevelChangeDone => Sys2Proof.Machine.execIslandLevelChangeDone s

end Sys2Proof.Machine
end

