-- ==== Sys2Proof/Machine/Due.lean ====
section
/-! DEFINITION. The schedule's own choice where the agenda names no turn: a unit that can move, moves first, in a fixed
order; otherwise a dispatcher fetches; the contexts take turns (log 6). Also the job that stands for the load of one
instruction. -/
namespace Sys2Proof.Machine

/-! ## Turns that may be due -/

/-- A turn of the focus core, or of a unit. -/
def here (ev : Instr) (on : Operand := {}) : Turn := { ev := ev, on := on }

/-- Engines whose heads can make progress. -/
def State.headTurns (s : State) : List Turn :=
  engines.filterMap fun e => if s.headReady e then (s.queue e).head?.map fun it => here it.row { eng := e } else none

/-- The holders of a context's translations (R165). -/
def holders : List HolderId := (List.range 16).map HolderId.stream ++ (List.range 16).map HolderId.accessQueue

/-- The turns of the focus context. -/
def State.ctxTurns (s : State) : List Turn :=
  [here .trapTaken, here .landing, here .earlyLanding]
  ++ (List.range s.ctx.vec.slots.length).map (fun i => here .landingDataArrival { n0 := i })
  ++ s.headTurns
  ++ s.ctx.acc.loads.map (fun l => here .loadReturn { n0 := l.n })
  ++ [here .phaseFlagSet,
      here .endOfPhaseBundle { n0 := s.ctx.group.1, n1 := s.ctx.group.2 },
      here .waitSatisfied, here .waitTimeout, here .jobEndCheck, here .jobEndComplete, here .taskCompletionReport,
      here .deadlock]
  ++ (holders.filter fun h => (s.holder h).walk.isSome).map (fun h => here .translationWalk { holder := h })
  ++ (holders.filter fun h => (s.holder h).want.isSome).map (fun h => here .nextPageWalk { holder := h })
  ++ (s.ctx.acc.s.filter fun p => p.2.drainable).map (fun p => here .outputDrain { n0 := p.1 })
  ++ (s.ctx.acc.pumps.map fun p => here .pumpSlotFill { n0 := p.1 })
  ++ (s.ctx.acc.s.filter fun p => p.2.fillable).map (fun p => here .streamFill { n0 := p.1 })

/-- The steps that a command can be due for. -/
def CmdBody.rows : CmdBody → List Instr
  | .copy _ | .gwin .. | .scrub .. | .migr .. => [.asyncCommandComplete]
  | .chain .. => [.chainRecord, .asyncCommandComplete]
  | .atom .. | .atomQ .. | .mass .. => [.atomicAtHome, .asyncCommandComplete]
  | .bind .. => [.bindApply, .asyncCommandComplete]
  | .rel _ _ => [.holdRelease, .asyncCommandComplete]
  | .evict _ => [.evictApply, .asyncCommandComplete]
  | .eqpost .. => [.eqpostArrival, .asyncCommandComplete]
  | .eqrel .. => [.eqrelArrival, .asyncCommandComplete]
  | .eqcut .. => [.eqcutArrival, .asyncCommandComplete]
  | .eqpeek .. => [.eqpeekArrival]
  | .spill .. => [.spillApply, .asyncCommandComplete]
  | .fill .. => [.fillApply, .asyncCommandComplete]
  | .lsend .. | .lrecv .. | .lradd .. => [.asyncCommandComplete]

/-- The turns of the units that commands and sync objects wait for. -/
def State.unitTurns (s : State) : List Turn :=
  (s.units.cmds.flatMap fun c => c.body.rows.map fun i => here i { n0 := c.n })
  ++ s.acks.map (fun w => here .writeAck { n0 := w.uid, n1 := w.stamp })
  ++ (List.range 4).map (fun d => here .copyDispatch { n0 := d })
  ++ s.ports.map (fun p => here .portMigrationWaitEnd { n0 := p.n })
  ++ s.units.objs.map (fun o => here .holdGrant { n0 := o.1.1, n1 := o.1.2.1, n2 := o.1.2.2 })
  ++ (s.units.egress.flatMap fun p => [here .eqTag { n0 := p.1 }, here .egressDelivery { n0 := p.1 }])
  ++ (s.units.mcast.filter fun m => m.pending.isSome).map (fun m => here .mcastGroupChange { n0 := m.table, n1 := m.entry })
  ++ s.units.link.land.map (fun b => here .linkLandingDrain { n0 := b.uid, n1 := b.slot, n2 := b.bytes.length })

/-- The page that a capability's offset lies in, as a page request names it. -/
def pageOf (c : Cap) (o : Nat) : Nat × Nat × Nat := (c.asid.toNat, c.obj.toNat, o / pageSize)

/-- The pages that a commit may be waiting for: those of the sector at its head, and those of its copies. -/
def State.commitPages (s : State) : List (Nat × Nat × Nat) :=
  (s.contexts.flatMap fun c => match c.acc.commit with
    | .sector k o d _ :: _ => (s.commitRanges k o d).map fun r => pageOf r.1 r.2.1
    | _ => [])
  ++ s.units.cmds.flatMap fun c => match c.commitPos, c.body with
    | some _, .copy x => [(x.src, x.srcRel), (x.dst, x.dstRel)].flatMap fun (p : Side × Int) => match p.1 with
      | .mem k b => [pageOf k (b + p.2 : Int).toNat]
      | _ => []
    | _, _ => []

/-- The turns of the migration engine that need no entry of the free-frame list (R458). -/
def State.pageTurns (s : State) : List Turn :=
  if s.hardware 0 && s.host.freeList.ready then []
  else ((s.units.pageReqs.filter fun r => !r.told).map (fun r => (r.asid, r.obj, r.page)) ++ s.commitPages).map fun p =>
    here .pageFaultService { n0 := p.1, n1 := p.2.1, n2 := p.2.2 }

/-- The turns of Furlong and Bushel. -/
def State.launchTurns (s : State) : List Turn :=
  (s.units.launches.flatMap fun l =>
    [here .launchRecordBegin { src := if l.spawner.isSome then .spawned l.n else .workQueue l.wq },
     here .indirectCountRead { n0 := l.n }, here .stepInstantiate { n0 := l.n }, here .launchComplete { n0 := l.n }]
    ++ l.insts.flatMap fun i =>
      [Instr.nodeReady, .bushelProbe, .skipCopy, .bushelFill, .taskRequeue, .nodeAging].map fun e =>
        here e { n0 := l.n, n1 := i.step, n2 := i.node })
  ++ (List.range 4).map (fun d => here .nodeDispatch { n0 := d })
  ++ s.units.pageReqs.map (fun r => here .furlongAccessResume { n0 := r.asid, n1 := r.obj, n2 := r.page })
  ++ s.units.spilled.flatMap (fun r => [here .phaseFlagSet { n0 := r.id, flag := true },
      here .contextReady { n0 := r.id, flag := true }, here .hwFill { n0 := r.id }])

/-- The turns of the task scheduler at the focus core. -/
def State.coreTurns (s : State) : List Turn :=
  let core := s.cur.core
  (List.range 4).flatMap (fun b => [here .contextReady { n0 := 4 * core + b }, here .contextAging { n0 := 4 * core + b }])
  ++ [here .contextSwitch { n0 := core }, here .timesliceExpiry { n0 := core }]

/-- The power manager wakes a bank for a candidate that finds none free (R411). -/
def State.wakeTurns (s : State) : List Turn :=
  (List.range 4).filterMap fun d => (s.wakeChoice d).map fun k =>
    here .powerManagerRequest { region := .bank (k / 288) (k / 4 % 72) (k % 4), flag := true }

/-- The turns of the memory system, the power regions, the rings and the host window. -/
def State.packageTurns (s : State) : List Turn :=
  (List.range 4).flatMap (fun d =>
    [here .mscflushDone { n0 := d }, here .mscpinDone { n0 := d }, here .crossingDrainDone { n0 := d }, here .relockDone { n0 := d }]
    ++ ((s.dieSt d).requests.map fun r => here (if r.2 then .regionAwake else .regionGated) { region := r.1 }))
  ++ (s.pcs.flatMap fun p =>
    (match p.2.allUntil with
      | some c => if c ≤ s.gts * 17 / 20 then [here .refreshEnd { n0 := p.1, n2 := c, flag := true }] else []
      | none => [])
    ++ [here .forcedRefreshStart { n0 := p.1, n1 := max p.2.now (s.gts * 17 / 20) }]
    ++ p.2.bankUntil.filterMap fun b =>
      if b.2 ≤ s.gts * 17 / 20 + 1 then some (here .refreshEnd { n0 := p.1, n1 := b.1, n2 := b.2 - 1 }) else none)
  ++ (s.msc.flatMap fun p => p.2.missing.map fun r =>
      let a := s.myPkg * 2 ^ 42 + p.1 * 2 ^ 37 + 128 * r.1
      here .memoryReadArrival { n0 := a, n1 := max (s.pc (pcOf a)).now (s.gts * 17 / 20) })
  ++ [here .otinvDone, here .eventPost { n0 := 0 }, here .eventPost { n0 := 1 }]
  ++ s.power.changing.map (fun i => here .islandLevelChangeDone { n0 := i })

/-- A turn's step can be made now. -/
def State.isDue (s : State) (t : Turn) : Bool :=
  match exec t.ev { s with operand := t.on } with
  | .next _ => true
  | _ => false

/-- The step that is due for the focus context, or for a unit. -/
def State.due (s : State) : Option Turn :=
  match s.ctxTurns.find? s.isDue with
  | some t => some t
  | none => (s.coreTurns ++ s.unitTurns ++ s.launchTurns ++ s.pageTurns ++ s.wakeTurns ++ s.packageTurns).find? s.isDue

/-! ## The turn of a dispatcher -/

/-- The running banks of the cores that hold a live context. -/
def State.liveBanks (s : State) : List BankKey :=
  (s.bankKeys.filter fun k => (s.bankCtx k).status == .live).map fun k => s.runningBank k.core

/-- The least bank of a list above a bound, or the least at all. -/
def leastAfter (b : Nat) (l : List Nat) : Option Nat :=
  let least := fun (l : List Nat) => l.foldl (fun (m : Option Nat) k => match m with
    | some x => some (min x k)
    | none => some k) none
  least (l.filter fun k => decide (b < k)) <|> least l

/-- The bank whose turn it is: the cores that hold a live context take turns. -/
def State.nextBank (s : State) : BankKey := (leastAfter s.cur s.liveBanks).getD s.cur

/-- The step that moves next, where the agenda names none: what is due for the bank whose turn it is or for a unit, or a
fetch by that bank's dispatcher. -/
def State.nextTurn (s : State) : Turn :=
  { (s.focus s.nextBank).due.getD (here .fetchWord) with at' := some s.nextBank }

/-! ## Placing one instruction -/

/-- The address space, the object and the frames of the job that stands for a load of one instruction. -/
def loadAsid : Nat := 1
def loadRoot : Nat := 0x200000
def loadTable : Nat := 0x300000
def loadList : Nat := 0x380000
def loadFrame : Nat := 2

/-- The code capability of that job. -/
def loadCode : Cap := { rights := rightsOf [rX], upper := 0x200000, type := 6, asid := 1, obj := 0 }

/-- A DIRECT job at supervisor level whose code object is the page of `loadFrame`: what a launch by the host leaves in
a bank. -/
def State.installJob (s : State) : State :=
  let s := { s with
    ctx.status := .live, ctx.job.code := loadCode, ctx.job.direct := true, ctx.seq.sup := true,
    ctx.seq.fetch := 0, ctx.seq.entry := 0, ctx.gen := startSeeds, ctx.job.uid := s.units.nextUid
    units.nextUid := s.units.nextUid + 1
    asidRoot := BitVec.ofNat 64 loadRoot }
  { s with mem := (((s.mem.write (loadRoot + 16 * loadAsid) (natToBytes 8 (2 ^ 63 + 1) ++ natToBytes 8 loadTable)).write
      loadTable (natToBytes 8 (2 ^ 63 + 2 ^ 48 * tyCode + pageSize) ++ natToBytes 8 loadList)).write
      loadList (natToBytes 8 loadFrame)) }

/-- The fetch point of the focus context can be read. -/
def State.fetchPlace (s : State) : Option Nat :=
  if s.ctx.status ≠ .live then none
  else match s.codeWord s.ctx.seq.fetch, s.locate s.ctx.job.code s.ctx.seq.fetch with
    | .ok _, .at a => some a
    | _, _ => none

/-- The dispatcher is free to fetch, and it moves next. -/
def State.clearFetch (s : State) : State :=
  { s with ctx.seq.wait := .none, ctx.seq.pfx := none, ctx.seq.adv := false, ctx.frozen := false,
           ctx.trapPending := none,
           running := s.running.set 0 s.cur.core s.cur.bank, agenda := [here .fetchWord] }

end Sys2Proof.Machine
end

