-- ==== Sys2Proof/Machine/Step.lean ====
section
/-! DEFINITION. One step of the machine, and the state with one instruction where the next step fetches it. -/
namespace Sys2Proof.Machine

/-- Time passes with every step; how much, the spec leaves open. -/
def State.tick (s : State) : State :=
  { s with gts := s.gts + Config.nsElapsed s.steps, steps := s.steps + 1 }

/-- The running context of the core whose turn it was, in the focus. -/
def State.atCore (s : State) : State := s.focus (s.runningBank s.cur.core)

/-- The state in which a turn's step is made. -/
def State.begin (s : State) (t : Turn) : State :=
  ({ s with operand := t.on }).focus (t.at'.getD (s.runningBank s.cur.core))

/-- One step: the agenda's next turn, or where it names none the one that the schedule chooses. -/
def step (s : State) : Host.Outcome State Fault Refusal :=
  match s.agenda with
  | t :: r => exec t.ev (({ s with agenda := r }).tick.begin t)
  | [] => exec s.tick.atCore.nextTurn.ev (s.tick.atCore.begin s.tick.atCore.nextTurn)

/-- The bytes of an instruction numbered as the opcode table numbers it: two words, the bits above `nbits` zero. -/
def tableBytes (nbits w : Nat) : Bytes := natToBytes 8 (w % 2 ^ nbits)

/-- The state with an instruction where the next step fetches it. A state with no job to fetch for first gets the job
that a launch would leave. -/
def State.withFetchWord (s : State) (nbits w : Nat) : State :=
  let s1 := match s.fetchPlace with
    | some _ => s
    | none => s.installJob
  match s1.fetchPlace with
  | some a => { s1 with mem := s1.mem.write a (tableBytes nbits w) }.clearFetch
  | none => s1.clearFetch

end Sys2Proof.Machine
end

