-- ==== Sys2Proof/WellFormed.lean ====
section
/-! DEFINITION. Which instructions are well formed: those without a word-level fault (R62, R63, R65, R66, R70). -/
namespace Sys2Proof

/-- An instruction none of whose fields is one that the spec rules out. -/
def wellFormed (i : Instr) : Bool := (wordFault i).isNone

end Sys2Proof
end

