-- ==== Sys2Proof/Safety.lean ====
section
/-! DEFINITION. The terms that claims about a step are stated in: which state takes an instruction at once, and what
stays as it was. -/
namespace Sys2Proof.Machine

/-- The modifiers with which a word of an engine is steered: rounding, saturation, and whether its predicate holds (R65,
R67). None where the pending prefix is another engine's. -/
def State.modifiers (s : State) (e : Engine) : Option (BitVec 3 × BitVec 2 × Bool) :=
  match s.ctx.seq.pfx with
  | none => some (0, 0, true)
  | some p => if p.eng.toNat = e.code then some (p.rnd, p.sat, pfxCond s p) else none

/-- An engine takes an instruction that is handed to it at once: its own fields rule nothing out, the launch lets the
engine have words, nothing stands before it in its queue, nothing holds it, and no earlier attempt has left anything in
its hold buffer. `m` are its modifiers. -/
abbrev State.takes (s : State) (e : Engine) (i : Instr) (m : BitVec 3 × BitVec 2 × Bool) : Prop :=
  wordFault i = none ∧ s.modifiers e = some m ∧ pfxFault i m.1 m.2.1 = false ∧ s.masked e = false ∧
  s.queue e = [] ∧ s.heldBy e = false ∧ inMask s.lag e = false ∧ s.hold e = {}

/-- The dispatcher executes a word of SEQ: no prefix is pending, its own fields rule nothing out, and the launch lets
SEQ have words. -/
abbrev State.runsSeq (s : State) (i : Instr) : Prop :=
  s.ctx.seq.pfx = none ∧ wordFault i = none ∧ s.masked .seq = false

/-- No outstanding load is still to write one of these x registers (R153). -/
abbrev State.xFree (s : State) (l : List (BitVec 5)) : Prop := ∀ r ∈ l, s.xBusy r = false

/-- No outstanding load is still to write one of these capability registers. -/
abbrev State.cFree (s : State) (l : List (BitVec 5)) : Prop := ∀ r ∈ l, s.cBusy r.toNat = false

/-- A register's entry does not forbid a value in this state (R47, R76, R148, R446, R449, R451, R453, R454): DMEMB's between
phases and within its limits, RNGSEED's once every queue has room for its seed, and the requests of the memory system. -/
abbrev State.csrTakes (s : State) (n : Nat) (v : DWord) : Prop :=
  let frame := (v.setWidth 31).toNat
  (n = 0x010 → dmembOk v = true ∧ s.phasePending = 0 ∧ s.ctx.seq.flag = false ∧ s.phaseHeld = false) ∧
  (n = 0x013 → (engines.all fun e => s.room e 1) = true) ∧
  (n = 0x110 → v.extractLsb' 61 2 = 1 ∨ (v.extractLsb' 61 2 = 2 ∧ s.frameOfDie s.cur.die frame = true)) ∧
  (n = 0x111 → (v.extractLsb' 60 2 = 1 ∨ v.extractLsb' 60 2 = 2) ∧ s.frameOfDie s.cur.die frame = true) ∧
  (n = 0x130 → (s.slice s.cur.die).wayRefused (v.setWidth 16) = false) ∧
  (n = 0x131 → (pwrRequest s.cur.die v).isSome = true) ∧
  (n = 0x138 → s.ratioOk s.cur.die (v.setWidth 2) = true)

/-- A word at an address lies in the job's code capability (R64). -/
abbrev State.inCode (s : State) (t : Int) : Prop :=
  (s.ctx.job.code.lower.toNat : Int) ≤ t ∧ t + 4 ≤ (s.ctx.job.code.upper.toNat : Int)

/-- A loop on a counter that ends at an address may be opened (R131): none is active on the counter, and it ends no later
than the loop around it. -/
abbrev State.loopFits (s : State) (d : BitVec 5) (stop : Nat) : Prop :=
  (s.ctx.seq.loops.any fun l => l.ctr == d.toNat) = false ∧ (s.innerLoop.all fun l => decide (stop ≤ l.stop)) = true

/-- No scratchpad bank that a range touches is gated (R451), and nothing makes an access to the range wait. -/
abbrev State.padReady (s : State) (o n : Nat) : Prop :=
  ((padBanks o n).any fun j => s.ctx.padGated.getLsbD j) = false ∧ s.padWaits o n = false

/-- A range of an object lies in one page, whose translation a holder has or can have at once, from a physical address on
(R164 to R166). -/
abbrev State.lies (s : State) (h : HolderId) (c : Cap) (o n a : Nat) : Prop :=
  0 < n ∧ o % pageSize + n ≤ pageSize ∧ ∃ t : Trans,
    ((s.holder h).find c.obj.toNat (o / pageSize) = some t ∨
      ((s.holder h).find c.obj.toNat (o / pageSize) = none ∧ s.late = false ∧ s.walk c o = .ok t)) ∧
    t.place o = .at a ∧ t.place (o + n - 1) = .at (a + n - 1)

/-- The quarter of a physical address is awake, and its package can be reached (R437, R451, R452). -/
abbrev State.reachable (s : State) (a : Nat) : Prop :=
  s.quarterGated a = false ∧ s.memHeld a = false ∧ s.reach (packageOf a) = .ok

/-- A read of a range of an object gives these bytes at once: nothing that it follows is still to be performed, and no byte
that it reads lies in an uncorrectable sector. A task sees its commit buffer over memory, and a window capability gathers
(R41, R83, R91, R154, R225). -/
def State.gives (s : State) (h : HolderId) (c : Cap) (o n : Nat) (viaL1 : Bool) (v : Bytes) : Prop :=
  s.marked c o n = false ∧ s.follows c o n = false ∧
  if c.type.toNat = tyGwin then
    s.indexFollows c o n = false ∧ ∃ l, s.plan c o n = .parts l ∧ joinGot (s.readParts false (s.heldParts l) l) = .bytes v
  else ∃ a, s.lies h c o n a ∧ s.reachable a ∧ s.badGap a n (s.heldOf c o n) = none ∧
    v = mergeHeld (s.heldOf c o n) (if viaL1 then s.l1Read a n else s.mem.read a n)

/-- A plain write of bytes to an object can be made at once: into the commit buffer of a task, to a page at hand, or through
a window whose elements can be reached (R40, R164, R225). -/
def State.canWrite (s : State) (h : HolderId) (c : Cap) (o : Nat) (b : Bytes) : Prop :=
  s.marked c o b.length = false ∧ 0 < b.length ∧
  if s.ctx.job.task then s.ctx.acc.commit.length + b.length / 32 + 2 ≤ commitDepth
  else if c.type.toNat = tySwin then
    s.indexFollows c o b.length = false ∧ ∃ l, s.plan c o b.length = .parts l ∧ s.scatterFail l = none
  else s.follows c o b.length = false ∧ ∃ a, s.lies h c o b.length a ∧ s.reachable a

/-- No sector that stands dirty in a memory-side cache has become uncorrectable while HBM4E's is not, so that no line is
written back without one of its sectors (R448). -/
def State.backed (s : State) : Bool := s.msc.all fun d => d.2.lines.all fun l => l.under.all fun p => !s.bad.contains p.1

/-- What such a write leaves: a task's bytes stand in its commit buffer and memory as it was; another's stand in memory, where
no other byte changes, and one write more is to be acknowledged (R39, R40). -/
def State.written (s t : State) (h : HolderId) (c : Cap) (o : Nat) (b : Bytes) : Prop :=
  (s.ctx.job.task = true → t.mem = s.mem ∧ t.acks = s.acks ∧ t.heldOf c o b.length = b.map some) ∧
  (∀ a, s.ctx.job.task = false → c.type.toNat ≠ tySwin → s.lies h c o b.length a →
    t.mem = s.mem.write a b ∧ t.unacked s.ctx.job.uid = s.unacked s.ctx.job.uid + 1)

/-- A word of `n` bytes that RMAP reads from its remap object, and its value (R401). -/
def State.remapSees (s : State) (c : Cap) (off n v : Nat) : Prop :=
  s.capCheck c off n [tyRemap] (rightsOf [rR]) = none ∧ s.follows c (capOffset c off) n = false ∧
  ∃ b, s.readOwn c (capOffset c off) n = .bytes b ∧ bytesToNat b = v

/-- The registers of ACC and VEC, the scratchpad and the sequencer are as the instruction's own word leaves them. -/
def State.onlyMemory (s t : State) : Prop :=
  t.ctx.acc.x = s.ctx.acc.x ∧ t.ctx.acc.c = s.ctx.acc.c ∧ t.ctx.vec = s.ctx.vec ∧ t.ctx.pad = s.ctx.pad ∧
  t.ctx.seq = (s.advance 1).ctx.seq

/-- The operand that names a side of a transfer: a capability register, or a scratchpad reference in an x register
(R208). -/
def State.sideArg (s : State) (sp : BitVec 1) (r : BitVec 5) : SideArg :=
  if sp = 1 then { sp := true, cap := Cap.null, ref := s.x r } else { sp := false, cap := s.c r.toNat, ref := 0 }

/-- Issuing a command of a class (R103, R207): it takes the next number of its class and leaves the core, and nothing else
changes that a program reads: no byte of memory or of the scratchpad, no register of ACC, of VEC or of SEQ. -/
def State.issues (s t : State) (cls : Nat) (c : Cmd) : Prop :=
  t.units.cmds = s.units.cmds ++ [c] ∧ c.n = s.units.nextCmd ∧ c.uid = s.ctx.job.uid ∧ c.cls = cls ∧
  c.num = (s.ctx.units.tl.get {} cls).issued + 1 ∧ c.held = false ∧ c.started = false ∧ c.done = false ∧ c.failed = none ∧
  t.ctx.units.tl = s.ctx.units.tl.set {} cls { s.ctx.units.tl.get {} cls with issued := (s.ctx.units.tl.get {} cls).issued + 1 } ∧
  t.mem = s.mem ∧ t.l2 = s.l2 ∧ t.ctx.pad = s.ctx.pad ∧ t.ctx.acc.x = s.ctx.acc.x ∧ t.ctx.acc.c = s.ctx.acc.c ∧
  t.ctx.vec = s.ctx.vec ∧ t.ctx.seq = (s.advance 1).ctx.seq

/-! ## VEC -/

/-- VEC has no landing pending and no register or mask with an uncorrectable error. -/
abbrev State.vecReady (s : State) : Prop := s.ctx.vec.slots = [] ∧ s.ctx.vec.bad = []

/-- The source is a block of registers or a broadcast k register (R283). -/
abbrev fixedSrc (k : BitVec 2) : Prop := k = 0 ∨ k = 3

/-- The registers that such a source gives. -/
def State.vecArg (s : State) (h w : Nat) (k : BitVec 2) (r : BitVec 6) : List VReg :=
  if k = 0 then (blockRegs r.toNat h w).map s.vreg else List.replicate (h * w) (List.replicate 512 (s.kreg r.toNat))

/-- Results register by register, each with the generator and the free value that those before it leave. -/
def overBlocks {α β : Type} (f : α → Word → Nat → β × Word × Nat) : List α → Word → Nat → List β × Word × Nat
  | [], g, n => ([], g, n)
  | x :: l, g, n =>
    let a := f x g n
    let b := overBlocks f l a.2.1 a.2.2
    (a.1 :: b.1, b.2)

/-- A VEC instruction on registers completes with these results in its destination block under its mask; the generator
and the free values are left as given, and nothing else changes. -/
def State.vecDone (s : State) (i : Instr) (o : VB) (q : List VReg × Word × Nat) : Prop :=
  ∃ G : Sparse Word, exec i s = .next
      { (s.advance 2).setBlock o.d.toNat o.rows o.cols (s.mreg o.m.toNat) q.1 with ctx.gen := G, fresh := q.2.2 } ∧
    G.get 0 Engine.vec.code = q.2.1 ∧ ∀ e : Nat, e ≠ Engine.vec.code → G.get 0 e = s.ctx.gen.get 0 e

/-- RSUM's tree of FP32 additions over the 512 lanes of a register (R298): `k` levels. -/
def treeSum (r : Rnd) : Nat → List Nat → Word → Nat → List Nat × Word × Nat
  | 0, l, g, n => (l, g, n)
  | k + 1, l, g, n =>
    let a := roundAll fp32 r (pairUp (fun x y => match x, y with
      | some x, some y => some (FVal.add r.down x y)
      | _, _ => none) (l.map fun x => some (fp32.val x))) g n
    treeSum r k a.1 a.2.1 a.2.2

/-! ## Blocks from and to streams and queues -/

/-- The blocks that an operand supplies to an engine at once: those that a running input stream has filled, or the oldest
entries of a queue that the engine consumes. -/
def State.supplies (s : State) (e : Engine) (p : OutDest) (fmts : List Nat) (l : List Block) : Prop :=
  match p with
  | .stream i => (s.stream i).st = .run ∧ (s.stream i).desc.out = false ∧ (s.stream i).desc.engn = e.code ∧
      (s.stream i).desc.fmt ∈ fmts ∧ (s.stream i).done + l.length ≤ (s.stream i).desc.blocks ∧ (s.stream i).buf.take l.length = l
  | .queue q => (∃ x, (s.dataQ q).bind = some (x, e)) ∧ (s.dataQ q).entries.take l.length = l.map (·.bytes) ∧
      l.length ≤ (s.dataQ q).entries.length ∧ ∀ b ∈ l, b.hdrs = []
  | .branch => False

/-- What is written to a destination stays there for the time being: a queue, or a stream to memory whose drains come
later. -/
def State.keeps (s : State) (p : OutDest) : Prop :=
  match p with
  | .stream i => s.late = true ∧ (s.stream i).desc.sp = false
  | .queue _ => True
  | .branch => False

/-- A destination accepts blocks of an engine at once: a running output stream with room in its buffer, or a queue that the
engine produces for, with room. Where the schedule drains a block as it is written, it is one block: the failure of a
drain is raised by the write after it (R197). -/
def State.accepts (s : State) (e : Engine) (p : OutDest) (fmts : List Nat) (n : Nat) : Prop :=
  match p with
  | .stream i => (s.stream i).st = .run ∧ (s.stream i).desc.out = true ∧ (s.stream i).desc.engn = e.code ∧
      (s.stream i).desc.fmt ∈ fmts ∧ (s.stream i).done + n ≤ (s.stream i).desc.blocks ∧ (s.stream i).buf.length + n ≤ 4 ∧
      (s.stream i).drainFault = none ∧ s.ctx.job.task = false ∧ (s.keeps (.stream i) ∨ n ≤ 1)
  | .queue q => (∃ x, (s.dataQ q).bind = some (e, x)) ∧ (s.dataQ q).reserved = [] ∧ (s.dataQ q).entries.length + n ≤ 4
  | .branch => False

/-- Blocks have been popped from an operand (R194, R264). -/
def State.popped (s t : State) (p : OutDest) (n : Nat) : Prop :=
  match p with
  | .stream i => (t.stream i).done = (s.stream i).done + n ∧ (t.stream i).buf = (s.stream i).buf.drop n
  | .queue q => t.dataQ q = { s.dataQ q with entries := (s.dataQ q).entries.drop n }
  | .branch => False

/-- What a block holds for its reader: its bytes and its headers. -/
def Block.content (b : Block) : Bytes × Bytes := (b.bytes, b.hdrs)

/-- Blocks have been written to a destination: to the queue's tail, each filled up with zeros, or to the stream, which keeps
them in its buffer until they drain (R24, R197). -/
def State.pushed (s t : State) (p : OutDest) (l : List Block) : Prop :=
  match p with
  | .stream i => (t.stream i).done = (s.stream i).done + l.length ∧ 
      (s.keeps (.stream i) → (t.stream i).buf.map (·.content) = (s.stream i).buf.map (·.content) ++ l.map (·.content))
  | .queue q => t.dataQ q = { s.dataQ q with entries := (s.dataQ q).entries ++ l.map fun b => entry b.bytes }
  | .branch => False

/-- What no instruction of the matrix, index and converter engines changes: the registers of ACC and of VEC, and, where no
block drains to its place, memory and the scratchpad. -/
def State.onlyBlocks (s t : State) (p : OutDest) : Prop :=
  t.ctx.vec = s.ctx.vec ∧ t.ctx.acc.x = s.ctx.acc.x ∧ t.ctx.acc.c = s.ctx.acc.c ∧ t.l2 = s.l2 ∧
  (s.keeps p → t.mem = s.mem ∧ t.ctx.pad = s.ctx.pad)

/-- The same for an instruction that writes no block. -/
def State.noBlocks (s t : State) : Prop :=
  t.ctx.vec = s.ctx.vec ∧ t.ctx.acc.x = s.ctx.acc.x ∧ t.ctx.acc.c = s.ctx.acc.c ∧ t.ctx.dq = s.ctx.dq ∧ t.ctx.pad = s.ctx.pad ∧
  t.mem = s.mem ∧ t.l2 = s.l2

/-! ## MAT -/

/-- The head tile of a ring, read from the scratchpad (R309, R315). -/
def State.tile (s : State) (g : Nat) : Tile :=
  let r := s.ring g
  let raw := s.ctx.pad.read (r.slotAt r.head) r.size
  { ring := r, slot := r.filled.head?, bytes := raw.take r.payload, hdrs := (raw.drop r.hdrAt).take (hdrBytes r.fmt * r.blocks32) }

/-- A ring's head tile is filled, fits, and can be read (R309, R315). -/
abbrev State.tileReady (s : State) (g : Nat) (fmts : List Nat) (rows k : Nat) : Prop :=
  (s.ring g).defined = true ∧ (s.ring g).filled.head?.map (·.fmt) = some (s.ring g).fmt ∧ (s.ring g).fmt ∈ fmts ∧
  (s.ring g).rows = rows ∧ 32 * (s.ring g).kb = k ∧ (s.ring g).slotAt (s.ring g).head + (s.ring g).size ≤ padSize ∧
  s.padReady ((s.ring g).slotAt (s.ring g).head) (s.ring g).size ∧
  s.padBadIn ((s.ring g).slotAt (s.ring g).head) (s.ring g).size = none

/-- A product leaves one accumulator changed, pops its tiles, and counts its multiply-accumulates; no other accumulator or
ring changes. -/
def State.matDone (s t : State) (acc : BitVec 2) (v : MatAcc) (popped : State) (macs : Nat) : Prop :=
  t.mat acc = v ∧ (∀ a : BitVec 2, a ≠ acc → t.mat a = s.mat a) ∧ (∀ g : Nat, t.ring g = popped.ring g) ∧
  t.ctx.mat.macs = s.ctx.mat.macs + BitVec.ofNat 64 macs ∧ s.noBlocks t

/-- The hold of an attention instruction can begin at once: the handle names a valid object of the job's address space that
the job's own table holds, or that nothing holds exclusively and nothing waits for, and its engine has an entry for it (R230, R238,
R247, R330). -/
abbrev State.attentionFree (s : State) (h : DWord) : Prop :=
  handleBad h = false ∧ s.askAt s.fetchPoint = none ∧ s.reach (handleKey h).1 = .ok ∧
  s.objFault h s.ctx.job.code.asid.toNat = none ∧ s.bindPending (handleKey h) = false ∧ s.ctx.status = .live ∧
  (holdsKey s.ctx.units.holds (handleKey h) = true ∨
    ((s.obj (handleKey h)).waiters = [] ∧ (s.obj (handleKey h)).open false = true ∧ s.poolQueued (handleKey h) = false ∧
      (s.takeObj (handleKey h)).isSome = true))

/-- The record of a key tile can be read, and gives this LIVE (R329, R331). -/
abbrev State.recordLive (s : State) (r : RingSlot) (rights : List Nat) (live : Nat) : Prop :=
  r.sp = false ∧ s.capCheck r.cap (r.record - r.cap.cursor.toNat) recordBytes [tyData] (rightsOf rights) = none ∧
  ((s.placeRange r.cap r.record.toNat recordBytes).findSome? fun p => match p.1 with | .fails c => some c | _ => none) = none ∧
  s.marked r.cap r.record.toNat recordBytes = false ∧
  s.follows r.cap r.record.toNat recordBytes = false ∧ live ≤ 64 ∧
  ∃ b, s.readOwn r.cap r.record.toNat 4 = .bytes b ∧ bytesToNat b = live

/-! ## IDX -/

/-- The queue or the stream that a field of an IDX instruction names (R340). -/
def idxDest (f : BitVec 5) : OutDest := if f.toNat < 24 then .queue (f.toNat - 16) else .stream (f.toNat - 24)

/-- The blocks that an operand of IDX supplies at once: y registers without an uncorrectable error, or what a queue or a
stream supplies. -/
def State.idxGives (s : State) (f : BitVec 5) (fmts : List Nat) (l : List Bytes) : Prop :=
  if f.toNat < 16 then
    (∀ i < l.length, l[i]? = some (s.yreg (f.toNat + i)) ∧ s.ctx.idx.bad.contains (f.toNat + i) = false)
  else ∃ bs : List Block, bs.map (·.bytes) = l ∧ s.supplies .idx (idxDest f) fmts bs

/-- A destination of IDX takes blocks at once. -/
def State.idxRoom (s : State) (f : BitVec 5) (fmts : List Nat) (n : Nat) : Prop :=
  16 ≤ f.toNat → s.accepts .idx (idxDest f) fmts n

/-- Blocks have been popped from an operand of IDX that is no register. -/
def State.idxTook (s t : State) (f : BitVec 5) (n : Nat) : Prop := 16 ≤ f.toNat → s.popped t (idxDest f) n

/-- Blocks have been written to a destination of IDX, each filled up with zeros; no other y register changes. -/
def State.idxSent (s t : State) (f : BitVec 5) (l : List Bytes) : Prop :=
  if f.toNat < 16 then
    (∀ i b, l[i]? = some b → t.yreg (f.toNat + i) = entry b) ∧
    (∀ j : Nat, (j < f.toNat ∨ f.toNat + l.length ≤ j) → t.yreg j = s.yreg j)
  else s.pushed t (idxDest f) (l.map fun b => { bytes := entry b }) ∧ ∀ j : Nat, t.yreg j = s.yreg j

/-- IDX's state but for the y registers. -/
def State.idxLeft (t : State) (x : IdxSt) : Prop := { t.ctx.idx with y := x.y, bad := x.bad } = x

/-- Two operands of IDX name no common queue or stream. -/
abbrev apart (a b : BitVec 5) : Prop := a ≠ b ∨ a.toNat < 16

/-- An instruction of IDX completes: it has popped its sources, written its destination, and left IDX's state as given,
and it has changed nothing else. -/
def State.idxDone (s : State) (i : Instr) (took : List (BitVec 5 × Nat)) (d : BitVec 5) (l : List Bytes) (x : IdxSt) : Prop :=
  ∃ t : State, exec i s = .next t ∧ (∀ p ∈ took, s.idxTook t p.1 p.2) ∧ s.idxSent t d l ∧ t.idxLeft x ∧
    (if d.toNat < 16 then s.ctx.vec = t.ctx.vec ∧ t.mem = s.mem ∧ t.ctx.pad = s.ctx.pad ∧ t.ctx.acc.x = s.ctx.acc.x ∧
      t.ctx.acc.c = s.ctx.acc.c else s.onlyBlocks t (idxDest d)) ∧ t.ctx.mat = s.ctx.mat ∧ t.ctx.qnt = s.ctx.qnt

/-- The same for an instruction without a destination. -/
def State.idxOnly (s : State) (i : Instr) (took : List (BitVec 5 × Nat)) (x : IdxSt) : Prop :=
  ∃ t : State, exec i s = .next t ∧ (∀ p ∈ took, s.idxTook t p.1 p.2) ∧ t.ctx.idx = x ∧ t.ctx.vec = s.ctx.vec ∧
    t.mem = s.mem ∧ t.ctx.pad = s.ctx.pad ∧ t.ctx.acc.x = s.ctx.acc.x ∧ t.ctx.mat = s.ctx.mat ∧ t.ctx.qnt = s.ctx.qnt

/-- A converter instruction completes: it has popped its sources and written its destination, it leaves QNT's state and
generator as given, and it has changed nothing else. -/
def State.qntDone (s : State) (i : Instr) (src : Option (OutDest × Nat)) (d : OutDest) (l : List Block) (x : QntSt)
    (g : Word) : Prop :=
  ∃ t : State, exec i s = .next t ∧ (∀ p, src = some p → s.popped t p.1 p.2) ∧ s.pushed t d l ∧ t.ctx.qnt = x ∧
    t.generator .qnt = g ∧ s.onlyBlocks t d ∧ t.ctx.mat = s.ctx.mat ∧ t.ctx.idx = s.ctx.idx

/-! ## Words and their engines -/

/-- The engine that an instruction belongs to, and its words (R58, R82). A word of SEQ, a prefix and CONTRACT, which the
dispatcher takes itself, have none. -/
def engineOf : Instr → Option (Engine × Nat)
  | .add .. | .sub .. | .mul .. | .mulh .. | .and .. | .or .. | .xor .. | .shl .. | .shr .. | .sra .. | .min ..
  | .max .. | .clz .. | .popc .. | .addi .. | .andi .. | .ori .. | .shli .. | .shri .. | .cmp .. | .cmpb .. | .movq ..
  | .popq .. | .divu .. | .remu .. | .cmov .. | .cnarrow .. | .crights .. | .cadd .. | .cget .. | .cld .. | .cst ..
  | .ld .. | .st .. | .lds .. | .sts .. | .ldq .. | .stq .. | .prf .. | .fence .. | .sbind .. | .sset .. | .sring ..
  | .sstop .. | .sstat .. | .sout .. | .pgdist .. | .cpy .. | .cpy2 .. | .cpyl2 .. | .chain .. | .mcast .. | .gwin ..
  | .scrub .. | .wmark | .swarm .. | .migr .. | .eqpost .. | .eqrel .. | .eqcut .. | .eqpeek .. | .spill .. | .fill ..
  | .lslot .. | .lsend .. | .lrecv .. | .lradd .. | .evict .. | .rmap .. | .atom .. | .atomf .. | .atomfQ .. | .acq ..
  | .tryacq .. | .rel .. | .bind .. | .tlget .. | .tlarm .. => some (.acc, 1)
  | .li .. | .lih .. => some (.acc, 2)
  | .ldt .. | .fadd .. | .fsub .. | .fmul .. | .ffma .. | .fmin .. | .fmax .. | .fabs .. | .fneg .. | .frcp ..
  | .frsq .. | .fexp2 .. | .flog2 .. | .ftanh .. | .fcmp .. | .iadd .. | .isub .. | .imul .. | .imad .. | .imin ..
  | .imax .. | .vecAnd .. | .vecOr .. | .vecXor .. | .lop3 .. | .vecShl .. | .vecShr .. | .vecSra .. | .fshl ..
  | .fshr .. | .vecPopc .. | .vecClz .. | .icmp .. | .mov .. | .sel .. | .bcst .. | .perm .. | .rot .. | .cvt ..
  | .rsum .. | .rmax .. | .rmin .. | .scan .. | .mset .. | .vcmpb .. => some (.vec, 2)
  | .mma .. | .mmat .. | .mzero .. | .madd .. | .mscl .. | .mdrain .. | .rskip .. | .rowst .. | .mstat .. => some (.mat, 1)
  | .atts .. | .attv .. | .attm .. | .shape .. | .ringdef .. => some (.mat, 2)
  | .sigcfg .. | .sigh .. | .bkt | .repsel .. | .repgat .. | .repscat .. | .memb .. | .memba .. | .ixld .. | .ixst ..
  | .ixmov .. | .bmand .. | .bmor .. | .bmpfx .. | .ixcnt .. | .spdot .. | .isect .. | .union .. => some (.idx, 1)
  | .had .. | .hadw .. | .ctbl .. | .qsel .. | .cvtx .. | .cvtn .. | .qhdr .. | .qerr .. | .qstat .. => some (.qnt, 1)
  | .qst .. | .qstm .. | .deq .. => some (.qnt, 2)
  | _ => none

end Sys2Proof.Machine
end

