-- ==== Sys2Proof/Certificates/Slice0/Obligations.lean ====
section
/-! DEFINITION. The statements for the provers, by the rules of the spec. -/

open Sys2Proof Sys2Proof.Machine

/-! ## The sequencer -/

/-- R70, R125, R127, R128, R132: NOP, and the transfers BR, CALL and RET. One that takes place goes to its target, which
lies in the code object; a taken BR closes the loops that do not hold the target; CALL pushes the next address and leaves the
loops active, RET pops it and closes the loops of a greater depth. One that does not take place leaves fetch at the next
word.
R64, R127: a transfer takes place when the predicate that its field names holds in the sense of the field's low bit, with
the field 0 always; one out of the code object raises CAP_BOUNDS at the transfer, a RET's entry staying on the stack; CALL with 8 entries on the link stack
and RET with none raise ILLEGAL_OPERAND and do not transfer. -/
def Obligations.BranchesCompleteOrTrap : Prop :=
  ∀ (s : State) (c : BitVec 4) (w : BitVec 16),
    (s.runsSeq .nop → exec .nop s = .next (s.advance 1)) ∧
    (s.runsSeq (.br c w) → brCond s c = false → exec (.br c w) s = .next (s.advance 1)) ∧
    (s.runsSeq (.br c w) → brCond s c = true → s.inCode (s.ctx.seq.fetch + 4 * w.toInt) →
      exec (.br c w) s = .next { s.jump (s.ctx.seq.fetch + 4 * w.toInt).toNat with
        ctx.seq.loops := openAt s.ldepth (s.ctx.seq.fetch + 4 * w.toInt).toNat s.ctx.seq.loops }) ∧
    (s.runsSeq (.call c w) → brCond s c = false → exec (.call c w) s = .next (s.advance 1)) ∧
    (s.runsSeq (.call c w) → brCond s c = true → s.ldepth < 8 → s.inCode (s.ctx.seq.fetch + 4 * w.toInt) →
      exec (.call c w) s = .next { s.jump (s.ctx.seq.fetch + 4 * w.toInt).toNat with
        ctx.seq.links := (s.ctx.seq.fetch + 4) :: s.ctx.seq.links }) ∧
    (∀ t r, s.runsSeq .ret → s.ctx.seq.links = t :: r → s.inCode t →
      exec .ret s = .next { s.jump t with
        ctx.seq.links := r, ctx.seq.loops := s.ctx.seq.loops.filter fun l => decide (l.depth ≤ r.length) }) ∧
    (s.runsSeq (.br c w) → brCond s c = true → ¬ s.inCode (s.ctx.seq.fetch + 4 * w.toInt) →
      exec (.br c w) s = .next (s.takeTrap .seq s.ctx.seq.fetch 1
        { cause := .capBounds, toff := (s.ctx.seq.fetch + 4 * w.toInt).toNat, tinfo := 4, cap := s.ctx.job.code })) ∧
    (s.runsSeq (.call c w) → brCond s c = true → s.ldepth < 8 → ¬ s.inCode (s.ctx.seq.fetch + 4 * w.toInt) →
      exec (.call c w) s = .next (s.takeTrap .seq s.ctx.seq.fetch 1
        { cause := .capBounds, toff := (s.ctx.seq.fetch + 4 * w.toInt).toNat, tinfo := 4, cap := s.ctx.job.code })) ∧
    (∀ t r, s.runsSeq .ret → s.ctx.seq.links = t :: r → ¬ s.inCode t →
      exec .ret s = .next (s.takeTrap .seq s.ctx.seq.fetch 1
        { cause := .capBounds, toff := t, tinfo := 4, cap := s.ctx.job.code })) ∧
    brCond s 0 = true ∧ (∀ (p : BitVec 3) (n : BitVec 1), brCond s (p ++ n) = (s.pred p.toNat != (n == 1))) ∧
    (s.runsSeq (.call c w) → brCond s c = true → 8 ≤ s.ldepth →
      exec (.call c w) s = .next (s.takeTrap .seq s.ctx.seq.fetch 1 { cause := .illegalOperand })) ∧
    (s.runsSeq .ret → s.ctx.seq.links = [] →
      exec .ret s = .next (s.takeTrap .seq s.ctx.seq.fetch 1 { cause := .illegalOperand }))

/-- R125, R126: BRQ pops one bit of bq and transfers where the bit, inverted by Z, is 1; JMPQ pops n + 1 bits, the first as
bit 0, and transfers to its table's word of that number. The bits leave bq, and fetch goes on at the target or behind. -/
def Obligations.QueueBranchesPopTheirBits : Prop :=
  ∀ (s : State) (z : BitVec 1) (n : BitVec 2) (w : BitVec 16), s.ctx.bq.producer.isSome → s.ctx.seq.bits = [] →
    (∀ b r, s.runsSeq (.brq z w) → s.ctx.bq.bits = b :: r → b = z.getLsbD 0 →
      exec (.brq z w) s = .next { s.advance 1 with ctx.bq.bits := r }) ∧
    (∀ b r, s.runsSeq (.brq z w) → s.ctx.bq.bits = b :: r → b ≠ z.getLsbD 0 →
      s.inCode (s.ctx.seq.fetch + 4 * w.toInt) →
      exec (.brq z w) s = .next { s.jump (s.ctx.seq.fetch + 4 * w.toInt).toNat with
        ctx.bq.bits := r
        ctx.seq.loops := openAt s.ldepth (s.ctx.seq.fetch + 4 * w.toInt).toNat s.ctx.seq.loops }) ∧
    (∀ l r, s.runsSeq (.jmpq n w) → s.ctx.bq.bits = l ++ r → l.length = n.toNat + 1 →
      s.inCode (s.ctx.seq.fetch + 4 * (w.toInt + bitsValue l)) →
      exec (.jmpq n w) s = .next { s.jump (s.ctx.seq.fetch + 4 * (w.toInt + bitsValue l)).toNat with
        ctx.bq.bits := r
        ctx.seq.loops := openAt s.ldepth (s.ctx.seq.fetch + 4 * (w.toInt + bitsValue l)).toNat s.ctx.seq.loops }) ∧
    (s.runsSeq (.brq z w) → s.ctx.bq.bits = [] → exec (.brq z w) s = .next s.stall)

/-- R130, R131, R134: LOOP and LOOPQ open a loop behind themselves and set its counter; LOOP with a count of 0 goes to the
loop's end; LBRK closes the innermost loop of the current link depth, with counter 0, and goes to its end. -/
def Obligations.LoopInstructionsOpenAndClose : Prop :=
  ∀ (s : State) (d : BitVec 5) (len : BitVec 10) (count : BitVec 27) (c : BitVec 4),
    (s.runsSeq (.loop d len count) → s.loopFits d (s.ctx.seq.fetch + 8 + 4 * len.toNat) → count ≠ 0 →
      exec (.loop d len count) s = .next { (s.advance 2).setLc d.toNat count with
        ctx.seq.loops := ⟨d.toNat, s.ctx.seq.fetch + 8, s.ctx.seq.fetch + 8 + 4 * len.toNat, s.ldepth, .counted⟩
          :: s.ctx.seq.loops }) ∧
    (s.runsSeq (.loop d len 0) → s.loopFits d (s.ctx.seq.fetch + 8 + 4 * len.toNat) →
      exec (.loop d len 0) s = .next ((s.advance (2 + len.toNat)).setLc d.toNat 0)) ∧
    (s.runsSeq (.loopq d len) → s.loopFits d (s.ctx.seq.fetch + 4 + 4 * len.toNat) →
      exec (.loopq d len) s = .next { (s.advance 1).setLc d.toNat 0 with
        ctx.seq.loops := ⟨d.toNat, s.ctx.seq.fetch + 4, s.ctx.seq.fetch + 4 + 4 * len.toNat, s.ldepth, .queued⟩
          :: s.ctx.seq.loops }) ∧
    (∀ l, s.runsSeq (.lbrk c) → s.innerLoop = some l → brCond s c = true →
      exec (.lbrk c) s = .next { (s.jump l.stop).setLc l.ctr 0 with ctx.seq.loops := s.ctx.seq.loops.erase l }) ∧
    (∀ l, s.runsSeq (.lbrk c) → s.innerLoop = some l → brCond s c = false → exec (.lbrk c) s = .next (s.advance 1)) ∧
    (s.runsSeq (.lbrk c) → s.innerLoop = none →
      exec (.lbrk c) s = .next (s.takeTrap .seq s.ctx.seq.fetch 1 { cause := .illegalOperand }))

/-- R129: PSET writes a predicate from the condition of its function, PLOG from two predicates, PPOP from a bit of
bq; a write to p0 is ignored, and nothing else changes but fetch. R135: KLD writes k[d] from its immediate, from
k[d] shifted, from the launch's row (0 for a DIRECT launch; the read of a row drops the core's L1 lines), or from
another k register; SNQ from the step's number,
the step count or the first step. -/
def Obligations.PredicatesAndLoopRegistersAreWritten : Prop :=
  ∀ (s : State) (d a b f : BitVec 5) (imm : BitVec 10),
    (s.runsSeq (.pset d a b f) → exec (.pset d a b f) s = .next ((s.advance 1).setPred d.toNat (
      if f = 0 then false
      else if f = 1 then true
      else if f = 2 then s.lc a.toNat == 0
      else if f = 3 then s.lc a.toNat != 0
      else if f = 4 then (s.lc a.toNat).setWidth 32 == s.kreg b.toNat
      else if f = 5 then (s.lc a.toNat).setWidth 32 != s.kreg b.toNat
      else if f = 6 then (s.kreg a.toNat).slt (s.kreg b.toNat)
      else s.kreg a.toNat == s.kreg b.toNat))) ∧
    (s.runsSeq (.plog d a b f) → exec (.plog d a b f) s = .next ((s.advance 1).setPred d.toNat (
      if f = 0 then s.pred a.toNat && s.pred b.toNat
      else if f = 1 then s.pred a.toNat || s.pred b.toNat
      else if f = 2 then s.pred a.toNat != s.pred b.toNat
      else if f = 3 then s.pred a.toNat && !s.pred b.toNat
      else !s.pred a.toNat))) ∧
    (∀ v r, s.runsSeq (.ppop ⟨d, 0⟩) → s.ctx.bq.producer.isSome → s.ctx.bq.bits = v :: r →
      exec (.ppop ⟨d, 0⟩) s = .next { (s.advance 1).setPred d.toNat v with ctx.bq.bits := r }) ∧
    (∀ v, s.setPred 0 v = s ∧ s.pred 0 = true) ∧
    (s.runsSeq (.kld d 0 imm) → exec (.kld d 0 imm) s = .next ((s.advance 1).setK d.toNat (imm.signExtend 32))) ∧
    (s.runsSeq (.kld d 1 imm) →
      exec (.kld d 1 imm) s = .next ((s.advance 1).setK d.toNat ((s.kreg d.toNat <<< 10) ||| imm.setWidth 32))) ∧
    (s.runsSeq (.kld d 2 imm) → s.ctx.job.direct = true →
      exec (.kld d 2 imm) s = .next ((s.advance 1).setK d.toNat 0)) ∧
    (∀ v, s.runsSeq (.kld d 2 imm) → s.ctx.job.direct = false →
      s.readDirect s.ctx.job.rowCap (s.ctx.job.rowOff + 64 * s.ctx.seq.sn.toNat + 4 * imm.toNat) 4 = .bytes v →
      s.follows s.ctx.job.rowCap (s.ctx.job.rowOff + 64 * s.ctx.seq.sn.toNat + 4 * imm.toNat) 4 = false →
      exec (.kld d 2 imm) s = .next (((s.l1Drop s.cur.core).advance 1).setK d.toNat (BitVec.ofNat 32 (bytesToNat v)))) ∧
    (s.runsSeq (.kld d 3 imm) → exec (.kld d 3 imm) s = .next ((s.advance 1).setK d.toNat (s.kreg imm.toNat))) ∧
    (s.runsSeq (.snq d f) → exec (.snq d f) s = .next ((s.advance 1).setK d.toNat (
      if f = 0 then s.ctx.seq.sn.setWidth 32
      else if f = 1 then s.ctx.job.stepCount.setWidth 32
      else s.ctx.job.firstStep.setWidth 32))) ∧
    (s.runsSeq (.kld d a imm) → a.toNat ≤ 3)

/-- R136, R137, R48: RDV and PHASE complete in every state in which the queues of the named engines that are busy have
room for a marker. Each of those engines gets a marker behind the words in its queue, and no marker is placed in any other
queue; the marker of an idle engine retires at once. An RDV none of whose markers is left is over at once, another is
under way until they have retired; a PHASE is under way until its release; with the SEQ bit fetch waits for either. -/
def Obligations.MeetingsPlaceMarkersWhereEnginesAreBusy : Prop :=
  ∀ (s : State) (mask : BitVec 6),
    (s.runsSeq (.rdv mask) → (namedEngines mask).all s.idleEngine → exec (.rdv mask) s = .next (s.advance 1)) ∧
    (s.runsSeq (.phase mask) → (namedEngines mask).all s.idleEngine →
      exec (.phase mask) s = .next { s.advance 1 with
        ctx.seq.phases := s.ctx.seq.phases ++ [{ n := s.ctx.seq.nextMeet, mask := mask &&& 0x3E, pending := 0 }]
        ctx.seq.nextMeet := s.ctx.seq.nextMeet + 1
        ctx.seq.wait := if mask.getLsbD 0 then .phase s.ctx.seq.nextMeet else s.ctx.seq.wait }) ∧
    (∀ t e, s.runsSeq (.rdv mask) → exec (.rdv mask) s = .next t → e ≠ .seq →
      (inMask mask e = false ∨ s.idleEngine e = true) → t.queue e = s.queue e) ∧
    (∀ e, s.runsSeq (.rdv mask) → e ≠ .seq → inMask mask e = true → s.idleEngine e = false →
      ((namedEngines mask).all fun e => s.idleEngine e || s.room e 1) →
      ∃ t : State, exec (.rdv mask) s = .next t ∧
        t.queue e = s.queue e ++ [.rdv s.ctx.seq.nextMeet s.ctx.seq.fetch] ∧ t.ctx.seq.fetch = s.ctx.seq.fetch + 4) ∧
    (let busy := (namedEngines mask).filter fun e => !s.idleEngine e
     (∀ e ∈ busy, s.room e 1 = true) →
      (s.runsSeq (.rdv mask) → busy ≠ [] →
        ∃ t : State, exec (.rdv mask) s = .next t ∧ t.ctx.seq.fetch = s.ctx.seq.fetch + 4 ∧
          (∀ e : Engine, t.queue e = if e ∈ busy then s.queue e ++ [.rdv s.ctx.seq.nextMeet s.ctx.seq.fetch] else s.queue e) ∧
          t.ctx.seq.rdvs = s.ctx.seq.rdvs ++ [{ n := s.ctx.seq.nextMeet, mask := mask &&& 0x3E, pending := maskOf busy }] ∧
          t.ctx.seq.nextMeet = s.ctx.seq.nextMeet + 1 ∧
          t.ctx.seq.wait = (if mask.getLsbD 0 then .rdv s.ctx.seq.nextMeet else s.ctx.seq.wait) ∧
          t.ctx.acc = s.ctx.acc ∧ t.ctx.vec = s.ctx.vec ∧ t.ctx.seq.k = s.ctx.seq.k ∧ t.ctx.pad = s.ctx.pad ∧ t.mem = s.mem) ∧
      (s.runsSeq (.phase mask) →
        ∃ t : State, exec (.phase mask) s = .next t ∧ t.ctx.seq.fetch = s.ctx.seq.fetch + 4 ∧
          (∀ e : Engine, t.queue e = if e ∈ busy then s.queue e ++ [.phase s.ctx.seq.nextMeet s.ctx.seq.fetch] else s.queue e) ∧
          t.ctx.seq.phases = s.ctx.seq.phases ++ [{ n := s.ctx.seq.nextMeet, mask := mask &&& 0x3E, pending := maskOf busy }] ∧
          t.ctx.seq.nextMeet = s.ctx.seq.nextMeet + 1 ∧
          t.ctx.seq.wait = (if mask.getLsbD 0 then .phase s.ctx.seq.nextMeet else s.ctx.seq.wait) ∧
          t.ctx.acc = s.ctx.acc ∧ t.ctx.vec = s.ctx.vec ∧ t.ctx.seq.k = s.ctx.seq.k ∧ t.ctx.pad = s.ctx.pad ∧ t.mem = s.mem))

/-- R38, R140, R144, R151: WAIT, END, HALT, RFT and CTXSEL take effect where the conditions of their entries hold:
the slots are armed, no handler runs, the engines have retired their words and the landings are written, the
privilege is supervisor's, the bank is powered and holds a resident context, which may have halted. R151, R379: YIELD goes on at the next word
where no other resident context is ready, and else switches to the ready one of the highest priority. -/
def Obligations.SchedulingInstructionsComplete : Prop :=
  ∀ (s : State) (all : BitVec 1) (mask : BitVec 4) (exp : BitVec 5) (mant : BitVec 16) (skip : BitVec 1) (n : BitVec 2),
    (s.runsSeq (.wait all mask exp mant) → s.tlarmQueued = false →
      (∀ i < 4, mask.getLsbD i = true → s.ctx.seq.slots.get .unarmed i ≠ .unarmed) →
      exec (.wait all mask exp mant) s = .next { s with
        ctx.seq.wait := .waiting (s.gts / 10) (all == 1) mask exp.toNat mant.toNat, ctx.blockedAt := some s.gts }) ∧
    (s.runsSeq .jobEnd → s.ctx.seq.intrap = false →
      exec .jobEnd s = .next { s with ctx.seq.wait := .ending 1 }) ∧
    (s.runsSeq .halt → s.ctx.seq.sup = true → s.drained = true → s.ctx.vec.slots = [] →
      exec .halt s = .next ((s.advance 1).endJob .halted .halted) ∧
      ((s.advance 1).endJob .halted .halted).ctx.status = .halted) ∧
    (s.runsSeq (.rft skip) → s.ctx.seq.sup = true → s.ctx.seq.intrap = true → s.drained = true → s.ctx.vec.slots = [] →
      exec (.rft skip) s = .next (s.returnFromTrap (skip == 1))) ∧
    (s.runsSeq (.ctxsel n) → s.ctx.seq.sup = true → 4 * s.cur.core + n.toNat = s.cur →
      exec (.ctxsel n) s = .next (s.advance 1)) ∧
    (s.runsSeq (.ctxsel n) → s.ctx.seq.sup = true → 4 * s.cur.core + n.toNat ≠ s.cur →
      s.bankOff.get false (4 * s.cur.core + n.toNat) = false → s.bankWaking.get false (4 * s.cur.core + n.toNat) = false →
      (s.bankCtx (4 * s.cur.core + n.toNat)).resident = true → s.landingsSettled = true →
      exec (.ctxsel n) s = .next ((s.advance 1).switchTo (4 * s.cur.core + n.toNat))) ∧
    (s.runsSeq .yield → s.highest (s.others s.cur) = none → exec .yield s = .next (s.advance 1)) ∧
    (∀ k, s.runsSeq .yield → s.highest (s.others s.cur) = some k → s.landingsSettled = true →
      exec .yield s = .next ((s.advance 1).switchTo k) ∧ ((s.advance 1).switchTo k).cur = k) ∧
    (∀ k, s.runsSeq .yield → s.highest (s.others s.cur) = some k → s.landingsSettled = false → exec .yield s = .next s.stall)

/-- R148, R149, R75: CSRR and TSTAMP deliver to x[d] in ACC's order what the register, or the GTS, held at fetch: at
once where ACC is idle and no load is still to write x[d], else behind the words in its queue. Reading a semaphore takes
it. CSRW waits for ACC, and writes the value that its function makes of x[d]; it completes for every value that the
register's entry does not forbid, and leaves the registers of ACC and VEC as they are. A level that may not access the register raises PRIV. R124, R148
(Tables 3 to 6 of chapter 4), R51, R52, R76, R142: what CSRW leaves in the registers of the context range that have
fields marked RW, at a level that may write them: the fields take the value, the reserved ones stay zero; a register
without such a field keeps its value. -/
def Obligations.SystemRegisterInstructionsComplete : Prop :=
  ∀ (s : State) (d : BitVec 5) (r : BitVec 12) (f : BitVec 3),
    (s.runsSeq (.csrr d r f) → (s.ctx.seq.sup || taskMayRead r.toNat) = true → s.idleEngine .acc = true →
      s.xBusy d = false → semOf r.toNat = none →
      exec (.csrr d r f) s = .next ((s.advance 1).setX d (s.peekCsr r.toNat))) ∧
    (∀ i, s.runsSeq (.csrr d r f) → s.ctx.seq.sup = true → s.idleEngine .acc = true →
      s.xBusy d = false → semOf r.toNat = some i →
      exec (.csrr d r f) s = .next (((s.takeSem i .device).advance 1).setX d (s.sem i))) ∧
    (s.runsSeq (.csrr d r f) → (s.ctx.seq.sup || taskMayRead r.toNat) = true → s.idleEngine .acc = false →
      s.room .acc 1 = true → semOf r.toNat = none →
      exec (.csrr d r f) s = .next ((s.advance 1).enqueue .acc (.deliver d (s.peekCsr r.toNat) s.ctx.seq.fetch))) ∧
    (s.runsSeq (.csrr d r f) → (s.ctx.seq.sup || taskMayRead r.toNat) = false →
      exec (.csrr d r f) s = .next (s.takeTrap .seq s.ctx.seq.fetch 1 { cause := .priv })) ∧
    (s.runsSeq (.tstamp d) → s.idleEngine .acc = true → s.xBusy d = false →
      exec (.tstamp d) s = .next ((s.advance 1).setX d (BitVec.ofNat 64 s.gts))) ∧
    ((s.idleEngine .acc = true ∧ s.xBusy d = false) ∨ s.room .acc 1 = true →
      let now := s.idleEngine .acc && !s.xBusy d
      (s.runsSeq (.csrr d r f) → (s.ctx.seq.sup || taskMayRead r.toNat) = true →
        let u := match semOf r.toNat with
          | some i => s.takeSem i .device
          | none => s
        exec (.csrr d r f) s = .next (if now then (u.advance 1).setX d (s.peekCsr r.toNat)
          else (u.advance 1).enqueue .acc (.deliver d (s.peekCsr r.toNat) s.ctx.seq.fetch))) ∧
      (s.runsSeq (.tstamp d) → exec (.tstamp d) s = .next (if now then (s.advance 1).setX d (BitVec.ofNat 64 s.gts)
        else (s.advance 1).enqueue .acc (.deliver d (BitVec.ofNat 64 s.gts) s.ctx.seq.fetch)))) ∧
    (s.runsSeq (.csrw d r f) → (s.ctx.seq.sup || taskMayWrite r.toNat) = true → s.queue .acc = [] →
      s.xBusy d = false → s.csrTakes r.toNat (csrValue f.toNat (s.peekCsr r.toNat) (s.x d)) →
      ∃ t : State, exec (.csrw d r f) s = .next t ∧ t.ctx.seq.fetch = s.ctx.seq.fetch + 4 ∧
        t.ctx.acc = s.ctx.acc ∧ t.ctx.vec = s.ctx.vec) ∧
    (∀ t, s.runsSeq (.csrw d r f) → (s.ctx.seq.sup || taskMayWrite r.toNat) = true → s.queue .acc = [] →
      s.xBusy d = false → writeCsr r.toNat (csrValue f.toNat (s.peekCsr r.toNat) (s.x d)) s = .ok () t →
      exec (.csrw d r f) s = .next (t.advance 1)) ∧
    (s.runsSeq (.csrw d r f) → (s.ctx.seq.sup || taskMayWrite r.toNat) = false →
      exec (.csrw d r f) s = .next (s.takeTrap .seq s.ctx.seq.fetch 1 { cause := .priv })) ∧
    (s.ctx.seq.sup = true → s.queue .acc = [] → s.xBusy d = false →
      (s.runsSeq (.csrw d 0x001 0) → exec (.csrw d 0x001 0) s =
        .next ({ s with ctx.seq.tvec := s.x d &&& 0x0000FFFFFFFFFFFD }.advance 1)) ∧
      (s.runsSeq (.csrw d 0x001 1) → exec (.csrw d 0x001 1) s =
        .next ({ s with ctx.seq.tvec := (s.ctx.seq.tvec ||| s.x d) &&& 0x0000FFFFFFFFFFFD }.advance 1)) ∧
      (s.runsSeq (.csrw d 0x001 2) → exec (.csrw d 0x001 2) s =
        .next ({ s with ctx.seq.tvec := (s.ctx.seq.tvec &&& ~~~(s.x d)) &&& 0x0000FFFFFFFFFFFD }.advance 1)) ∧
      (s.runsSeq (.csrw d 0x002 0) → exec (.csrw d 0x002 0) s = .next ({ s with ctx.seq.tscr := s.x d }.advance 1)) ∧
      (s.runsSeq (.csrw d 0x012 0) → exec (.csrw d 0x012 0) s = .next ({ s with ctx.seq.freezeCyc := s.x d }.advance 1)) ∧
      (s.runsSeq (.csrw d 0x018 0) → exec (.csrw d 0x018 0) s = .next ((s.setLc 0 ((s.x d).setWidth 27)).advance 1)) ∧
      (s.runsSeq (.csrw d 0x01B 0) → exec (.csrw d 0x01B 0) s = .next ((s.setLc 3 ((s.x d).setWidth 27)).advance 1)) ∧
      (s.runsSeq (.csrw d 0x030 0) → exec (.csrw d 0x030 0) s =
        .next ({ s with ctx.seq.trap.epc := s.ctx.seq.trap.epc.set 0 0 (s.x d &&& 0x0000FFFFFFFFFFFC) }.advance 1)) ∧
      (s.runsSeq (.csrw d 0x100 0) → exec (.csrw d 0x100 0) s = .next ({ s with ctx.pcsel := (s.x d).setWidth 7 }.advance 1)) ∧
      (∀ r ∈ [0x000#12, 0x003#12, 0x011#12, 0x014#12, 0x020#12, 0x021#12, 0x022#12, 0x023#12, 0x024#12, 0x028#12, 0x02B#12,
          0x031#12, 0x035#12], s.runsSeq (.csrw d r 0) → exec (.csrw d r 0) s = .next (s.advance 1)))

/-- R21, R22, R150: QCFG, once every engine has retired its words, binds or frees an empty queue; a queue that is not empty
raises QUEUE_PROTOCOL and keeps its binding. -/
def Obligations.QueueBindingNeedsAnEmptyQueue : Prop :=
  ∀ (s : State) (d a b : BitVec 5), s.drained = true →
    (∀ p c, s.runsSeq (.qcfg d a b 0) → d ≠ 8 → Engine.ofCode a.toNat = some p → Engine.ofCode b.toNat = some c →
      (s.dataQ d.toNat).entries = [] → (s.dataQ d.toNat).reserved = [] →
      exec (.qcfg d a b 0) s = .next ((s.advance 1).setDataQ d.toNat { s.dataQ d.toNat with bind := some (p, c) })) ∧
    (s.runsSeq (.qcfg d 0 0 1) → d ≠ 8 → (s.dataQ d.toNat).entries = [] → (s.dataQ d.toNat).reserved = [] →
      exec (.qcfg d 0 0 1) s = .next ((s.advance 1).setDataQ d.toNat { s.dataQ d.toNat with bind := none })) ∧
    (s.runsSeq (.qcfg 8 a 0 0) → s.ctx.bq.bits = [] →
      exec (.qcfg 8 a 0 0) s = .next { s.advance 1 with ctx.bq.producer := Engine.ofCode a.toNat }) ∧
    (s.runsSeq (.qcfg 8 0 0 1) → s.ctx.bq.bits = [] →
      exec (.qcfg 8 0 0 1) s = .next { s.advance 1 with ctx.bq.producer := none }) ∧
    (∀ f, s.runsSeq (.qcfg d a b f) → d ≠ 8 → (s.dataQ d.toNat).entries ≠ [] →
      exec (.qcfg d a b f) s = .next (s.takeTrap .seq s.ctx.seq.fetch 1 { cause := .queueProtocol })) ∧
    (∀ f, s.runsSeq (.qcfg 8 a b f) → s.ctx.bq.bits ≠ [] →
      exec (.qcfg 8 a b f) s = .next (s.takeTrap .seq s.ctx.seq.fetch 1 { cause := .queueProtocol }))

/-- R388 to R391: SPAWN and GLAUNCH read a record of 256 bytes, submit it to the own launch's queue, and deliver its ticket;
TJOIN of a launch that has completed gives its status, latches its counters, frees the ticket and drops the core's L1, a poll
of one that has not gives 0xFF; RUSTAT delivers a counter; RUINV removes the entries that its form names. -/
def Obligations.LaunchInstructionsComplete : Prop :=
  ∀ (s : State) (d a : BitVec 5), s.queue .acc = [] → s.idleEngine .acc = true → s.xBusy d = false → s.xBusy a = false →
    (∀ graph b slot, s.ctx.job.task = false → s.cBusy a.toNat = false →
      s.runsSeq (if graph = true then Instr.glaunch d a else .spawn d a) →
      s.capCheck (s.c a.toNat) 0 256 [tyData] (rightsOf [rR]) = none → capOffset (s.c a.toNat) 0 % 64 = 0 →
      s.wackCount = 0 → s.readDirect (s.c a.toNat) (capOffset (s.c a.toNat) 0) 256 = .bytes b →
      (if graph = true then (parseRec b).type = 2 else (parseRec b).type < 2) →
      (parseRec b).code.asid = s.ctx.job.code.asid → ((parseRec b).sup = false ∨ s.ctx.seq.sup = true) →
      s.freeTicket = some slot → s.spawnedCount < 256 →
      exec (if graph = true then Instr.glaunch d a else .spawn d a) s = .next ((((s.addLaunch s.ownQueue (some s.ctx.job.uid) b).modCtx
        fun x => { x with
          units.tickets := x.units.tickets.set none slot
            (some (s.units.nextLaunch, BitVec.ofNat 64 (slot + 256 * (s.ctx.units.taken + 1))))
          units.taken := s.ctx.units.taken + 1 }).advance 1).setX d (BitVec.ofNat 64 (slot + 256 * (s.ctx.units.taken + 1))))) ∧
    (∀ poll slot n l st, s.runsSeq (.tjoin d a poll) → s.ctx.job.task = false → s.ticketOf (s.x a) = some (slot, n) →
      s.launchOf n = some l → l.result = some st →
      ∃ t : State, exec (.tjoin d a poll) s = .next (t.setX d st) ∧ t.ctx.seq.fetch = s.ctx.seq.fetch + 4 ∧
        t.ctx.units.tickets.get none slot = none ∧ t.ctx.units.joined = l.counters ∧ t.launchOf n = none ∧
        t.l1.get [] s.cur.core = [] ∧ t.mem = s.mem) ∧
    (∀ slot n l, s.runsSeq (.tjoin d a 1) → s.ctx.job.task = false → s.ticketOf (s.x a) = some (slot, n) →
      s.launchOf n = some l → l.result = none → exec (.tjoin d a 1) s = .next ((s.advance 1).setX d 0xFF)) ∧
    (∀ f t, s.runsSeq (.rustat d a f) → s.statCounters a (s.x a) = some t →
      exec (.rustat d a f) s = .next ((s.advance 1).setX d (t.get 0 f.toNat))) ∧
    (∀ f, s.runsSeq (.ruinv a f) → s.ctx.job.task = false → invBad f.toNat (s.x a) = false →
      ((List.range 4).all fun k => !(s.bushelOf k).any fun e =>
        invNames s.ctx.job.code.asid.toNat f.toNat (s.x a) e && s.tagBusy k e.tag) = true →
      ∃ t : State, exec (.ruinv a f) s = .next t ∧ t.ctx.seq.fetch = s.ctx.seq.fetch + 4 ∧ ∀ k < 4,
        t.bushelOf k = (s.bushelOf k).filter fun e => !invNames s.ctx.job.code.asid.toNat f.toNat (s.x a) e)

/-! ## Traps -/

/-- R143, R142, R73: TRAP raises cause 0x10 with its immediate as TINFO, charged to SEQ; with the vector enabled and no
handler running, the record holds the cause, the engine and the length 1, EPC_SEQ holds the address of the TRAP, and the
handler begins at TVEC.OFF at supervisor level with empty queues and stacks, the trapped state parked. -/
def Obligations.TrapInstructionEntersTheHandler : Prop :=
  ∀ (s : State) (imm : BitVec 10), s.runsSeq (.trap imm) → s.landingsSettled = true → s.ctx.seq.intrap = false →
    s.ctx.seq.tvec.getLsbD 0 = true →
    ∃ t : State, exec (.trap imm) s = .next t ∧
      t.ctx.seq.trap.tcause = 0x10010 ∧ t.ctx.seq.trap.tinfo = imm.setWidth 64 ∧
      t.ctx.seq.trap.taddr = BitVec.ofNat 64 s.ctx.seq.fetch ∧ t.ctx.seq.trap.tgts = BitVec.ofNat 64 s.gts ∧
      t.ctx.seq.trap.tcap = Cap.null ∧ t.ctx.seq.trap.toff = 0 ∧
      t.ctx.seq.trap.epc.get 0 0 = BitVec.ofNat 64 s.ctx.seq.fetch ∧
      t.ctx.seq.psup = s.ctx.seq.sup ∧ t.ctx.seq.sup = true ∧ t.ctx.seq.intrap = true ∧
      t.ctx.seq.fetch = (s.ctx.seq.tvec &&& 0x0000FFFFFFFFFFFC).toNat ∧
      t.ctx.iq = [] ∧ t.ctx.seq.loops = [] ∧ t.ctx.seq.links = [] ∧ t.ctx.vec.slots = [] ∧
      (∃ p, t.ctx.parked = some p ∧ p.iq = s.ctx.iq ∧ p.loops = s.ctx.seq.loops ∧ p.links = s.ctx.seq.links ∧
        p.landings = s.ctx.vec.slots ∧ p.fetch = s.ctx.seq.fetch) ∧
      t.ctx.acc.x = s.ctx.acc.x ∧ t.ctx.acc.c = s.ctx.acc.c ∧ t.ctx.seq.k = s.ctx.seq.k ∧ t.ctx.dq = s.ctx.dq ∧
      t.mem = s.mem ∧ t.ctx.pad = s.ctx.pad

/-- R142 for every engine: a fault of an instruction whose first word is at `addr` writes a record that names it, saves the
six EPCs, and enters the handler; where a handler runs already (a double trap, TCAUSE.DBL) or the vector is off, the job is
terminated instead. -/
def Obligations.TakingATrapWritesTheRecord : Prop :=
  ∀ (s : State) (e : Engine) (addr len : Nat) (i : TrapInfo), s.landingsSettled = true → s.ctx.seq.pfx = none →
    ¬ (s.ctx.job.task = true ∧ i.cause = .pageNonresident) → i.cause ≠ .commitOverflow →
    let t := s.takeTrap e addr len i
    t.ctx.seq.trap.tcause = tcauseOf i.cause e i.noskip s.ctx.seq.intrap len ∧
    t.ctx.seq.trap.tinfo = BitVec.ofNat 64 i.tinfo ∧ t.ctx.seq.trap.toff = BitVec.ofNat 64 i.toff ∧
    t.ctx.seq.trap.tcap = i.cap ∧ t.ctx.seq.trap.taddr = BitVec.ofNat 64 (i.taddr.getD addr) ∧
    (∀ g, t.ctx.seq.trap.epc.get 0 g.code = BitVec.ofNat 64 (s.epc g)) ∧
    (s.ctx.seq.intrap = false → s.vectored = true →
      t.ctx.seq.intrap = true ∧ t.ctx.seq.sup = true ∧ t.ctx.seq.psup = s.ctx.seq.sup ∧ t.ctx.seq.fetch = s.vector ∧
      t.ctx.status = s.ctx.status) ∧
    ((s.ctx.seq.intrap = true ∨ s.vectored = false) → t.ctx.status = .terminated ∧ t.ctx.iq = []) ∧
    t.mem = s.mem ∧ t.ctx.acc.x = s.ctx.acc.x ∧ t.ctx.acc.c = s.ctx.acc.c

/-- R144, R145, R20: RFT gives back what the trap parked, the privilege and the fetch point in EPC_SEQ; so a trap and an RFT
without skip leave the queues, the stacks, the landings, the privilege and the fetch point as they were. RFT.skip removes
the head of the faulting engine's queue, or moves fetch behind a faulting word of SEQ. -/
def Obligations.ReturnFromTrapRestoresTheContext : Prop :=
  ∀ (s : State) (e : Engine) (addr len : Nat) (i : TrapInfo), s.landingsSettled = true → s.ctx.seq.pfx = none →
    ¬ (s.ctx.job.task = true ∧ i.cause = .pageNonresident) → i.cause ≠ .commitOverflow →
    s.ctx.seq.intrap = false → s.vectored = true → s.ctx.seq.fetch < 2 ^ 64 →
    let t := s.takeTrap e addr len i
    ((t.returnFromTrap false).ctx.iq = s.ctx.iq ∧ (t.returnFromTrap false).ctx.seq.loops = s.ctx.seq.loops ∧
      (t.returnFromTrap false).ctx.seq.links = s.ctx.seq.links ∧ (t.returnFromTrap false).ctx.vec.slots = s.ctx.vec.slots ∧
      (t.returnFromTrap false).ctx.hold = s.ctx.hold ∧
      (t.returnFromTrap false).ctx.seq.fetch = s.ctx.seq.fetch ∧ (t.returnFromTrap false).ctx.seq.sup = s.ctx.seq.sup ∧
      (t.returnFromTrap false).ctx.seq.intrap = false ∧ (t.returnFromTrap false).ctx.parked = none) ∧
    (e ≠ .seq → i.noskip = false → len < 8 → (t.returnFromTrap true).queue e = (s.queue e).tail ∧
      (t.returnFromTrap true).ctx.seq.fetch = s.ctx.seq.fetch) ∧
    (e = .seq → i.noskip = false → 0 < len → len < 8 →
      (t.returnFromTrap true).ctx.seq.fetch = s.ctx.seq.fetch + 4 * len ∧ (t.returnFromTrap true).ctx.iq = s.ctx.iq)

/-- R147: a privileged instruction at task level raises PRIV before it has any effect: HALT, RFT and CTXSEL at once, SCRUB,
MIGR, SPILL and FILL at the head of ACC's queue. -/
def Obligations.PrivilegedInstructionsTrapAtTaskLevel : Prop :=
  ∀ (s : State) (d a b : BitVec 5) (n : BitVec 2) (k : BitVec 1) (m : BitVec 3 × BitVec 2 × Bool), s.ctx.seq.sup = false →
    (s.runsSeq .halt → exec .halt s = .next (s.takeTrap .seq s.ctx.seq.fetch 1 { cause := .priv })) ∧
    (s.runsSeq (.rft k) → exec (.rft k) s = .next (s.takeTrap .seq s.ctx.seq.fetch 1 { cause := .priv })) ∧
    (s.runsSeq (.ctxsel n) → exec (.ctxsel n) s = .next (s.takeTrap .seq s.ctx.seq.fetch 1 { cause := .priv })) ∧
    (∀ i ∈ [Instr.scrub d a b, .migr a b, .spill a b, .fill a b], s.takes .acc i m → m.2.2 = true →
      ∃ it : Item, it.addr = s.fetchPoint ∧
        exec i s = .next ((((s.advance 1).enqueue .acc it).rewindHold .acc).takeTrap .acc s.fetchPoint it.len { cause := .priv }))

/-- R66, R62, R15, R72: an instruction of an engine whose own fields rule it out becomes a fault marker of its cause in the
engine's queue, behind the words that stand there; SEQ raises the cause at once. -/
def Obligations.IllFormedInstructionsTrap : Prop :=
  ∀ (s : State) (c : Cause),
    (∀ (d a b f : BitVec 5) (imm : BitVec 10), s.ctx.seq.pfx = none →
      (∀ i ∈ [Instr.pset d a b f, .plog d a b f, .ppop ⟨d, f⟩, .snq d f, .kld d a imm, .qcfg d a b f, .loopq d imm],
        wordFault i = some c → exec i s = .next (s.takeTrap .seq s.ctx.seq.fetch 1 { cause := c })) ∧
      (∀ i ∈ [Instr.add d a b f, .sub d a b f, .cmp d a b f, .cget d a f, .cadd d a b f, .sstat d a f, .movq d a, .popq d a],
        wordFault i = some c → s.queue .acc ≠ [] → s.room .acc 1 = true →
        exec i s = .next ((s.advance 1).enqueue .acc (.marker c s.ctx.seq.fetch 1)))) ∧
    (∀ (e : Engine) (a n : Nat) (r : List Item), s.operand.eng = e → s.queue e = .marker c a n :: r →
      s.heldBy e = false → s.runs = true → exec .faultMarker s = .next ((s.rewindHold e).takeTrap e a 1 { cause := c }))

/-! ## The access engine: integers and capabilities -/

/-- R169, R170: the three-register operations of ACC. ADD, SUB and MUL write the exact result modulo 2^64, or clamped to the
signed (f = 0) or unsigned (f = 1) range under a prefix that saturates; MULH writes bits 127 to 64 of the exact product. -/
def Obligations.AccArithmeticWritesItsResult : Prop :=
  ∀ (s : State) (d a b f : BitVec 5) (r : BitVec 3) (t : BitVec 2), s.xFree [d, a, b] →
    let int := fun (v : DWord) => if f = 0 then v.toInt else (v.toNat : Int)
    let fit := fun (v : Int) =>
      if t = 1 then BitVec.ofInt 64 (if f = 0 then max (-2 ^ 63) (min v (2 ^ 63 - 1)) else max 0 (min v (2 ^ 64 - 1)))
      else BitVec.ofInt 64 v
    (s.takes .acc (.add d a b f) (r, t, true) →
      exec (.add d a b f) s = .next ((s.advance 1).setX d (fit (int (s.x a) + int (s.x b))))) ∧
    (s.takes .acc (.sub d a b f) (r, t, true) →
      exec (.sub d a b f) s = .next ((s.advance 1).setX d (fit (int (s.x a) - int (s.x b))))) ∧
    (s.takes .acc (.mul d a b f) (r, t, true) →
      exec (.mul d a b f) s = .next ((s.advance 1).setX d (fit (int (s.x a) * int (s.x b))))) ∧
    (s.takes .acc (.mulh d a b f) (r, t, true) →
      exec (.mulh d a b f) s = .next ((s.advance 1).setX d (BitVec.ofInt 64
        ((if f = 1 then ((s.x a).toNat : Int) else (s.x a).toInt) * (if f = 0 then (s.x b).toInt else (s.x b).toNat)
          / 2 ^ 64)))) ∧
    (s.takes .acc (.add d a b 0) (r, 0, true) →
      exec (.add d a b 0) s = .next ((s.advance 1).setX d (s.x a + s.x b)))

/-- R169: the logical operations and the shifts of ACC; a shift count is the low six bits of x[b]. R169, R171, R172:
the one-register operations and the immediates of ACC. ADDI and ANDI sign-extend the immediate, ORI does not; LI
sign-extends 37 bits; LIH replaces bits 63 to 37; CLZ and POPC count. -/
def Obligations.AccLogicAndImmediatesWriteTheirResult : Prop :=
  (∀ (s : State) (d a b f : BitVec 5) (m : BitVec 3 × BitVec 2 × Bool), s.xFree [d, a, b] → m.2.2 = true →
      (s.takes .acc (.and d a b f) m → exec (.and d a b f) s = .next ((s.advance 1).setX d (s.x a &&& s.x b))) ∧
      (s.takes .acc (.or d a b f) m → exec (.or d a b f) s = .next ((s.advance 1).setX d (s.x a ||| s.x b))) ∧
      (s.takes .acc (.xor d a b f) m → exec (.xor d a b f) s = .next ((s.advance 1).setX d (s.x a ^^^ s.x b))) ∧
      (s.takes .acc (.shl d a b f) m →
        exec (.shl d a b f) s = .next ((s.advance 1).setX d (s.x a <<< ((s.x b).extractLsb' 0 6).toNat))) ∧
      (s.takes .acc (.shr d a b f) m →
        exec (.shr d a b f) s = .next ((s.advance 1).setX d (s.x a >>> ((s.x b).extractLsb' 0 6).toNat))) ∧
      (s.takes .acc (.sra d a b f) m →
        exec (.sra d a b f) s = .next ((s.advance 1).setX d ((s.x a).sshiftRight ((s.x b).extractLsb' 0 6).toNat))) ∧
      (s.takes .acc (.min d a b f) m → exec (.min d a b f) s = .next ((s.advance 1).setX d
        (if (if f = 0 then (s.x a).slt (s.x b) else (s.x a).ult (s.x b)) then s.x a else s.x b))) ∧
      (s.takes .acc (.max d a b f) m → exec (.max d a b f) s = .next ((s.advance 1).setX d
        (if (if f = 0 then (s.x a).slt (s.x b) else (s.x a).ult (s.x b)) then s.x b else s.x a)))) ∧
  (∀ (s : State) (d a f : BitVec 5) (imm : BitVec 10) (n : BitVec 6) (u : BitVec 27) (r : BitVec 3) (t : BitVec 2),
      s.xFree [d, a] →
      (s.takes .acc (.addi d a imm) (r, t, true) → exec (.addi d a imm) s = .next ((s.advance 1).setX d
        (if t = 1 then BitVec.ofInt 64 (max (-2 ^ 63) (min ((s.x a).toInt + imm.toInt) (2 ^ 63 - 1)))
          else s.x a + imm.signExtend 64))) ∧
      (s.takes .acc (.andi d a imm) (r, t, true) →
        exec (.andi d a imm) s = .next ((s.advance 1).setX d (s.x a &&& imm.signExtend 64))) ∧
      (s.takes .acc (.ori d a imm) (r, t, true) →
        exec (.ori d a imm) s = .next ((s.advance 1).setX d (s.x a ||| imm.setWidth 64))) ∧
      (s.takes .acc (.shli d a n) (r, t, true) → exec (.shli d a n) s = .next ((s.advance 1).setX d (s.x a <<< n.toNat))) ∧
      (s.takes .acc (.shri d a n) (r, t, true) → exec (.shri d a n) s = .next ((s.advance 1).setX d (s.x a >>> n.toNat))) ∧
      (s.takes .acc (.li d imm u) (r, t, true) →
        exec (.li d imm u) s = .next ((s.advance 2).setX d ((imm ++ u).signExtend 64))) ∧
      (s.takes .acc (.lih d u) (r, t, true) →
        exec (.lih d u) s = .next ((s.advance 2).setX d (u ++ (s.x d).extractLsb' 0 37))) ∧
      (s.takes .acc (.clz d a f) (r, t, true) → exec (.clz d a f) s = .next ((s.advance 1).setX d
        (if s.x a = 0 then 64 else BitVec.ofNat 64 (63 - (s.x a).toNat.log2)))) ∧
      (s.takes .acc (.popc d a f) (r, t, true) → exec (.popc d a f) s = .next ((s.advance 1).setX d
        (BitVec.ofNat 64 ((List.range 64).countP fun i => (s.x a).getLsbD i)))))

/-- R173, R174, R175: CMP writes 1 or 0, CMPB pushes the condition to bq, MOVQ pushes x[a] and POPQ pops into x[d], DIVU and
REMU write quotient and remainder, and divide by zero raises DIVIDE_BY_ZERO before writing. -/
def Obligations.AccComparisonsQueuesAndDivision : Prop :=
  ∀ (s : State) (d a b f : BitVec 5) (m : BitVec 3 × BitVec 2 × Bool), s.xFree [d, a, b] → m.2.2 = true →
    let cond :=
      if f = 0 then s.x a == s.x b else if f = 1 then s.x a != s.x b
      else if f = 2 then (s.x a).slt (s.x b) else if f = 3 then !(s.x a).slt (s.x b)
      else if f = 4 then (s.x a).ult (s.x b) else !(s.x a).ult (s.x b)
    (s.takes .acc (.cmp d a b f) m →
      exec (.cmp d a b f) s = .next ((s.advance 1).setX d (if cond then 1 else 0))) ∧
    (s.takes .acc (.cmpb a b f) m → s.ctx.bq.producer = some .acc → s.ctx.bq.bits.length < 16 →
      exec (.cmpb a b f) s = .next { s.advance 1 with ctx.bq.bits := s.ctx.bq.bits ++ [cond] }) ∧
    (∀ e, s.takes .acc (.movq d a) m → (s.dataQ d.toNat).bind = some (.acc, e) → (s.dataQ d.toNat).hasRoom = true →
      exec (.movq d a) s =
        .next ((s.advance 1).setDataQ d.toNat ((s.dataQ d.toNat).put (natToBytes 8 (s.x a).toNat)))) ∧
    (∀ e v r, s.takes .acc (.popq d a) m → (s.dataQ a.toNat).bind = some (e, .acc) → (s.dataQ a.toNat).entries = v :: r →
      exec (.popq d a) s = .next (((s.advance 1).setDataQ a.toNat { s.dataQ a.toNat with entries := r }).setX d
        (BitVec.ofNat 64 (bytesToNat (v.take 8))))) ∧
    (s.takes .acc (.divu d a b) m → s.x b ≠ 0 →
      exec (.divu d a b) s = .next ((s.advance 1).setX d (s.x a / s.x b))) ∧
    (s.takes .acc (.remu d a b) m → s.x b ≠ 0 →
      exec (.remu d a b) s = .next ((s.advance 1).setX d (s.x a % s.x b))) ∧
    (∀ i ∈ [Instr.divu d a b, .remu d a b], s.takes .acc i m → s.x b = 0 →
      ∃ it : Item, it.addr = s.fetchPoint ∧ exec i s = .next ((((s.advance 1).enqueue .acc it).rewindHold .acc).takeTrap .acc
        s.fetchPoint it.len { cause := .divideByZero, tinfo := (s.x a).toNat }))

/-- R169 to R173, R74: what an integer instruction of ACC that runs leaves unchanged: every x register but its destination,
x0 (which reads 0 and is not written), every other register of the context, all of memory and of the scratchpad. -/
def Obligations.AccIntegerInstructionsFrame : Prop :=
  ∀ (s t : State) (d a b f : BitVec 5) (imm : BitVec 10) (m : BitVec 3 × BitVec 2 × Bool), s.xFree [d, a, b] → m.2.2 = true →
    ∀ i ∈ [Instr.add d a b f, .sub d a b f, .mul d a b f, .mulh d a b f, .and d a b f, .or d a b f, .xor d a b f,
        .shl d a b f, .shr d a b f, .sra d a b f, .min d a b f, .max d a b f, .addi d a imm, .andi d a imm, .ori d a imm,
        .cmp d a b f, .clz d a f, .popc d a f],
      s.takes .acc i m → exec i s = .next t →
      (∀ k, k ≠ d → t.x k = s.x k) ∧ t.x 0 = 0 ∧ t.ctx.acc.c = s.ctx.acc.c ∧ t.ctx.acc.s = s.ctx.acc.s ∧
      t.ctx.seq.p = s.ctx.seq.p ∧ t.ctx.seq.k = s.ctx.seq.k ∧ t.ctx.seq.lc = s.ctx.seq.lc ∧ t.ctx.seq.trap = s.ctx.seq.trap ∧
      t.ctx.seq.sup = s.ctx.seq.sup ∧ t.ctx.dq = s.ctx.dq ∧ t.ctx.bq = s.ctx.bq ∧ t.ctx.vec = s.ctx.vec ∧ t.ctx.mat = s.ctx.mat ∧
      t.ctx.idx = s.ctx.idx ∧ t.ctx.qnt = s.ctx.qnt ∧ t.ctx.pad = s.ctx.pad ∧ t.mem = s.mem ∧ t.banks = s.banks ∧
      ∃ v, t = (s.advance 1).setX d v

/-- R176 to R180: the capability instructions. CMOV copies; CNARROW narrows the bounds to x[b] bytes from the cursor, where
they lie within the old ones; CRIGHTS only takes rights away; CADD moves the cursor; CGET reads a field. Writing a
capability register empties the translations of its access queue (R165). -/
def Obligations.CapabilityInstructionsComplete : Prop :=
  ∀ (s : State) (d a b f : BitVec 5) (m : BitVec 3 × BitVec 2 × Bool), s.xFree [d, b] → s.cFree [d, a] → m.2.2 = true →
    let c := s.c a.toNat
    (s.takes .acc (.cmov d a) m → exec (.cmov d a) s = .next ((s.advance 1).setC d.toNat c)) ∧
    (s.takes .acc (.cnarrow d a b) m → c.type.toNat < 7 → c.asid = s.ctx.job.code.asid → c.lower.toNat ≤ c.cursor.toNat →
      c.cursor.toNat + (s.x b).toNat ≤ c.upper.toNat →
      exec (.cnarrow d a b) s = .next ((s.advance 1).setC d.toNat
        { c with lower := c.cursor.setWidth 48, upper := (c.cursor + s.x b).setWidth 48 })) ∧
    (s.takes .acc (.crights d a b) m →
      exec (.crights d a b) s = .next ((s.advance 1).setC d.toNat { c with rights := c.rights &&& (s.x b).setWidth 8 })) ∧
    (s.takes .acc (.cadd d a b f) m → exec (.cadd d a b f) s =
      .next ((s.advance 1).setC d.toNat { c with cursor := if f = 0 then c.cursor + s.x b else s.x b })) ∧
    (s.takes .acc (.cget d a f) m → exec (.cget d a f) s = .next ((s.advance 1).setX d (
      if f = 0 then c.cursor else if f = 1 then c.lower.setWidth 64 else if f = 2 then c.upper.setWidth 64
      else if f = 3 then c.rights.setWidth 64 else if f = 4 then c.obj.setWidth 64 else if f = 5 then c.asid.setWidth 64
      else if f = 6 then c.type.setWidth 64 else BitVec.ofNat 64 (c.upper.toNat - c.lower.toNat)))) ∧
    (∀ v, ((s.setC d.toNat v).ctx.acc.aq.get {} d.toNat).cur = none ∧ ((s.setC d.toNat v).ctx.acc.aq.get {} d.toNat).next = none)

/-! ## The access engine: loads, stores and streams -/

/-- R183, R182: LDS and STS access the own scratchpad at x[a] plus the displacement, formed exactly, in 1, 2, 4 or 8 bytes,
little-endian, LDS with or without sign extension; no bytes but those of the store change. LDS is a load, and starts where
fewer than 32 are outstanding (R153). -/
def Obligations.ScratchpadLoadsAndStores : Prop :=
  ∀ (s : State) (d a b : BitVec 5) (im sx : BitVec 1) (size : BitVec 2) (m : BitVec 3 × BitVec 2 × Bool),
    s.xFree [d, a, b] → m.2.2 = true →
    let n := 2 ^ size.toNat
    let o := (s.x a).toNat + (if im = 1 then ((b.toNat * n : Nat) : Int) else (s.x b).toInt)
    0 ≤ o → o + n ≤ 0x180000 → s.padReady o.toNat n →
    (s.takes .acc (.lds d a b im sx size) m → s.ctx.acc.loads.length < 32 → s.padBadIn o.toNat n = none →
      exec (.lds d a b im sx size) s = .next ((s.advance 1).setX d
        (if sx = 1 then (BitVec.ofNat (8 * n) (bytesToNat (s.ctx.pad.read o.toNat n))).signExtend 64
          else BitVec.ofNat 64 (bytesToNat (s.ctx.pad.read o.toNat n))))) ∧
    (s.takes .acc (.sts d a b im size) m →
      exec (.sts d a b im size) s =
        .next { s.advance 1 with ctx.pad := s.ctx.pad.write o.toNat (natToBytes n (s.x d).toNat) } ∧
      ∀ k : Nat, (k < o.toNat ∨ o.toNat + n ≤ k) →
        Memory.get (s.ctx.pad.write o.toNat (natToBytes n (s.x d).toNat)) k = s.ctx.pad.get k)

/-- R183: a scratchpad access below 0 or beyond 0x0018_0000 raises CAP_BOUNDS with TOFF = o, or 0, TINFO = len and no
capability; one that touches a gated bank raises POWER_STATE. Nothing is read or written. -/
def Obligations.ScratchpadAccessesTrapOutOfBounds : Prop :=
  ∀ (s : State) (d a b : BitVec 5) (im sx : BitVec 1) (size : BitVec 2) (m : BitVec 3 × BitVec 2 × Bool),
    s.xFree [d, a, b] → m.2.2 = true →
    let n := 2 ^ size.toNat
    let o := (s.x a).toNat + (if im = 1 then ((b.toNat * n : Nat) : Int) else (s.x b).toInt)
    ∀ i ∈ [Instr.lds d a b im sx size, .sts d a b im size], s.takes .acc i m →
      ((o < 0 ∨ 0x180000 < o + n) → ∃ it : Item, it.addr = s.fetchPoint ∧
        exec i s = .next ((((s.advance 1).enqueue .acc it).rewindHold .acc).takeTrap .acc s.fetchPoint it.len
          { cause := .capBounds, toff := o.toNat, tinfo := n })) ∧
      (0 ≤ o → o + n ≤ 0x180000 → ((padBanks o.toNat n).any fun j => s.ctx.padGated.getLsbD j) = true →
        ∃ it : Item, it.addr = s.fetchPoint ∧
        exec i s = .next ((((s.advance 1).enqueue .acc it).rewindHold .acc).takeTrap .acc s.fetchPoint it.len
          { cause := .powerState, toff := o.toNat, tinfo := n }))

/-- R182, R154, R181, R41, R91: LD and CLD through a capability whose checks pass, with fewer than 32 loads outstanding, complete
where the bytes can be read at once: LD writes the value, extended, and CLD the capability that the 32 bytes hold, to their
register and to no other. Reading changes no byte of memory, unless a line that it displaces is written back without a
sector (R448). -/
def Obligations.LoadsThroughCapabilities : Prop :=
  ∀ (s u : State) (d a b : BitVec 5) (im sx : BitVec 1) (size : BitVec 2) (m : BitVec 3 × BitVec 2 × Bool) (v : Bytes),
    s.backed = true → s.xFree [d, b] → s.cFree [d, a] → m.2.2 = true → s.ctx.acc.loads.length < 32 → s.late = false →
    (let n := 2 ^ size.toNat
      let off := if im = 1 then ((b.toNat * n : Nat) : Int) else (s.x b).toInt
      let c := s.c a.toNat
      s.takes .acc (.ld d a b im sx size) m → s.capCheck c off n [tyData, tyGwin] (rightsOf [rR]) = none →
      s.gives (.accessQueue a.toNat) c (capOffset c off) n (c.type.toNat == tyData) v →
      ∃ t : State, exec (.ld d a b im sx size) s = .next t ∧
        (d ≠ 0 → t.x d = if sx = 1 then (BitVec.ofNat (8 * n) (bytesToNat v)).signExtend 64 else BitVec.ofNat 64 (bytesToNat v)) ∧
        (∀ k, k ≠ d → t.x k = s.x k) ∧ t.ctx.acc.c = s.ctx.acc.c ∧ t.ctx.pad = s.ctx.pad ∧ t.mem = s.mem ∧
        t.ctx.seq = (s.advance 1).ctx.seq) ∧
    (let off := if im = 1 then ((b.toNat * 32 : Nat) : Int) else (s.x b).toInt
      let c := s.c a.toNat
      s.takes .acc (.cld d a b im) m → s.capCheck c off 32 [tyCaps] (rightsOf [rLC]) = none →
      capOffset c off % 32 = 0 → s.gives (.accessQueue a.toNat) c (capOffset c off) 32 false v →
      ∃ t : State, exec (.cld d a b im) s = .next t ∧ t.c d.toNat = Cap.ofBytes v ∧
        (∀ k, k ≠ d.toNat → t.c k = s.c k) ∧ t.ctx.acc.x = s.ctx.acc.x ∧ t.ctx.pad = s.ctx.pad ∧ t.mem = s.mem ∧
        t.ctx.seq = (s.advance 1).ctx.seq) ∧
    (let n := 2 ^ size.toNat
      let off := if im = 1 then ((b.toNat * n : Nat) : Int) else (s.x b).toInt
      let c := s.c a.toNat
      s.takes .acc (.ld d a b im sx size) m → s.capCheck c off n [tyData, tyGwin] (rightsOf [rR]) = none →
      s.marked c (capOffset c off) n = false →
      readObj (.accessQueue a.toNat) c (capOffset c off) n (c.type.toNat == tyData) (s.advance 1) = .ok (.bytes v) u →
      u.ctx.stuck = 0 → u.hold .acc = {} →
      exec (.ld d a b im sx size) s = .next (u.setX d
        (if sx = 1 then (BitVec.ofNat (8 * n) (bytesToNat v)).signExtend 64 else BitVec.ofNat 64 (bytesToNat v)))) ∧
    (let off := if im = 1 then ((b.toNat * 32 : Nat) : Int) else (s.x b).toInt
      let c := s.c a.toNat
      s.takes .acc (.cld d a b im) m → s.capCheck c off 32 [tyCaps] (rightsOf [rLC]) = none →
      capOffset c off % 32 = 0 → s.marked c (capOffset c off) 32 = false →
      readObj (.accessQueue a.toNat) c (capOffset c off) 32 false (s.advance 1) = .ok (.bytes v) u →
      u.ctx.stuck = 0 → u.hold .acc = {} →
      exec (.cld d a b im) s = .next (u.setC d.toNat (Cap.ofBytes v)))

/-- R39, R40, R91, R154: what reading and writing an object through a capability leave: a read changes no byte of memory; a
plain write within one page that is present and not gated writes its bytes there, counts one write to be acknowledged, and
leaves every other byte (but for the sectors that a displaced line loses, R448); a write of a task changes no byte of memory, and goes to its commit buffer. -/
def Obligations.ObjectAccessesChangeOnlyTheirBytes : Prop :=
  ∀ (s u : State) (h : HolderId) (c : Cap) (o n : Nat) (l1 : Bool) (b : Bytes), s.backed = true →
    (∀ g, readObj h c o n l1 s = .ok g u → u.mem = s.mem ∧ u.ctx.pad = s.ctx.pad ∧ u.ctx.acc.x = s.ctx.acc.x) ∧
    (∀ t p, s.ctx.job.task = false → c.type.toNat ≠ tySwin → 0 < b.length → o % pageSize + b.length ≤ pageSize →
      (s.holder h).find c.obj.toNat (o / pageSize) = some t → t.place (o + b.length - 1) = .at p →
      t.place o = .at (p + 1 - b.length) → s.quarterGated (p + 1 - b.length) = false →
      s.memHeld (p + 1 - b.length) = false → s.follows c o b.length = false →
      s.reach (packageOf (p + 1 - b.length)) = .ok → (writeObj h c o b) s = .ok () u →
      u.mem = s.mem.write (p + 1 - b.length) b ∧ u.unacked s.ctx.job.uid = s.unacked s.ctx.job.uid + 1 ∧
      ∀ k, (k < p + 1 - b.length ∨ p + 1 ≤ k) → u.mem.get k = s.mem.get k) ∧
    (s.ctx.job.task = true → (writeObj h c o b) s = .ok () u → u.mem = s.mem ∧ u.acks = s.acks)

/-- R182, R181, R184, R39, R40: ST, CST and the queue loads and stores complete where their operands can be reached: ST writes
the low bytes of x[d], CST the 32 bytes of c[d], LDQ pushes the bytes it reads to q[d], STQ pops an entry of q[d] and writes
its lowest bytes. The write of a task stands in its commit buffer, another's in memory, and no other byte changes. -/
def Obligations.StoresAndQueueTransfers : Prop :=
  ∀ (s u : State) (d a b : BitVec 5) (im : BitVec 1) (size : BitVec 2) (len : BitVec 3) (m : BitVec 3 × BitVec 2 × Bool),
    s.backed = true → s.xFree [d, a, b] → s.cFree [d, a] → m.2.2 = true → u.ctx.stuck = 0 → u.hold .acc = {} →
    let c := s.c a.toNat
    let disp := fun (n : Nat) => if im = 1 then ((b.toNat * n : Nat) : Int) else (s.x b).toInt
    (let n := 2 ^ size.toNat
      let v := natToBytes n (s.x d).toNat
      s.takes .acc (.st d a b im size) m → s.capCheck c (disp n) n [tyData, tySwin] (rightsOf [rW]) = none →
      s.canWrite (.accessQueue a.toNat) c (capOffset c (disp n)) v →
      ∃ t : State, exec (.st d a b im size) s = .next t ∧
        s.written t (.accessQueue a.toNat) c (capOffset c (disp n)) v ∧ s.onlyMemory t ∧ t.ctx.dq = s.ctx.dq) ∧
    (let v := (s.c d.toNat).bytes
      let o := capOffset c (disp 32)
      s.takes .acc (.cst d a b im) m → s.capCheck c (disp 32) 32 [tyCaps] (rightsOf [rSC]) = none →
      o % 32 = 0 → s.canWrite (.accessQueue a.toNat) c o v →
      ∃ t : State, exec (.cst d a b im) s = .next t ∧
        s.written t (.accessQueue a.toNat) c o v ∧ s.onlyMemory t ∧ t.ctx.dq = s.ctx.dq) ∧
    (let n := 64 * 2 ^ len.toNat
      let o := capOffset c (disp n)
      (∀ e v, s.takes .acc (.ldq d a b im 0 len) m → (s.dataQ d.toNat).bind = some (.acc, e) →
        (s.dataQ d.toNat).hasRoom = true → s.capCheck c (disp n) n [tyData, tyGwin] (rightsOf [rR]) = none →
        s.ctx.acc.loads.length < 32 → s.late = false →
        s.gives (.accessQueue a.toNat) c o n (c.type.toNat == tyData) v →
        ∃ t : State, exec (.ldq d a b im 0 len) s = .next t ∧ t.dataQ d.toNat = (s.dataQ d.toNat).put v ∧
          (∀ k, k ≠ d.toNat → t.dataQ k = s.dataQ k) ∧ s.onlyMemory t ∧ t.mem = s.mem) ∧
      (∀ e v r, s.takes .acc (.stq d a b im 0 len) m → (s.dataQ d.toNat).bind = some (e, .acc) →
        (s.dataQ d.toNat).entries = v :: r → v.length = 2048 →
        s.capCheck c (disp n) n [tyData, tySwin] (rightsOf [rW]) = none →
        s.canWrite (.accessQueue a.toNat) c o (v.take n) →
        ∃ t : State, exec (.stq d a b im 0 len) s = .next t ∧
          t.dataQ d.toNat = { s.dataQ d.toNat with entries := r } ∧ (∀ k, k ≠ d.toNat → t.dataQ k = s.dataQ k) ∧
          s.written t (.accessQueue a.toNat) c o (v.take n) ∧ s.onlyMemory t)) ∧
    (s.takes .acc (.st d a b im size) m →
      s.capCheck c (disp (2 ^ size.toNat)) (2 ^ size.toNat) [tyData, tySwin] (rightsOf [rW]) = none →
      s.marked c (capOffset c (disp (2 ^ size.toNat))) (2 ^ size.toNat) = false →
      (writeObj (.accessQueue a.toNat) c (capOffset c (disp (2 ^ size.toNat))) (natToBytes (2 ^ size.toNat) (s.x d).toNat))
        (s.advance 1) = .ok () u → exec (.st d a b im size) s = .next u) ∧
    (s.takes .acc (.cst d a b im) m → s.capCheck c (disp 32) 32 [tyCaps] (rightsOf [rSC]) = none →
      capOffset c (disp 32) % 32 = 0 → s.marked c (capOffset c (disp 32)) 32 = false →
      (writeObj (.accessQueue a.toNat) c (capOffset c (disp 32)) (s.c d.toNat).bytes) (s.advance 1) = .ok () u →
      exec (.cst d a b im) s = .next u) ∧
    (let n := 64 * 2 ^ len.toNat
      let o := (s.x a).toNat + disp n
      0 ≤ o → o + n ≤ 0x180000 → s.padReady o.toNat n →
      (∀ e, s.takes .acc (.ldq d a b im 1 len) m → (s.dataQ d.toNat).bind = some (.acc, e) →
        (s.dataQ d.toNat).hasRoom = true → s.ctx.acc.loads.length < 32 → s.padBadIn o.toNat n = none →
        exec (.ldq d a b im 1 len) s =
          .next ((s.advance 1).setDataQ d.toNat ((s.dataQ d.toNat).put (s.ctx.pad.read o.toNat n)))) ∧
      (∀ e v r, s.takes .acc (.stq d a b im 1 len) m → (s.dataQ d.toNat).bind = some (e, .acc) →
        (s.dataQ d.toNat).entries = v :: r → v.length = 2048 →
        exec (.stq d a b im 1 len) s = .next (({ s.advance 1 with ctx.pad := s.ctx.pad.write o.toNat (v.take n) }).setDataQ
          d.toNat { s.dataQ d.toNat with entries := r }))) ∧
    (let n := 64 * 2 ^ len.toNat
      let o := capOffset c (disp n)
      s.marked c o n = false →
      (∀ e v, s.takes .acc (.ldq d a b im 0 len) m → (s.dataQ d.toNat).bind = some (.acc, e) →
        (s.dataQ d.toNat).hasRoom = true → s.capCheck c (disp n) n [tyData, tyGwin] (rightsOf [rR]) = none →
        s.ctx.acc.loads.length < 32 → s.late = false →
        readObj (.accessQueue a.toNat) c o n (c.type.toNat == tyData) (s.advance 1) = .ok (.bytes v) u →
        exec (.ldq d a b im 0 len) s = .next (u.setDataQ d.toNat ((u.dataQ d.toNat).put v))) ∧
      (∀ e v r, s.takes .acc (.stq d a b im 0 len) m → (s.dataQ d.toNat).bind = some (e, .acc) →
        (s.dataQ d.toNat).entries = v :: r → s.capCheck c (disp n) n [tyData, tySwin] (rightsOf [rW]) = none →
        (writeObj (.accessQueue a.toNat) c o (v.take n)) (s.advance 1) = .ok () u → u.ctx.dq = s.ctx.dq →
        exec (.stq d a b im 0 len) s = .next (u.setDataQ d.toNat { s.dataQ d.toNat with entries := r })))

/-- R185, R186, R101: PRF changes no register and no byte of memory, whatever its operand; FENCE, with no write
unacknowledged, no load outstanding and no failure to deliver, completes, and a scope other than the core drops the core's
L1. -/
def Obligations.PrefetchAndFenceComplete : Prop :=
  ∀ (s : State) (a b : BitVec 5) (im : BitVec 1) (lvl : BitVec 2) (scope : BitVec 3) (m : BitVec 3 × BitVec 2 × Bool),
    m.2.2 = true →
    (s.backed = true → s.takes .acc (.prf a b im lvl) m → s.xFree [b] → s.cFree [a] →
      ∃ t : State, exec (.prf a b im lvl) s = .next t ∧ t.mem = s.mem ∧ t.ctx.acc.x = s.ctx.acc.x ∧ t.ctx.acc.c = s.ctx.acc.c ∧
        t.ctx.pad = s.ctx.pad ∧ t.ctx.seq = (s.advance 1).ctx.seq) ∧
    (s.takes .acc (.fence scope) m → s.ctx.job.task = false → s.wackCount = 0 → s.ctx.acc.loads = [] →
      s.ctx.acc.storeFail = none → s.ctx.units.err.get none 2 = none →
      exec (.fence scope) s = .next (if scope = 0 then s.advance 1 else (s.advance 1).l1Drop s.cur.core))

/-- R188, R194, R198 to R204: the stream instructions. SBIND copies a capability into a stream register, SSET starts the run
that its descriptor in the scratchpad or in memory gives, SRING starts a pump, SSTOP leaves the stream idle, SSTAT reads a quantity, SOUT writes an entry of
a queue to a stream, PGDIST sets the distance of a holder. -/
def Obligations.StreamInstructionsComplete : Prop :=
  ∀ (s : State) (d a b f : BitVec 5) (im g : BitVec 1) (m : BitVec 3 × BitVec 2 × Bool),
    s.xFree [d, a, b] → s.cFree [a] → m.2.2 = true →
    (s.takes .acc (.sbind d a f) m → exec (.sbind d a f) s = .next ((s.advance 1).setStream d.toNat
      (if f = 0 then { s.stream d.toNat with dcap := s.c a.toNat } else { s.stream d.toNat with hcap := s.c a.toNat }))) ∧
    (let o := (s.x a).toNat + (if im = 1 then ((b.toNat * 64 : Nat) : Int) else (s.x b).toInt)
      let v := s.ctx.pad.read o.toNat 64
      s.takes .acc (.sset d a b im 1) m → ((s.stream d.toNat).st = .idle ∨ (s.stream d.toNat).st = .ended) →
      (s.stream d.toNat).buf = [] → s.ctx.acc.loads.length < 32 →
      0 ≤ o → o + 64 ≤ 0x180000 → s.padReady o.toNat 64 → s.padBadIn o.toNat 64 = none →
      descReserved v = false → (StreamDesc.ofBytes v).bad = false → s.pumpAwaits d.toNat = false →
      s.spanCheck (StreamDesc.ofBytes v) (s.stream d.toNat).dcap (StreamDesc.ofBytes v).span = none →
      ((StreamDesc.ofBytes v).hdr = 0 ∨ s.spanCheck (StreamDesc.ofBytes v) (s.stream d.toNat).hcap
        ((StreamDesc.ofBytes v).hdrSpan (if (StreamDesc.ofBytes v).sp then 0 else (s.stream d.toNat).dcap.cursor.toNat)) = none) →
      exec (.sset d a b im 1) s = .next ((s.advance 1).beginRun d.toNat (StreamDesc.ofBytes v)) ∧
      (((s.advance 1).beginRun d.toNat (StreamDesc.ofBytes v)).stream d.toNat).st = .run ∧
      (((s.advance 1).beginRun d.toNat (StreamDesc.ofBytes v)).stream d.toNat).done = 0) ∧
    (s.takes .acc (.sring d a) m → s.ctx.acc.pumps.get none d.toNat = none →
      ((s.stream a.toNat).st = .idle ∨ (s.stream a.toNat).st = .ended) →
      exec (.sring d a) s = .next ((s.advance 1).modAcc fun q =>
        { q with pumps := q.pumps.set none d.toNat (some { stream := a.toNat, waiting := true }) })) ∧
    (s.takes .acc (.sring d a) m → s.ctx.acc.pumps.get none d.toNat = none → (s.stream a.toNat).st = .run →
      (s.stream a.toNat).desc.out = false → (s.stream a.toNat).desc.engn = 3 →
      exec (.sring d a) s = .next ((s.advance 1).modAcc fun q =>
        { q with pumps := q.pumps.set none d.toNat (some { stream := a.toNat, waiting := false }) })) ∧
    (s.takes .acc (.sstop d) m → (s.stream d.toNat).desc.out = false →
      ∃ t : State, exec (.sstop d) s = .next t ∧ (t.stream d.toNat).st = .idle ∧ (t.stream d.toNat).buf = [] ∧
        (t.stream d.toNat).dcap = (s.stream d.toNat).dcap ∧ (∀ k, k ≠ d.toNat → t.stream k = s.stream k) ∧ t.mem = s.mem) ∧
    (s.takes .acc (.sstat d a f) m →
      exec (.sstat d a f) s = .next ((s.advance 1).setX d ((s.stream a.toNat).quantity f.toNat))) ∧
    (let off := if im = 1 then ((b.toNat * 64 : Nat) : Int) else (s.x b).toInt
      let c := s.c a.toNat
      let i := d.toNat
      ∀ v, s.backed = true → s.takes .acc (.sset d a b im 0) m → ((s.stream i).st = .idle ∨ (s.stream i).st = .ended) → (s.stream i).buf = [] →
      s.ctx.acc.loads.length < 32 → s.late = false → s.capCheck c off 64 [tyData] (rightsOf [rR]) = none →
      s.gives (.accessQueue a.toNat) c (capOffset c off) 64 false v →
      descReserved v = false → (StreamDesc.ofBytes v).bad = false → s.pumpAwaits i = false →
      s.spanCheck (StreamDesc.ofBytes v) (s.stream i).dcap (StreamDesc.ofBytes v).span = none →
      ((StreamDesc.ofBytes v).hdr = 0 ∨ s.spanCheck (StreamDesc.ofBytes v) (s.stream i).hcap
        ((StreamDesc.ofBytes v).hdrSpan (if (StreamDesc.ofBytes v).sp then 0 else (s.stream i).dcap.cursor.toNat)) = none) →
      ∃ t : State, exec (.sset d a b im 0) s = .next t ∧ (t.stream i).st = .run ∧ (t.stream i).desc = StreamDesc.ofBytes v ∧
        (t.stream i).done = 0 ∧ (t.stream i).ldcap = (s.stream i).dcap ∧ (t.stream i).lhcap = (s.stream i).hcap ∧
        (∀ k, k ≠ i → t.stream k = s.stream k) ∧ s.onlyMemory t ∧ t.mem = s.mem) ∧
    (∀ (e : Engine) (v : Bytes) (r : List Bytes), s.takes .acc (.sout d a) m → (s.stream d.toNat).desc.fmt < 8 →
      (s.dataQ a.toNat).bind = some (e, .acc) → (s.dataQ a.toNat).entries = v :: r →
      s.accepts .acc (.stream d.toNat) (List.range 8) 1 →
      ∃ t : State, exec (.sout d a) s = .next t ∧ t.dataQ a.toNat = { s.dataQ a.toNat with entries := r } ∧
        s.pushed t (.stream d.toNat) [{ bytes := v }] ∧ s.onlyBlocks t (.stream d.toNat)) ∧
    (∀ (u : State) (e : Engine) (v : Bytes) (r : List Bytes), s.takes .acc (.sout d a) m →
      (s.stream d.toNat).desc.fmt < 8 → (s.dataQ a.toNat).bind = some (e, .acc) → (s.dataQ a.toNat).entries = v :: r →
      (writeStream .acc d.toNat { bytes := v, hdrs := [] }) (s.advance 1) = .ok () u →
      u.ctx.dq = s.ctx.dq → u.ctx.stuck = 0 → u.hold .acc = {} →
      exec (.sout d a) s = .next (u.setDataQ a.toNat { s.dataQ a.toNat with entries := r })) ∧
    (let h := if g = 0 then HolderId.stream d.toNat else .accessQueue d.toNat
     s.takes .acc (.pgdist d a g) m → (s.x a).toNat ≤ 0x200000 →
      exec (.pgdist d a g) s = .next ((s.advance 1).setHolder h { s.holder h with pgdist := (s.x a).toNat }))
/-! ## The access engine: commands -/

/-- R207, R208, R214, R216, R217, R219, R221: CPY, CPY2, CPYL2 and MCAST issue a copy-class command: the sides that their
operands name, a watermark and a sync word where they are armed; the arms that they take are gone. -/
def Obligations.CopiesIssueACommand : Prop :=
  ∀ (s : State) (d a b : BitVec 5) (f g : BitVec 1) (m : BitVec 3 × BitVec 2 × Bool),
    s.xFree [d, a, b] → s.cFree [d, a] → m.2.2 = true → s.ctx.job.task = false → s.copyRoom = true →
    let len := (s.x b).toNat
    let uid := s.ctx.job.uid
    (let dst := s.sideArg f d
      let src := s.sideArg g a
      dst.bad s = false → src.bad s = false → s.armsBad true dst.sp = false →
      (s.takes .acc (.cpy d a b f g) m → len < 2 ^ 32 → dst.check s 0 len rCD = none → src.check s 0 len rCS = none →
        ∃ (t : State) (c : Cmd), exec (.cpy d a b f g) s = .next t ∧ s.issues t 0 c ∧
          c.body = .copy { src := src.side s, dst := dst.side s, cnt0 := len } ∧ c.counted = true ∧
          c.wmark = s.ctx.units.wmark ∧ c.sync = s.ctx.units.swarm ∧ t.ctx.units.wmark = false ∧
          t.ctx.units.swarm = none ∧ (s.ctx.units.wmark = false → t.marks = s.marks)) ∧
      (let p := s.ctx.pad.read len 64
        let x : CopyCmd := {
          src := src.side s, dst := dst.side s
          cnt0 := field32 p 0, cnt1 := field32 p 4, cnt2 := field32 p 8
          sstr1 := field64 p 16, sstr2 := field64 p 24, dstr1 := field64 p 32, dstr2 := field64 p 40
          soff := field64 p 48, doff := field64 p 56 }
        let sd := patternSpan x.doff x.dstr1 x.dstr2 x.cnt0 x.cnt1 x.cnt2
        let ss := patternSpan x.soff x.sstr1 x.sstr2 x.cnt0 x.cnt1 x.cnt2
        s.takes .acc (.cpy2 d a b f g) m → len % 64 = 0 → len + 64 ≤ 0x180000 → s.padReady len 64 → s.padBadIn len 64 = none →
        desc2Bad p = false → dst.check s sd.1 (sd.2 - sd.1 + 1).toNat rCD = none →
        src.check s ss.1 (ss.2 - ss.1 + 1).toNat rCS = none →
        ∃ (t : State) (c : Cmd), exec (.cpy2 d a b f g) s = .next t ∧ s.issues t 0 c ∧ c.body = .copy x ∧
          c.counted = true ∧ c.wmark = s.ctx.units.wmark ∧ c.sync = s.ctx.units.swarm ∧ t.ctx.units.wmark = false ∧
          t.ctx.units.swarm = none)) ∧
    (let other := s.sideArg f a
      let l2 := Side.l2 (l2Slice (s.x d)) (l2Off (s.x d))
      s.takes .acc (.cpyl2 d a b f g) m → l2RefBad (s.x d) = false → other.bad s = false → len < 2 ^ 32 →
      s.armsBad true (g == 1 && other.sp) = false → s.l2Check (s.x d) 0 len = none →
      other.check s 0 len (if g = 0 then rCS else rCD) = none →
      ∃ (t : State) (c : Cmd), exec (.cpyl2 d a b f g) s = .next t ∧ s.issues t 0 c ∧ c.counted = true ∧
        c.body = .copy (if g = 0 then { src := other.side s, dst := l2, cnt0 := len } else { src := l2, dst := other.side s, cnt0 := len }) ∧
        c.wmark = s.ctx.units.wmark ∧ c.sync = s.ctx.units.swarm ∧ t.ctx.units.wmark = false ∧ t.ctx.units.swarm = none) ∧
    (let src := s.sideArg f a
      let n := ((s.x d).extractLsb' 32 8).toNat
      s.takes .acc (.mcast d a b f) m → (s.x d).extractLsb' 40 24 = 0 → (s.x d).extractLsb' 21 11 = 0 →
      (s.mcGroup n).isSome = true → src.bad s = false → len < 2 ^ 32 → s.ctx.units.wmark = false →
      padRange (refOff (s.x d)) len = none → src.check s 0 len rCS = none →
      ∃ (t : State) (c : Cmd), exec (.mcast d a b f) s = .next t ∧ s.issues t 0 c ∧ c.counted = true ∧ c.wmark = false ∧
        c.body = .copy { src := src.side s, dst := .group s.ctx.units.mctab n (refOff (s.x d)) s.ctx.group, cnt0 := len } ∧
        c.sync = s.ctx.units.swarm ∧ t.ctx.units.swarm = none ∧ uid = c.uid)

/-- R214, R220, R224, R226, R227: CHAIN, GWIN, SCRUB and MIGR issue a copy-class command, SCRUB and MIGR at supervisor
level; WMARK and SWARM arm the next command, and SWARM's clearing form disarms it. -/
def Obligations.OtherCopyClassInstructionsComplete : Prop :=
  ∀ (s : State) (d a b : BitVec 5) (f : BitVec 4) (m : BitVec 3 × BitVec 2 × Bool),
    s.xFree [d, a, b] → s.cFree [d, a, b, f.setWidth 5] → m.2.2 = true → s.ctx.job.task = false →
    (s.takes .acc .wmark m →
      exec .wmark s = .next ((s.advance 1).modCtx fun x => { x with units.wmark := true })) ∧
    (s.takes .acc (.swarm a 1) m →
      exec (.swarm a 1) s = .next ((s.advance 1).modCtx fun x => { x with units.wmark := false, units.swarm := none })) ∧
    (s.takes .acc (.swarm a 0) m → s.ownRefBad (s.x a) = false → refOff (s.x a) % 16 = 0 → refOff (s.x a) + 16 ≤ 0x180000 →
      exec (.swarm a 0) s = .next ((s.advance 1).modCtx fun x => { x with units.swarm := some (refOff (s.x a)) })) ∧
    (s.copyRoom = true → s.ctx.units.wmark = false → s.ctx.units.swarm = none →
      (let list := s.c b.toNat
       s.takes .acc (.chain d a b) m → list.cursor.toNat % 32 = 0 → s.capKind list [tyData] [rR, rW] = none →
        s.capKind (s.c a.toNat) [tyData] [rCS] = none → s.capKind (s.c d.toNat) [tyData] [rCD] = none →
        ∃ (t : State) (c : Cmd), exec (.chain d a b) s = .next t ∧ s.issues t 0 c ∧ c.counted = true ∧
          c.body = .chain (s.c d.toNat) (s.c a.toNat) list (some list.cursor.toNat)) ∧
      (let w := s.c d.toNat
        let idx := s.c a.toNat
        let elem := s.c f.toNat
        let n := ((s.x b).extractLsb' 32 32).toNat
        let esize := ((s.x b).extractLsb' 0 2).toNat
        s.takes .acc (.gwin d a b f) m → (s.x b).extractLsb' 2 30 = 0 → s.capKind w [tyGwin, tySwin] [rCD] = none →
        (n = 0 ∨ (s.capCheck idx 0 (4 * n) [tyData] (rightsOf [rR]) = none ∧
          s.capKind elem [tyData] [if w.type.toNat = tyGwin then rCS else rCD] = none ∧
          s.windowShort w (n * 2 ^ esize) = none)) →
        ∃ (t : State) (c : Cmd), exec (.gwin d a b f) s = .next t ∧ s.issues t 0 c ∧ c.counted = true ∧
          c.body = .gwin w idx elem esize n) ∧
      (let c0 := s.c a.toNat
        let n := (s.x b).toNat
        s.takes .acc (.scrub d a b) m → s.ctx.seq.sup = true → s.ownRefBad (s.x d) = false → c0.cursor.toNat % 32 = 0 →
        n % 32 = 0 → 0 < n → n ≤ 0x1000000 → s.capCheck c0 0 n [tyData] (rightsOf [rCS, rCD]) = none →
        refOff (s.x d) + 16 + (n + 255) / 256 ≤ 0x180000 →
        ∃ (t : State) (c : Cmd), exec (.scrub d a b) s = .next t ∧ s.issues t 0 c ∧ c.counted = true ∧
          c.body = .scrub c0 n (refOff (s.x d))) ∧
      (∀ e, let c0 := s.c a.toNat
        let v := s.x b
        s.takes .acc (.migr a b) m → s.ctx.seq.sup = true → (v.extractLsb' 62 2).toNat < 2 → v.extractLsb' 31 31 = 0 →
        s.capKind c0 [tyData] [] = none → s.objEntry c0.asid.toNat c0.obj.toNat = some e → e.type = c0.type.toNat →
        c0.cursor.toNat < e.length →
        ∃ (t : State) (c : Cmd), exec (.migr a b) s = .next t ∧ s.issues t 0 c ∧ c.counted = true ∧
          c.body = .migr c0 (v.extractLsb' 62 2).toNat (v.extractLsb' 0 31).toNat none))

/-- R233 to R235: an atomic that answers nothing is a tl1 command, counted in the write-acknowledge count; one that answers
is outstanding as a load of its destination, and takes no number; ATOMF.q pops its entry. Memory changes only when the
atomic is performed at its home. -/
def Obligations.AtomicsLeaveForTheirHome : Prop :=
  ∀ (s : State) (d a b : BitVec 5) (size : BitVec 1) (op : BitVec 3) (m : BitVec 3 × BitVec 2 × Bool),
    s.xFree [d, b] → s.cFree [a] → m.2.2 = true → s.ctx.job.task = false →
    let c := s.c a.toNat
    let o := capOffset c 0
    let answers := fun (i : Instr) (op n : Nat) (cmp : DWord) =>
      ∃ (t : State) (k : Cmd) (l : Load), exec i s = .next t ∧ t.units.cmds = s.units.cmds ++ [k] ∧ k.num = 0 ∧
        k.held = false ∧ k.done = false ∧ k.body = .atom c op n (s.x b) cmp (some s.ctx.acc.nextLoad) ∧
        t.ctx.acc.loads = s.ctx.acc.loads ++ [l] ∧ l.n = s.ctx.acc.nextLoad ∧ l.dest = .x d.toNat n false ∧
        l.src = .answer s.units.nextCmd ∧ t.ctx.acc.x = s.ctx.acc.x ∧ t.mem = s.mem ∧ t.ctx.units.tl = s.ctx.units.tl
    (let n := if size = 1 then 8 else 4
      let cmp := if op = 7 then s.x d else 0
      s.capCheck c 0 n [tyData] (rightsOf [rAT]) = none → o % n = 0 → s.marked c o n = false →
      (s.takes .acc (.atom d a b 0 size op) m →
        ∃ (t : State) (k : Cmd), exec (.atom d a b 0 size op) s = .next t ∧ s.issues t 1 k ∧ k.counted = true ∧
          k.body = .atom c op.toNat n (s.x b) cmp none) ∧
      (s.takes .acc (.atom d a b 1 size op) m → s.ctx.acc.loads.length < 32 →
        answers (.atom d a b 1 size op) op.toNat n cmp)) ∧
    (s.capCheck c 0 4 [tyData] (rightsOf [rAT]) = none → o % 4 = 0 → s.marked c o 4 = false →
      (s.takes .acc (.atomf d a b 0) m →
        ∃ (t : State) (k : Cmd), exec (.atomf d a b 0) s = .next t ∧ s.issues t 1 k ∧ k.counted = true ∧
          k.body = .atom c atomF 4 (s.x b) 0 none) ∧
      (s.takes .acc (.atomf d a b 1) m → s.ctx.acc.loads.length < 32 → answers (.atomf d a b 1) atomF 4 0)) ∧
    (∀ e v r, s.takes .acc (.atomfQ a b) m → (s.dataQ b.toNat).bind = some (e, .acc) → (s.dataQ b.toNat).entries = v :: r →
      s.capCheck c 0 2048 [tyData] (rightsOf [rAT]) = none → o % 4 = 0 → s.marked c o 2048 = false →
      ∃ (t : State) (k : Cmd), exec (.atomfQ a b) s = .next t ∧ s.issues t 1 k ∧ k.counted = true ∧
        k.body = .atomQ c (fpElems v 512) ∧ t.dataQ b.toNat = { s.dataQ b.toNat with entries := r })

/-- R241 to R250: the instructions of synchronisation. BIND and REL issue a tl1 command, and REL's hold leaves the table;
ACQ and TRYACQ of an object that nothing holds or waits for, and for which its engine has an entry, begin the hold at once;
TRYACQ of another answers 0; TLGET reads a timeline; TLARM arms a wait slot. -/
def Obligations.SynchronisationInstructionsComplete : Prop :=
  ∀ (s : State) (d a b : BitVec 5) (f : BitVec 1) (g : BitVec 3) (w : BitVec 2) (m : BitVec 3 × BitVec 2 × Bool),
    s.xFree [d, a, b] → s.cFree [a] → m.2.2 = true → s.ctx.status = .live →
    let key := handleKey (s.x a)
    let may := s.ctx.job.task = false ∧ handleBad (s.x a) = false ∧ holdsKey s.ctx.units.holds key = false ∧
      s.ctx.units.holds.length < 8 ∧ s.reach key.1 = .ok ∧ s.objFault (s.x a) s.ctx.job.code.asid.toNat = none ∧
      s.bindPending key = false ∧ s.poolQueued key = false ∧ ((s.advance 1).takeObj key).isSome = true
    let begins := fun (t : State) => t.ctx.units.holds = s.ctx.units.holds ++
        [{ handle := s.x a, excl := f == 0, id := s.ctx.units.nextAsk, regions := s.recRegions key
           scope := recScope (s.mem8 (s.recAddr key)) }] ∧
      (t.obj key).holds.length = (s.obj key).holds.length + 1 ∧ t.mem = s.mem ∧ t.ctx.pad = s.ctx.pad
    (s.takes .acc (.bind d a b f g) m → s.ctx.job.task = false → handleBad (s.x d) = false → s.x b ≠ 0 →
      (s.x b).toNat < 2 ^ 48 → s.capCheck (s.c a.toNat) 0 (s.x b).toNat [tyData] (rightsOf [rR]) = none →
      ∃ (t : State) (c : Cmd), exec (.bind d a b f g) s = .next t ∧ s.issues t 1 c ∧
        c.body = .bind (s.x d) (s.c a.toNat) (s.x b).toNat g.toNat (f == 1)) ∧
    (s.takes .acc (.rel a) m → s.ctx.job.task = false → handleBad (s.x a) = false → holdsKey s.ctx.units.holds key = true →
      s.ctx.acc.storeFail = none → s.ctx.units.err.get none 2 = none →
      ∃ (t : State) (c : Cmd), exec (.rel a) s = .next t ∧ s.issues t 1 c ∧
        c.body = .rel (s.x a) (((s.ctx.units.holds.find? fun t => handleKey t.handle == key).map (·.id)).getD 0) ∧
        holdsKey t.ctx.units.holds key = false ∧
        t.ctx.units.holds = s.ctx.units.holds.filter fun h => handleKey h.handle != key) ∧
    (s.takes .acc (.acq a f) m → may → s.askAt s.fetchPoint = none → (s.obj key).waiters = [] →
      (s.obj key).open (f == 0) = true → ∃ t : State, exec (.acq a f) s = .next t ∧ begins t ∧ t.ctx.acc.x = s.ctx.acc.x) ∧
    (s.takes .acc (.tryacq d a f) m → may →
      ((s.obj key).waiters = [] → (s.obj key).open (f == 0) = true →
        ∃ t : State, exec (.tryacq d a f) s = .next t ∧ begins t ∧ t.x d = (if d = 0 then 0 else 1)) ∧
      (((s.obj key).waiters ≠ [] ∨ (s.obj key).open (f == 0) = false) →
        ∃ t : State, exec (.tryacq d a f) s = .next t ∧ t.ctx = ((s.advance 1).setX d 0).ctx ∧ t.obj key = s.obj key ∧
          t.mem = s.mem)) ∧
    (s.takes .acc (.tlget d f w) m → exec (.tlget d f w) s = .next ((s.advance 1).setX d
      (BitVec.ofNat 64 (if f = 1 then (s.ctx.units.tl.get {} w.toNat).issued else (s.ctx.units.tl.get {} w.toNat).counter)))) ∧
    (s.takes .acc (.tlarm d a b g) m → (g = 1 → (s.x b).toNat % 16 = 0 ∧ (s.x b).toNat + 16 ≤ 0x180000) →
      exec (.tlarm d a b g) s = .next ((s.advance 1).modSeq fun q => { q with
        slots := q.slots.set .unarmed d.toNat
          (if g = 0 then .timeline b.toNat (s.x a) else if g = 1 then .gen (s.x b).toNat ((s.x a).setWidth 32)
            else if g = 2 then .gts (s.x a) else if g = 3 then .phase (s.x a) else .unarmed) }))

/-- R422 to R425, R430, R436: LSLOT registers a slot that clashes with none, or takes a registration away; LSEND, LRECV and
LRADD issue a tl2 command on a slot of their direction whose port is up. LSEND and LRECV of no bytes complete as they are
issued, and all three fail so on a slot whose port is down. -/
def Obligations.LinkInstructionsComplete : Prop :=
  ∀ (s : State) (d a b : BitVec 5) (sp : BitVec 1) (m : BitVec 3 × BitVec 2 × Bool),
    s.xFree [a, b] → s.cFree [a] → m.2.2 = true → s.ctx.job.task = false →
    let len := (s.x b).toNat
    let side := s.sideArg sp a
    (s.takes .acc (.lslot d a b 1) m → s.slotBusy s.ctx.job.uid d.toNat = false →
      exec (.lslot d a b 1) s = .next ((s.advance 1).setSlot d.toNat none)) ∧
    (let l := LinkSlot.ofWords (s.x a) (s.x b) s.ctx.job.code.asid.toNat
     s.takes .acc (.lslot d a b 0) m → s.slotBusy s.ctx.job.uid d.toNat = false → slotBad (s.x a) (s.x b) = false →
      (s.port l.port).up = true → (s.port l.port).pkg = l.pkg → l.pkg < 640 →
      (s.registered.any fun r => !(r.uid == s.ctx.job.uid && r.slot == d.toNat) && l.clashes r.ls) = false →
      exec (.lslot d a b 0) s = .next ((s.advance 1).setSlot d.toNat (some l))) ∧
    (∀ l, s.ctx.units.slots.get none d.toNat = some l → (s.port l.port).up = true → s.ctx.units.wmark = false →
      (s.takes .acc (.lsend d a b sp) m → l.recv = false → s.ctx.units.swarm = none → (side.sp && s.ownRefBad side.ref) = false →
        0 < len → len < 2 ^ 32 → side.check s 0 len rCS = none →
        ∃ (t : State) (c : Cmd), exec (.lsend d a b sp) s = .next t ∧ s.issues t 2 c ∧ c.counted = true ∧
          c.body = .lsend d.toNat l (side.side s) len 0) ∧
      (s.takes .acc (.lrecv d a b sp) m → l.recv = true → (side.sp = true ∨ s.ctx.units.swarm = none) →
        (side.sp && s.ownRefBad side.ref) = false → 0 < len → len < 2 ^ 32 → side.check s 0 len rCD = none →
        ∃ (t : State) (c : Cmd), exec (.lrecv d a b sp) s = .next t ∧ s.issues t 2 c ∧ c.counted = true ∧
          c.body = .lrecv d.toNat l (side.side s) len 0 [] ∧ c.sync = (if side.sp then s.ctx.units.swarm else none) ∧
          t.ctx.units.swarm = none) ∧
      (let p := s.x b
        let n := (p.extractLsb' 0 32).toNat
        let fi := (p.extractLsb' 32 4).toNat
        let fo := (p.extractLsb' 36 4).toNat
        s.takes .acc (.lradd d a b) m → l.recv = true → s.ownRefBad (s.x a) = false → n ≠ 0 → p.extractLsb' 40 24 = 0 →
        fi ∈ [0, 1, 2, 3, 4, 7] → fo ∈ [0, 1, 2, 3, 4, 7] → (fi = 7 ↔ fo = 7) →
        refOff (s.x a) + n * (fmtBits fo / 8) ≤ 0x180000 →
        ∃ (t : State) (c : Cmd), exec (.lradd d a b) s = .next t ∧ s.issues t 2 c ∧ c.counted = true ∧
          c.body = .lradd d.toNat l (refOff (s.x a)) n fi fo 0 [] none ∧ c.sync = s.ctx.units.swarm ∧
          t.ctx.units.swarm = none)) ∧
    (∀ l, s.ctx.units.slots.get none d.toNat = some l → s.ctx.units.wmark = false → s.ctx.units.swarm = none →
      let up := (s.port l.port).up
      let ends := fun (i : Instr) => ∃ (t : State) (c : Cmd), exec i s = .next t ∧ t.units.cmds = s.units.cmds ++ [c] ∧
        c.done = true ∧ c.failed = (if up then none else some (linkError d.toNat l.port 0)) ∧ t.mem = s.mem ∧
        t.ctx.pad = s.ctx.pad
      (side.sp && s.ownRefBad side.ref) = false → len < 2 ^ 32 → (len = 0 ∨ up = false) →
      (s.takes .acc (.lsend d a b sp) m → l.recv = false → side.check s 0 len rCS = none → ends (.lsend d a b sp)) ∧
      (s.takes .acc (.lrecv d a b sp) m → l.recv = true → side.check s 0 len rCD = none → ends (.lrecv d a b sp)))

/-- R395, R401, R404 to R406, R413, R414: EVICT, the egress commands, SPILL and FILL issue a tl3 command; RMAP looks a
position up in the remap object; EQPEEK writes the listing of its queue to the scratchpad. -/
def Obligations.SpecialUnitInstructionsComplete : Prop :=
  ∀ (s : State) (d a b : BitVec 5) (f : BitVec 1) (m : BitVec 3 × BitVec 2 × Bool),
    s.xFree [d, b] → s.cFree [d, a] → m.2.2 = true → s.ctx.job.task = false →
    let v := s.x b
    let room := ((s.cmdsOf s.ctx.job.uid).filter fun c => c.cls == 3).length < maxTl3
    (let pages := s.c d.toNat
      let remap := s.c a.toNat
      s.takes .acc (.evict d a b f) m → room → s.capCheck pages 0 1 [tyData] (rightsOf [rR, rW]) = none →
      s.capCheck remap 0 64 [tyRemap] (rightsOf [rR, rW]) = none → evictBad (f == 1) v = false →
      ∃ (t : State) (c : Cmd), exec (.evict d a b f) s = .next t ∧ s.issues t 3 c ∧ c.counted = true ∧
        c.body = .evict { pages := pages, remap := remap, keepMode := f == 1, thr := v.extractLsb' 0 32, decay := v.extractLsb' 32 32
                          die := s.cur.die }) ∧
    (let c := s.c a.toNat
      ∀ (total pmax base : Nat), s.takes .acc (.rmap d a b f) m → s.ctx.acc.loads.length < 32 → s.late = false →
      s.capCheck c 0 64 [tyRemap] (rightsOf [rR]) = none → s.marked c (capOffset c 0) 64 = false →
      s.lies (.accessQueue a.toNat) c (capOffset c 0) 64 base → s.remapSees c 8 4 total → s.remapSees c 0x18 2 pmax →
      let entry := fun i => s.remapSees c (0x40 + 8 * (pmax % 2 ^ 13) + 4 * i) 4
      let gives := fun (n : DWord) => ∃ t : State, exec (.rmap d a b f) s = .next t ∧
        (d ≠ 0 → t.x d = n) ∧ (∀ k, k ≠ d → t.x k = s.x k) ∧ t.ctx.acc.c = s.ctx.acc.c ∧ t.ctx.acc.loads = s.ctx.acc.loads ∧
        t.mem = s.mem ∧ t.ctx.pad = s.ctx.pad
      (f = 0 → total ≤ v.toNat → gives (BitVec.allOnes 64)) ∧
      (∀ n : Nat, f = 0 → v.toNat < total → entry v.toNat n → gives (BitVec.ofNat 64 n)) ∧
      (∀ T : Nat → Nat, f = 1 → (∀ i < total, entry i (T i)) → (∀ i j, i < j → j < total → T i < T j) →
        (∀ i < total, T i = v.toNat → gives (BitVec.ofNat 64 i)) ∧
        ((∀ i < total, T i ≠ v.toNat) → gives (BitVec.allOnes 64)))) ∧
    (let c := s.c a.toNat
      let q := capOffset c 0 % 4096
      ∀ e, s.walk c (capOffset c 0) = .ok e →
      (s.takes .acc (.eqpost d a b f) m → room → s.capCheck c 0 1 [tyEgress] (rightsOf [rW]) = none →
        (f = 1 → s.ownRefBad (s.x d) = false ∧ refOff (s.x d) % 16 = 0 ∧ refOff (s.x d) + 16 ≤ 0x180000) →
        ∃ (t : State) (k : Cmd), exec (.eqpost d a b f) s = .next t ∧ s.issues t 3 k ∧ k.counted = false ∧
          k.body = .eqpost q v (if f = 1 then some (refOff (s.x d)) else none)) ∧
      (v.extractLsb' 0 32 ≠ BitVec.allOnes 32 → room → s.capCheck c 0 1 [tyEgress] (rightsOf [rAT]) = none →
        (s.takes .acc (.eqrel a b) m → ∃ (t : State) (k : Cmd), exec (.eqrel a b) s = .next t ∧ s.issues t 3 k ∧
          k.body = .eqrel q (v.extractLsb' 32 32).toNat (v.extractLsb' 0 32).toNat) ∧
        (s.takes .acc (.eqcut a b) m → ∃ (t : State) (k : Cmd), exec (.eqcut a b) s = .next t ∧ s.issues t 3 k ∧
          k.body = .eqcut q (v.extractLsb' 32 32).toNat (v.extractLsb' 0 32).toNat)) ∧
      (let r := refOff (s.x d)
       s.takes .acc (.eqpeek d a b) m → s.ctx.status = .live → s.askAt s.fetchPoint = none → s.ownRefBad (s.x d) = false →
        r % 64 = 0 → s.capCheck c 0 1 [tyEgress] (rightsOf [rR]) = none → r + 2048 ≤ 0x180000 → s.padReady r 2048 →
        s.ctx.acc.loads.length < 32 → s.eqBehind s.ctx.job.uid s.units.nextCmd q = false → (s.eq q).tagDue = false →
        ∃ t : State, exec (.eqpeek d a b) s = .next t ∧
          t.ctx.pad = s.ctx.pad.write r ((s.eq q).listing (v.extractLsb' 0 32).toNat s.gts) ∧ t.mem = s.mem ∧
          t.ctx.acc.x = s.ctx.acc.x ∧ t.eq q = s.eq q)) ∧
    (let c := s.c a.toNat
      let k := bankOfWord s.cur.die v
      s.ctx.seq.sup = true → room → c.cursor.toNat % 4096 = 0 → bankWordBad v = false →
      (s.takes .acc (.spill a b) m → s.capCheck c 0 0x301000 [tyData] (rightsOf [rW, rCD]) = none → k ≠ s.cur →
        ∃ (t : State) (x : Cmd), exec (.spill a b) s = .next t ∧ s.issues t 3 x ∧ x.body = .spill (some c) 0 k) ∧
      (s.takes .acc (.fill a b) m → s.capCheck c 0 0x301000 [tyData] (rightsOf [rR, rCS]) = none →
        ∃ (t : State) (x : Cmd), exec (.fill a b) s = .next t ∧ s.issues t 3 x ∧ x.body = .fill (some c) 0 k))

/-! ## The vector engine -/

/-- R288 and R290: the floating instructions on registers or broadcast k registers compute each element exactly in its
type, round it by RND and SAT, in order, and write the destination block under its mask; nothing else changes. -/
def Obligations.VectorFloatingInstructionsComplete : Prop :=
  ∀ (s : State) (o : VB) (m : BitVec 3 × BitVec 2 × Bool),
    s.vecReady → m.2.2 = true → o.kd = 0 → fixedSrc o.ka → fixedSrc o.kb → fixedSrc o.kc →
    let t := o.fn.toNat
    let r : Rnd := { mode := m.1.toNat, finite := m.2.1 == satFinite }
    let col := fun (k : BitVec 2) (x : BitVec 6) (j : Nat) =>
      (elemsOf t ((s.vecArg o.rows o.cols k x).getD j [])).map (typeFmt t).val
    let js := List.range (o.rows * o.cols)
    let res := fun (v : Nat → List (Option FVal)) =>
      overBlocks (fun (j : Nat) g n =>
        let a := roundAll (typeFmt t) r (v j) g n
        (lanesFrom t a.1, a.2)) js (s.generator .vec) s.fresh
    (s.takes .vec (.fadd o) m → s.vecDone (.fadd o) o (res fun j =>
      List.zipWith (fun x y => some (x.add r.down y)) (col o.ka o.a j) (col o.kb o.b j))) ∧
    (s.takes .vec (.fsub o) m → s.vecDone (.fsub o) o (res fun j =>
      List.zipWith (fun x y => some (x.sub r.down y)) (col o.ka o.a j) (col o.kb o.b j))) ∧
    (s.takes .vec (.fmul o) m → s.vecDone (.fmul o) o (res fun j =>
      List.zipWith (fun x y => some (x.mul y)) (col o.ka o.a j) (col o.kb o.b j))) ∧
    (s.takes .vec (.ffma o) m → s.vecDone (.ffma o) o (res fun j =>
      List.zipWith (fun p z => some ((p.1.mul p.2).add r.down z))
        (List.zip (col o.ka o.a j) (col o.kb o.b j)) (col o.kc o.c j))) ∧
    (s.takes .vec (.frcp o) m → s.vecDone (.frcp o) o (res fun j => (col o.ka o.a j).map frcp)) ∧
    (s.takes .vec (.frsq o) m → s.vecDone (.frsq o) o (res fun j => (col o.ka o.a j).map frsq)) ∧
    (s.takes .vec (.fexp2 o) m → s.vecDone (.fexp2 o) o (res fun j => (col o.ka o.a j).map fexp2)) ∧
    (s.takes .vec (.flog2 o) m → s.vecDone (.flog2 o) o (res fun j => (col o.ka o.a j).map flog2)) ∧
    (s.takes .vec (.ftanh o) m → s.vecDone (.ftanh o) o (res fun j => (col o.ka o.a j).map ftanh))

/-- R289, R291 to R296: the instructions on encodings, integers and raw lanes, lane by lane; the destination block takes
the results under its mask, and nothing else changes. -/
def Obligations.VectorLaneInstructionsComplete : Prop :=
  ∀ (s : State) (o : VB) (m : BitVec 3 × BitVec 2 × Bool),
    s.vecReady → m.2.2 = true → o.kd = 0 → fixedSrc o.ka → fixedSrc o.kb → fixedSrc o.kc →
    let A := s.vecArg o.rows o.cols o.ka o.a
    let B := s.vecArg o.rows o.cols o.kb o.b
    let C := s.vecArg o.rows o.cols o.kc o.c
    let writes := fun (i : Instr) (v : List VReg) => s.takes .vec i m →
      exec i s = .next ((s.advance 2).setBlock o.d.toNat o.rows o.cols (s.mreg o.m.toNat) v)
    let each1 := fun (f : Word → Word) => A.map fun v => v.map f
    let each2 := fun (f : Word → Word → Word) => List.zipWith (List.zipWith f) A B
    let each3 := fun (f : Word → Word → Word → Word) => List.zipWith
      (fun ab c => List.zipWith (fun p z => f p.1 p.2 z) ab c) (List.zipWith List.zip A B) C
    let sgn := fnSigned o
    let n := fun (v : Word) => laneInt sgn v
    let sat := satInt m.2.1 32 sgn
    let t := o.fn.toNat
    let f := typeFmt t
    let el := fun (v : VReg) => elemsOf t v
    writes (.fmin o) (List.zipWith (fun a b => lanesFrom t (List.zipWith (fminBits f false) (el a) (el b))) A B) ∧
    writes (.fmax o) (List.zipWith (fun a b => lanesFrom t (List.zipWith (fminBits f true) (el a) (el b))) A B) ∧
    writes (.fabs o) (A.map fun a => lanesFrom t ((el a).map (fabsBits f))) ∧
    writes (.fneg o) (A.map fun a => lanesFrom t ((el a).map (fnegBits f))) ∧
    writes (.iadd o) (each2 fun x y => sat (n x + n y)) ∧
    writes (.isub o) (each2 fun x y => sat (n x - n y)) ∧
    writes (.imul o) (each2 fun x y => if 2 ≤ t then BitVec.ofInt 32 (n x * n y / 2 ^ 32) else sat (n x * n y)) ∧
    writes (.imad o) (each3 fun x y z => sat (n x * n y + n z)) ∧
    writes (.imin o) (each2 fun x y => if n y < n x then y else x) ∧
    writes (.imax o) (each2 fun x y => if n x < n y then y else x) ∧
    writes (.vecAnd o) (each2 fun x y => x &&& y) ∧
    writes (.vecOr o) (each2 fun x y => x ||| y) ∧
    writes (.vecXor o) (each2 fun x y => x ^^^ y) ∧
    writes (.vecShl o) (each2 fun x y => x <<< (y.toNat % 32)) ∧
    writes (.vecShr o) (each2 fun x y => x >>> (y.toNat % 32)) ∧
    writes (.vecSra o) (each2 fun x y => x.sshiftRight (y.toNat % 32)) ∧
    writes (.fshl o) (each3 fun x y z => ((x ++ y) <<< (z.toNat % 32)).extractLsb' 32 32) ∧
    writes (.fshr o) (each3 fun x y z => ((x ++ y) >>> (z.toNat % 32)).extractLsb' 0 32) ∧
    writes (.vecPopc o) (each1 fun x => BitVec.ofNat 32 (oneBits x)) ∧
    writes (.vecClz o) (each1 fun x => BitVec.ofNat 32 (leadingZeros x)) ∧
    writes (.mov o) A ∧
    writes (.sel o) (List.zipWith (fun a b => mergeLanes (s.mreg o.c.toNat) b a) A B) ∧
    ((s.kreg o.c.toNat).toNat < 512 →
      writes (.bcst o) (A.map fun v => List.replicate 512 (v.getD (s.kreg o.c.toNat).toNat 0))) ∧
    writes (.perm o) (List.zipWith (fun a b => b.map fun i => a.getD (i.toNat % 512) 0) A B) ∧
    writes (.rot o) (A.map fun v =>
      v.drop ((s.kreg o.c.toNat).toNat % 512) ++ v.take ((s.kreg o.c.toNat).toNat % 512)) ∧
    (8 ≤ t → writes (.fcmp o)
      (each2 fun x y => if fcmpCond (t % 8) (fp32.val x.toNat) (fp32.val y.toNat) then BitVec.allOnes 32 else 0)) ∧
    (8 ≤ t → writes (.icmp o) (each2 fun x y => if icmpCond (t % 8) x y then BitVec.allOnes 32 else 0))

/-- R285, R291, R294, R295, R301, R302: LOP3's truth table, and the instructions that write a lane mask or push a bit to
bq: a comparison, the logic of MSET, VCMPB. A write of a mask keeps the lanes that m[m] leaves out. -/
def Obligations.VectorMaskInstructionsComplete : Prop :=
  ∀ (s : State) (o : VB) (l : Lop3) (m : BitVec 3 × BitVec 2 × Bool), s.vecReady → m.2.2 = true →
    let mask := fun (i : Instr) (v : BitVec 512) => s.takes .vec i m →
      exec i s = .next { s.advance 2 with
        ctx.vec.m := s.ctx.vec.m.set 0 o.d.toNat ((s.mreg o.d.toNat &&& ~~~(s.mreg o.m.toNat)) ||| (v &&& s.mreg o.m.toNat)) }
    let lane0 := fun (k : BitVec 2) (r : BitVec 6) => (s.vecArg 1 1 k r).getD 0 []
    let a := s.mreg o.a.toNat
    let b := s.mreg o.b.toNat
    (fixedSrc l.ka → fixedSrc l.kb → l.kd = 0 → s.takes .vec (.lop3 l) m →
      let h := l.h.toNat + 1
      let w := l.w.toNat + 1
      exec (.lop3 l) s = .next ((s.advance 2).setBlock l.d.toNat h w (BitVec.allOnes 512)
        (List.zipWith (fun ab c => List.zipWith (fun p z => truthTable l.tt p.1 p.2 z) ab c)
          (List.zipWith List.zip (s.vecArg h w l.ka l.a) (s.vecArg h w l.kb l.b)) (s.vecArg h w 0 l.c)))) ∧
    (fixedSrc o.ka → fixedSrc o.kb → o.fn.toNat < 8 →
      mask (.fcmp o) (BitVec.ofNat 512 (maskBits (List.zipWith
        (fun x y => fcmpCond (o.fn.toNat % 8) (fp32.val x.toNat) (fp32.val y.toNat)) (lane0 o.ka o.a) (lane0 o.kb o.b)))) ∧
      mask (.icmp o) (BitVec.ofNat 512 (maskBits (List.zipWith (icmpCond (o.fn.toNat % 8)) (lane0 o.ka o.a) (lane0 o.kb o.b))))) ∧
    (o.fn = 0 → fixedSrc o.ka → mask (.mset o) (BitVec.ofNat 512 (maskBits ((lane0 o.ka o.a).map (· != 0))))) ∧
    (o.fn = 1 → mask (.mset o) (a &&& b)) ∧ (o.fn = 2 → mask (.mset o) (a ||| b)) ∧ (o.fn = 3 → mask (.mset o) (a ^^^ b)) ∧
    (o.fn = 4 → mask (.mset o) (a &&& ~~~b)) ∧ (o.fn = 5 → mask (.mset o) (~~~a)) ∧
    (o.fn = 6 → mask (.mset o) (BitVec.ofNat 512 (2 ^ min (s.kreg o.c.toNat).toNat 512 - 1))) ∧
    (s.ctx.bq.producer = some .vec → s.ctx.bq.bits.length < 16 → s.takes .vec (.vcmpb o) m →
      ∃ t : State, exec (.vcmpb o) s = .next t ∧
        t.ctx.bq.bits = s.ctx.bq.bits ++ [if o.fn = 0 then a &&& s.mreg o.m.toNat != 0
          else if o.fn = 1 then a &&& s.mreg o.m.toNat == s.mreg o.m.toNat else a &&& s.mreg o.m.toNat == 0] ∧
        t.ctx.vec = s.ctx.vec ∧ t.ctx.acc = s.ctx.acc ∧ t.ctx.dq = s.ctx.dq ∧ t.ctx.pad = s.ctx.pad ∧ t.mem = s.mem ∧
        t.hold .vec = {})

/-- R297 to R300: CVT converts lane by lane; RSUM, RMAX and RMIN put the reduction of each register, taken over the lanes
of a mask, into all its lanes; SCAN puts there the prefix sums. -/
def Obligations.VectorConversionsAndReductionsComplete : Prop :=
  ∀ (s : State) (o : VB) (m : BitVec 3 × BitVec 2 × Bool),
    s.vecReady → m.2.2 = true → o.kd = 0 → fixedSrc o.ka → fixedSrc o.kb →
    let f := o.fn.toNat
    let r : Rnd := { mode := m.1.toNat, finite := m.2.1 == satFinite }
    let A := s.vecArg o.rows o.cols o.ka o.a
    let B := s.vecArg o.rows o.cols o.kb o.b
    let g := s.generator .vec
    let js := List.range (o.rows * o.cols)
    let fill := fun (x : Word) (v : VReg) => maskedLanes (s.mreg o.c.toNat) x v
    (s.takes .vec (.cvt o) m → s.vecDone (.cvt o) o
      (if f = 2 ∨ f = 3 then overBlocks (fun (j : Nat) g n =>
          let a := intAll (f == 2) (m.2.1 == satWrap) r ((A.getD j []).map fun x => fp32.val x.toNat) g
          (lanesFrom 0 a.1, a.2, n)) js g s.fresh
        else overBlocks (fun (j : Nat) g n =>
          let a := roundAll (if f = 4 then bf16 else if f = 5 then fp16 else fp32) r (cvtVals f (A.getD j []) (B.getD j [])) g n
          (lanesFrom (if f = 4 ∨ f = 5 then 1 else 0) a.1, a.2)) js g s.fresh)) ∧
    (s.takes .vec (.rsum o) m → s.vecDone (.rsum o) o
      (if f % 2 = 1 then (A.map fun v => List.replicate 512 ((fill 0 v).foldl (· + ·) 0), g, s.fresh)
        else overBlocks (fun (v : VReg) g n =>
          let a := treeSum r 9 ((fill 0 v).map (·.toNat)) g n
          (List.replicate 512 (BitVec.ofNat 32 (a.1.getD 0 0)), a.2)) A g s.fresh)) ∧
    (s.takes .vec (.rmax o) m → s.vecDone (.rmax o) o
      (A.map fun v => List.replicate 512 ((reduceTree (reducePick o true) 9 (fill (reduceFill o true) v)).getD 0 0), g, s.fresh)) ∧
    (s.takes .vec (.rmin o) m → s.vecDone (.rmin o) o
      (A.map fun v => List.replicate 512 ((reduceTree (reducePick o false) 9 (fill (reduceFill o false) v)).getD 0 0), g, s.fresh)) ∧
    (s.takes .vec (.scan o) m → s.vecDone (.scan o) o
      (if f % 2 = 1 then (A.map fun v => (scanInts (fill 0 v) 0).map fun p => if 2 ≤ f then p.1 else p.2, g, s.fresh)
        else overBlocks (fun (v : VReg) g n =>
          let a := scanSums r ((fill 0 v).map (·.toNat)) 0x80000000 g
          (a.1.map fun p => BitVec.ofNat 32 (if 2 ≤ f then p.1 else p.2), a.2, n)) A g s.fresh))

/-- R29, R303 to R306: LDT of the scratchpad, of an L2 slice, and of a stream whose blocks have been filled: its landing
waits for its delay, less the issue cycles of the LDT itself, and then its registers are written. -/
def Obligations.LoadToVectorLands : Prop :=
  ∀ (s : State) (o : Ldt) (m : BitVec 3 × BitVec 2 × Bool),
    s.vecReady → m.2.2 = true → s.late = false → s.takes .vec (.ldt o) m →
    let h := o.h.toNat + 1
    let w := o.w.toNat + 1
    let n := h * w
    let lands := fun (d : List VReg) => ∃ t : State, exec (.ldt o) s = .next t ∧
      (o.dly.toNat + 1 ≤ n → t.ctx.vec.slots = [] ∧
        t.ctx.vec.v = (s.setBlock o.d.toNat h w (s.mreg o.m.toNat) d).ctx.vec.v) ∧
      (n < o.dly.toNat + 1 → t.ctx.vec.v = s.ctx.vec.v ∧ ∃ l : Landing, t.ctx.vec.slots = [l] ∧ l.base = o.d.toNat ∧
        l.h = h ∧ l.w = w ∧ l.mask = s.mreg o.m.toNat ∧ l.data = some d ∧ l.failed = none ∧ l.rem = o.dly.toNat + 1 - n) ∧
      t.mem = s.mem ∧ t.ctx.pad = s.ctx.pad ∧ t.ctx.acc.x = s.ctx.acc.x ∧ t.ctx.vec.m = s.ctx.vec.m
    (let v := (s.kreg o.a.toNat).setWidth 64
     o.fn = 0 → o.ka = 3 → s.ownRefBad v = false → refOff v % 64 = 0 → refOff v + 2048 * n ≤ 0x180000 →
      s.padReady (refOff v) (2048 * n) → s.padBadIn (refOff v) (2048 * n) = none →
      lands (blockRows n (s.ctx.pad.read (refOff v) (2048 * n)))) ∧
    (let v := s.kreg (o.a.toNat + 1) ++ s.kreg o.a.toNat
     o.fn = 1 → o.ka = 3 → l2RefBad v = false → l2Off v % 64 = 0 → s.l2Check v 0 (2048 * n) = none →
      lands (blockRows n (s.l2.read (2 ^ 23 * l2Slice v + l2Off v) (2048 * n)))) ∧
    (let i := s.stream o.a.toNat
     o.fn = 2 → i.st = .run → i.desc.out = false → i.desc.engn = 2 → i.desc.fmt < 8 → i.done + n ≤ i.desc.blocks →
      n ≤ i.buf.length → lands ((i.buf.take n).map fun b => lanesOf 512 b.bytes))

/-- R23 to R25, R194, R264, R286: a VEC instruction pops the blocks of its queue operands in order and pushes its result to
a queue, shown on MOV, AND and PERM: one entry for each register of the block, with zeros in the lanes that the mask leaves
out. -/
def Obligations.VectorQueueOperandsPopAndPush : Prop :=
  ∀ (s : State) (o : VB) (m : BitVec 3 × BitVec 2 × Bool) (e : Engine),
    s.vecReady → m.2.2 = true → o.rows = 1 → o.cols = 1 → o.kd = 2 → o.ka = 2 → (o.kb = 0 ∨ o.kb = 3) → o.d ≠ o.a →
    (s.dataQ o.a.toNat).bind = some (e, .vec) → (s.dataQ o.d.toNat).bind = some (.vec, e) →
    (s.dataQ o.d.toNat).hasRoom = true → ∀ v r, (s.dataQ o.a.toNat).entries = v :: r →
    let out := fun (x : VReg) => laneBytes (mergeLanes (s.mreg o.m.toNat) VReg.zero x)
    let x := lanesOf 512 v
    let y := (s.vecArg 1 1 o.kb o.b).getD 0 []
    (∀ i ∈ [(Instr.mov o, fun a _ => a), (.vecAnd o, fun a b => List.zipWith (fun x y => x &&& y) a b),
        (.perm o, fun a b => b.map fun i => a.getD (i.toNat % 512) 0)], s.takes .vec i.1 m →
      ∃ t : State, exec i.1 s = .next t ∧
        t.dataQ o.a.toNat = { s.dataQ o.a.toNat with entries := r } ∧
        t.dataQ o.d.toNat = (s.dataQ o.d.toNat).put (out (i.2 x y)) ∧
        (∀ q : Nat, q ≠ o.a.toNat → q ≠ o.d.toNat → t.dataQ q = s.dataQ q) ∧
        t.ctx.vec = s.ctx.vec ∧ t.ctx.acc = s.ctx.acc ∧ t.mem = s.mem ∧ t.ctx.pad = s.ctx.pad ∧ t.hold .vec = {})

/-! ## The matrix engine -/

/-- R311, R313, R323, R325 to R327, R335, R336: the instructions of MAT that read no tile. SHAPE, RINGDEF and MZERO set
an accumulator or a ring; MSCL scales one; MDRAIN, ROWST and MSTAT write a block; RSKIP pops tiles. -/
def Obligations.MatrixShapesRingsAndOutputs : Prop :=
  ∀ (s : State) (acc ofmt : BitVec 2) (ra ring kb : BitVec 3) (f g : BitVec 1) (fa fb kta ktb k fmt : BitVec 4) (mm nn : BitVec 7)
    (d sl : BitVec 5) (base : BitVec 10) (rows : BitVec 8) (m : BitVec 3 × BitVec 2 × Bool), m.2.2 = true →
    let v := s.mat acc
    let r : Rnd := { mode := m.1.toNat, finite := m.2.1 == satFinite }
    let gen := s.generator .mat
    let left := fun (t : State) (x : Word) => t.generator .mat = if r.stochastic then x else gen
    (s.takes .mat (.shape acc f fb fa mm nn kb kta ktb) m →
      exec (.shape acc f fb fa mm nn kb kta ktb) s = .next ((s.advance 2).setMat acc
        (MatAcc.ofShape f fb fa mm nn kb (s.kreg kta.toNat) (s.kreg ktb.toNat)))) ∧
    (let old := s.ring ring.toNat
      let new : TileRing := if f = 1 then {} else
        { defined := true, fmt := fmt.toNat, base := base.toNat, slots := sl.toNat + 1, rows := rows.toNat + 1, kb := kb.toNat + 1 }
      s.takes .mat (.ringdef ring f fmt base sl rows kb) m →
      (old.defined = true → old.filled = [] ∧ old.part = none ∧ s.pump ring.toNat = none) →
      (f = 0 → ∀ j < 8, j ≠ ring.toNat → (s.ring j).defined = true → new.overlaps (s.ring j) = false) →
      exec (.ringdef ring f fmt base sl rows kb) s = .next ((s.advance 2).setRing ring.toNat new)) ∧
    (s.takes .mat (.mzero acc) m → v.valid = true → exec (.mzero acc) s = .next ((s.advance 1).setMat acc v.cleared)) ∧
    (let x := if f = 1 then (rowsOf v.m v.n v.elems).zipIdx.flatMap fun y => y.1.map fun c =>
          (fp32.val c.toNat).div (fp32.val (v.lOf y.2).toNat)
        else v.elems.map fun c => (v.exact c).mul (fp32.val (s.kreg k.toNat).toNat)
      let q := roundList fp32 r x gen
      s.takes .mat (.mscl acc f k) m → v.valid = true → (f = 1 → v.int = false) →
      ∃ t : State, exec (.mscl acc f k) s = .next t ∧
        s.matDone t acc { v with int := false, elems := q.1.map (BitVec.ofNat 32) } s 0 ∧ left t q.2) ∧
    (let a := roundAll (fmtOf (drainFmt ofmt)) r (v.elems.map fun c => some (v.exact c)) gen s.fresh
      let out := if ofmt = 3 then v.elems.map (·.toNat) else a.1
      let l := toBlocks (numberBytes (drainBytes ofmt) out)
      s.takes .mat (.mdrain acc f ofmt d) m → v.valid = true → (ofmt = 3 → v.int = true) →
      s.accepts .mat (outDest d) [drainFmt ofmt] l.length →
      ∃ t : State, exec (.mdrain acc f ofmt d) s = .next t ∧ s.pushed t (outDest d) l ∧ s.onlyBlocks t (outDest d) ∧
        t.mat acc = (if f = 1 then v.zeroed else v) ∧ (ofmt ≠ 3 → left t a.2.1 ∧ t.fresh = a.2.2)) ∧
    (let b := numberBytes 4 (((List.range 128).map fun r => if r < v.m then (v.mOf r).toNat else negInf.toNat)
        ++ (List.range 128).map fun r => if r < v.m then (v.lOf r).toNat else 0)
     s.takes .mat (.rowst acc ra g 0 d) m → v.valid = true → s.accepts .mat (outDest d) [0] 1 →
      ∃ t : State, exec (.rowst acc ra g 0 d) s = .next t ∧ s.pushed t (outDest d) [{ bytes := entry b }] ∧
        s.onlyBlocks t (outDest d) ∧ t.ctx.mat = s.ctx.mat) ∧
    (s.takes .mat (.mstat f d) m → s.accepts .mat (outDest d) [7] 1 →
      ∃ t : State, exec (.mstat f d) s = .next t ∧ s.pushed t (outDest d) [{ bytes := entry s.matStatus }] ∧
        s.onlyBlocks t (outDest d) ∧
        t.ctx.mat = if f = 1 then { s.ctx.mat with macs := 0, rwait := 0, hwait := 0 } else s.ctx.mat) ∧
    (let q := s.ring ra.toNat
      let n := sl.toNat + 1
      s.takes .mat (.rskip ra sl) m → q.defined = true → n ≤ q.filled.length →
      ∃ t : State, exec (.rskip ra sl) s = .next t ∧
        t.ring ra.toNat = { q with head := (q.head + n) % max 1 q.slots, filled := q.filled.drop n } ∧
        (∀ j : Nat, j ≠ ra.toNat → t.ring j = s.ring j) ∧ t.ctx.mat.acc = s.ctx.mat.acc ∧ s.noBlocks t)

/-- R309, R315, R318 to R322, R324, R335: products and sums of head tiles: MMA and MMAT with the operands by rows or by
columns, in block steps, as integers or rounded by RND and SAT; MADD; ROWST's load. The tiles are popped unless they are
kept, and nothing else changes. -/
def Obligations.MatrixProductsComplete : Prop :=
  ∀ (s : State) (acc : BitVec 2) (ra rb : BitVec 3) (zero keepb keepa : BitVec 1) (d : BitVec 5) (m : BitVec 3 × BitVec 2 × Bool),
    m.2.2 = true →
    let v := s.mat acc
    v.valid = true →
    let c := if zero = 1 then v.zeroed else v
    let k := 32 * v.kb
    let r : Rnd := { mode := m.1.toNat, finite := m.2.1 == satFinite }
    let left := fun (t : State) (x : Word) => t.generator .mat = if r.stochastic then x else s.generator .mat
    let ta := s.tile ra.toNat
    let tb := s.tile rb.toNat
    let z := FVal.zero false
    let product := fun (t : State) (a b : List (List FVal)) =>
      let q := productSteps r a b v.kb 0 (c.elems.map (·.toNat), s.generator .mat)
      s.matDone t acc { c with elems := q.1.map (BitVec.ofNat 32) } (s.popTiles ra.toNat rb.toNat keepa keepb) (v.mg * v.ng * k) ∧
        left t q.2
    let xa := ta.vals v.smode v.ta (s.tableOf s.ctx.qnt.active)
    let xb := tb.vals v.smode v.tb (s.tableOf s.ctx.qnt.active)
    let intProduct := fun (t : State) (a b : List (List Int)) =>
      s.matDone t acc { c with elems := intSteps m.2.1 a b v.kb 0 c.elems } (s.popTiles ra.toNat rb.toNat keepa keepb) (v.mg * v.ng * k)
    (s.takes .mat (.mma acc ra rb zero keepb keepa) m → s.tileReady ra.toNat [v.fa] v.m k → s.tileReady rb.toNat [v.fb] v.n k →
      ta.corrupt ra.toNat = none → tb.corrupt rb.toNat = none →
      (v.int = false → ∃ t : State, exec (.mma acc ra rb zero keepb keepa) s = .next t ∧
        product t (rowsOf v.m k xa) (rowsOf v.n k xb)) ∧
      (v.int = true → m.1 = 0 → ∃ t : State, exec (.mma acc ra rb zero keepb keepa) s = .next t ∧
        intProduct t (rowsOf v.m k ta.ints) (rowsOf v.n k tb.ints))) ∧
    (s.takes .mat (.mmat acc ra rb zero keepb keepa) m → s.tileReady ra.toNat [v.fa] k v.m → s.tileReady rb.toNat [v.fb] k v.n →
      ta.corrupt ra.toNat = none → tb.corrupt rb.toNat = none →
      (v.int = false → ∃ t : State, exec (.mmat acc ra rb zero keepb keepa) s = .next t ∧
        product t (columnsOf z v.m (rowsOf k v.m xa)) (columnsOf z v.n (rowsOf k v.n xb))) ∧
      (v.int = true → m.1 = 0 → ∃ t : State, exec (.mmat acc ra rb zero keepb keepa) s = .next t ∧
        intProduct t (columnsOf 0 v.m (rowsOf k v.m ta.ints)) (columnsOf 0 v.n (rowsOf k v.n tb.ints)))) ∧
    (let q := roundList fp32 r (List.zipWith (fun (c : Word) y => (fp32.val c.toNat).add r.down y) v.elems
        (ta.vals false 0 fun _ => [])) (s.generator .mat)
     s.takes .mat (.madd acc ra keepa) m → v.int = false → s.tileReady ra.toNat [0, 2] v.m v.n →
      ∃ t : State, exec (.madd acc ra keepa) s = .next t ∧ left t q.2 ∧
        s.matDone t acc { v with elems := q.1.map (BitVec.ofNat 32) } (s.popTiles ra.toNat ra.toNat keepa keepa) 0) ∧
    (s.takes .mat (.rowst acc ra keepa 1 d) m → s.tileReady ra.toNat [0] 2 128 →
      ∃ t : State, exec (.rowst acc ra keepa 1 d) s = .next t ∧
        s.matDone t acc (v.loadRows (numbersOf 4 256 ta.bytes)) (s.popTiles ra.toNat ra.toNat keepa keepa) 0)

/-- R328 to R334, R337: ATTS, ATTV and ATTM whose hold can begin at once and whose record can be read: ATTS updates the
row statistics and the score buffer, ATTV adds the weighted values, ATTM adds one mass to the record of each live token,
where the home engines hold its lines, and no other byte of memory changes; where answers come later, it leaves its additions
to the home engines and waits. -/
def Obligations.AttentionInstructionsComplete : Prop :=
  ∀ (s : State) (acc : BitVec 2) (ra rb : BitVec 3) (nov keepb keepa : BitVec 1) (ks kh : BitVec 4) (live : Nat)
    (m : BitVec 3 × BitVec 2 × Bool), m.2.2 = true →
    let v := s.mat acc
    let h := s.kreg (kh.toNat + 1) ++ s.kreg kh.toNat
    let sigma := valOf (s.kreg ks.toNat)
    let qs := (s.tile ra.toNat).rowVals v.m v.n
    let keys := (s.tile rb.toNat).rowVals 64 v.n
    v.valid = true → v.attends = true → s.attentionFree h → s.tileReady rb.toNat [v.fb] 64 v.n →
    (∀ r, (s.ring rb.toNat).filled.head? = some r → s.takes .mat (.atts acc ra rb nov keepb keepa ks kh) m →
      (nov = 0 → v.sbv = false) → s.tileReady ra.toNat [v.fa] v.m v.n → s.recordLive r [rR] live →
      ∃ t : State, exec (.atts acc ra rb nov keepb keepa ks kh) s = .next t ∧
        s.matDone t acc (v.scored s.fresh live (nov == 1) sigma qs keys) (s.popTiles ra.toNat rb.toNat keepa keepb)
          (v.mg * 64 * v.n) ∧ t.askAt s.fetchPoint = none) ∧
    (s.takes .mat (.attv acc rb keepb kh) m → v.sbv = true →
      ∃ t : State, exec (.attv acc rb keepb kh) s = .next t ∧
        s.matDone t acc (v.attended keys) (s.popTiles rb.toNat rb.toNat keepb keepb) (v.mg * 64 * v.n) ∧
        t.askAt s.fetchPoint = none) ∧
    (∀ r, (s.ring rb.toNat).filled.head? = some r → s.takes .mat (.attm acc ra rb keepb keepa ks kh) m →
      s.ctx.job.task = false → s.tileReady ra.toNat [v.fa] v.m v.n → s.recordLive r [rR, rAT] live →
      (live = 0 → ∃ t : State, exec (.attm acc ra rb keepb keepa ks kh) s = .next t ∧
        s.matDone t acc v (s.popTiles ra.toNat rb.toNat keepa keepb) (v.mg * 64 * v.n) ∧ t.askAt s.fetchPoint = none) ∧
      (∀ a, 0 < live → s.late = false → (∀ i < live, s.locate r.cap (r.massAt i) = .at (a + 4 * i) ∧ s.reachable (a + 4 * i) ∧
          packageOf (a + 4 * i) = s.myPkg ∧ (s.home (homeOf (a + 4 * i))).has (a + 4 * i) = true ∧
          s.badIn ((a + 4 * i) / 128 * 128) 128 = none ∧ s.follows r.cap (r.massAt i) 4 = false) →
        ∃ t : State, exec (.attm acc ra rb keepb keepa ks kh) s = .next t ∧ t.mat acc = v ∧
          (∀ g : Nat, t.ring g = (s.popTiles ra.toNat rb.toNat keepa keepb).ring g) ∧ t.askAt s.fetchPoint = none ∧
          (∀ i < live, bytesToNat (t.mem.read (a + 4 * i) 4) = atomNew atomF 4 (bytesToNat (s.mem.read (a + 4 * i) 4))
            (v.massOf (s.fresh + 128 * i) sigma qs (keys.getD i [])).toNat 0) ∧
          (∀ k, (k < a ∨ a + 4 * live ≤ k) → t.mem.get k = s.mem.get k) ∧ t.ctx.pad = s.ctx.pad ∧ t.ctx.vec = s.ctx.vec ∧
          t.ctx.acc.x = s.ctx.acc.x ∧ t.ctx.acc.c = s.ctx.acc.c) ∧
      (0 < live → s.late = true → ∃ (t : State) (c : Cmd), exec (.attm acc ra rb keepb keepa ks kh) s = .next t ∧
        t.units.cmds = s.units.cmds ++ [c] ∧ (s.queue .mat).length + 1 = (t.queue .mat).length ∧ t.mem = s.mem ∧
        c.body = .mass r.cap ((List.range live).map fun i =>
          (r.massAt i, v.massOf (s.fresh + 128 * i) sigma qs (keys.getD i [])))))

/-! ## The index engine -/

/-- R343 to R351: the signature stage. SIGCFG loads the seeds, SIGH hashes rows, BKT forms the buckets, REPSEL chooses the
representatives, REPGAT writes them, REPSCAT spreads rows over the members, MEMB reads and loads the membership, MEMBA adds
the rows of each bucket. -/
def Obligations.SignatureStageCompletes : Prop :=
  ∀ (s : State) (rowf : BitVec 1) (nh w : BitVec 4) (a d n bwid : BitVec 5) (rule : BitVec 2)
    (m : BitVec 3 × BitVec 2 × Bool), m.2.2 = true →
    let x := s.ctx.idx
    let raw := List.range 8
    let bf := rowf == 1
    let rw := 32 * (w.toNat + 1)
    let fmts := fun (b : Bool) => if b then [2] else [0]
    (∀ b, s.takes .idx (.sigcfg rowf nh a w bwid) m → s.idxGives a raw [b] →
      s.idxOnly (.sigcfg rowf nh a w bwid) [(a, 1)] { x with
        nh := nh.toNat + 1, w := rw, rowf := bf, bwid := bwid.toNat + 1, seeds := b.take 1024
        rc := 0, nb := 0, bv := false, repv := false }) ∧
    (∀ b, s.takes .idx (.sigh a n) m → n.toNat + 1 ≤ rowsPer x.w x.rowf → x.rc + n.toNat + 1 ≤ 1024 →
      s.idxGives a (fmts x.rowf) [b] →
      s.idxOnly (.sigh a n) [(a, 1)] (x.hash ((unpackRows x.w x.rowf (n.toNat + 1) [b]).map (rowVals x.w x.rowf)))) ∧
    (s.takes .idx .bkt m → s.idxOnly .bkt [] x.bucketed) ∧
    (∀ l : List Bytes, s.takes .idx (.repsel a rule) m → x.bv = true → l.length = rowBlocks x.w x.rowf x.rc → l.length ≤ 16 →
      (a.toNat < 16 → a.toNat + l.length ≤ 16) → s.idxGives a (fmts x.rowf) l →
      let reps := (List.range x.nb).map (x.representative rule.toNat (unpackRows x.w x.rowf x.rc l))
      s.idxOnly (.repsel a rule) [(a, l.length)] { x with repbuf := reps.map (·.1), repidx := reps.map (·.2), repv := true }) ∧
    (let l := packRows x.w x.rowf (x.repbuf.take x.nb)
     s.takes .idx (.repgat d) m → x.repv = true → x.repbuf.length = x.nb → l.length ≤ 4 → (d.toNat < 16 → d.toNat + l.length ≤ 16) →
      s.idxRoom d (fmts x.rowf) l.length → s.idxDone (.repgat d) [] d l x) ∧
    (∀ l : List Bytes, let out := packRows rw bf ((List.range x.rc).map fun r => (unpackRows rw bf x.nb l).getD (x.bid.get 0 r) [])
      s.takes .idx (.repscat d a rowf w) m → x.bv = true → l.length = rowBlocks rw bf x.nb → l.length ≤ 16 → out.length ≤ 4 →
      (a.toNat < 16 → a.toNat + l.length ≤ 16) → (d.toNat < 16 → d.toNat + out.length ≤ 16) → apart d a →
      s.idxGives a (fmts bf) l → s.idxRoom d (fmts bf) out.length →
      s.idxDone (.repscat d a rowf w) [(a, l.length)] d out x) ∧
    (∀ b, let l := (numbersOf 2 1024 b).takeWhile (· != 0xFFFF)
      s.takes .idx (.memb d a 2) m → s.idxGives a raw [b] → badEntry l 0 0 = none →
      s.idxOnly (.memb d a 2) [(a, 1)] (x.loadMap l)) ∧
    (s.takes .idx (.memb d a 0) m → x.bv = true → s.idxRoom d raw 1 →
      s.idxDone (.memb d a 0) [] d [mapBlock ((List.range x.rc).map (x.bid.get 0))] x) ∧
    (s.takes .idx (.memb d a 1) m → x.repv = true → s.idxRoom d raw 1 →
      s.idxDone (.memb d a 1) [] d [mapBlock (x.repidx.take x.nb)] x) ∧
    (∀ l : List Bytes, let rows := unpackRows rw bf x.rc l
      let out := packRows rw false ((List.range x.nb).map fun b => sumRows rw bf ((x.members b).map fun r => rows.getD r []))
      s.takes .idx (.memba d a rowf w) m → x.bv = true → l.length = rowBlocks rw bf x.rc → l.length ≤ 16 → out.length ≤ 4 →
      (a.toNat < 16 → a.toNat + l.length ≤ 16) → (d.toNat < 16 → d.toNat + out.length ≤ 16) → apart d a →
      s.idxGives a (fmts bf) l → s.idxRoom d [0] out.length →
      s.idxDone (.memba d a rowf w) [(a, l.length)] d out x)

/-- R352 to R360: moves, counts, bitmaps, sparse products and merges. ISECT gives the common coordinates of two ascending
lists and UNION those of either, in ascending order, filled up with end markers. -/
def Obligations.BitmapsProductsAndMergesComplete : Prop :=
  ∀ (s : State) (d a b : BitVec 5) (form : BitVec 2) (m : BitVec 3 × BitVec 2 × Bool), m.2.2 = true →
    let x := s.ctx.idx
    let raw := List.range 8
    (∀ u, s.takes .idx (.ixld d a) m → s.idxGives a raw [u] → s.idxDone (.ixld d a) [(a, 1)] d [u] x) ∧
    (∀ u, s.takes .idx (.ixst d a) m → s.idxGives a raw [u] → s.idxRoom d raw 1 → s.idxDone (.ixst d a) [] d [u] x) ∧
    (s.takes .idx (.ixmov d a form) m → (form = 0 → x.bad.contains a.toNat = false) →
      s.idxDone (.ixmov d a form) [] d [if form = 0 then s.yreg a.toNat else List.replicate 2048 (if form = 1 then 0 else 0xFF)] x) ∧
    (∀ u v, s.idxGives a raw [u] → s.idxGives b raw [v] → s.idxRoom d raw 1 → apart a b → apart d a → apart d b →
      (s.takes .idx (.bmand d a b) m → s.idxDone (.bmand d a b) [(a, 1), (b, 1)] d
        [numberBytes 4 (padTo 512 0 (((wordsOf u).zipWith (· &&& ·) (wordsOf v)).take x.nw))] x) ∧
      (s.takes .idx (.bmor d a b) m → s.idxDone (.bmor d a b) [(a, 1), (b, 1)] d
        [numberBytes 4 (padTo 512 0 (((wordsOf u).zipWith (· ||| ·) (wordsOf v)).take x.nw))] x)) ∧
    (∀ u, s.takes .idx (.bmpfx d a) m → s.idxGives a raw [u] → s.idxRoom d raw 1 → apart d a →
      s.idxDone (.bmpfx d a) [(a, 1)] d [numberBytes 4 (offsetsOf x.nw (wordsOf u) 0 0)] x) ∧
    (∀ u, s.takes .idx (.ixcnt d a 0) m → s.idxGives a raw [u] → s.idxRoom d raw 1 → apart d a →
      s.idxDone (.ixcnt d a 0) [(a, 1)] d [natToBytes 4 (popUsed x.nw u)] x) ∧
    (s.takes .idx (.ixcnt d a 1) m → s.idxRoom d raw 1 → s.idxDone (.ixcnt d a 1) [] d [x.statBlock] x) ∧
    (s.takes .idx (.ixcnt d a 2) m → 1 ≤ (s.kreg a.toNat).toNat → (s.kreg a.toNat).toNat ≤ 512 →
      s.idxOnly (.ixcnt d a 2) [] { x with nw := (s.kreg a.toNat).toNat }) ∧
    (∀ u, s.takes .idx (.ixcnt d a 3) m → s.idxGives a raw [u] → s.ctx.bq.producer = some .idx → s.ctx.bq.bits.length < 16 →
      ∃ t : State, exec (.ixcnt d a 3) s = .next t ∧ s.idxTook t a 1 ∧
        t.ctx.bq.bits = s.ctx.bq.bits ++ [decide (0 < popUsed x.nw u)] ∧ t.ctx.idx = x ∧ t.mem = s.mem ∧ t.ctx.vec = s.ctx.vec) ∧
    (∀ q, let group := fun (n : Nat) => ({ bits := wordsOf (s.yreg n), offs := wordsOf (s.yreg (n + 1)), data := s.yreg (n + 2) } : SpVec)
      s.takes .idx (.spdot d a b form) m →
      (∀ i < 3, x.bad.contains (a.toNat + i) = false ∧ x.bad.contains (b.toNat + i) = false) →
      spWords form.toNat (group a.toNat) (group b.toNat) x.nw 0 {} = .ok q → s.idxRoom d raw 1 →
      s.idxDone (.spdot d a b form) [] d [numberBytes 4 [q.acc, q.np, q.nw]]
        { x with spdw := BitVec.ofNat 64 (min (x.spdw.toNat + q.empty) (2 ^ 64 - 1)) }) ∧
    (∀ A B : List Nat, ∀ u v : Bytes, wordsOf u = padTo 512 0xFFFFFFFF A → wordsOf v = padTo 512 0xFFFFFFFF B →
      A.length < 512 → B.length < 512 → A.Pairwise (· < ·) → B.Pairwise (· < ·) → (∀ y ∈ A ++ B, y < 0xFFFFFFFF) →
      s.idxGives a raw [u] → s.idxGives b raw [v] → s.idxRoom d raw 1 → a ≠ b → d ≠ a → d ≠ b →
      ∀ out : List Nat, out.Pairwise (· < ·) → out.length < 512 →
      (s.takes .idx (.isect d a b) m → (∀ y, y ∈ out ↔ y ∈ A ∧ y ∈ B) →
        s.idxDone (.isect d a b) [(a, 1), (b, 1)] d [numberBytes 4 (padTo 512 0xFFFFFFFF out)] { x with nout := out.length }) ∧
      (s.takes .idx (.union d a b) m → (∀ y, y ∈ out ↔ y ∈ A ∨ y ∈ B) →
        s.idxDone (.union d a b) [(a, 1), (b, 1)] d [numberBytes 4 (padTo 512 0xFFFFFFFF out)] { x with nout := out.length }))

/-! ## The converter engine -/

/-- R265 to R270, R274 to R276: the transforms, the quantising stores and the conversions of QNT on blocks that their
operands supply: the results go to the destination, the counters and the carry change as the rules say, nothing else does. -/
def Obligations.ConversionsComplete : Prop :=
  ∀ (s : State) (d a b : BitVec 5) (n clr : BitVec 1) (blk : BitVec 7) (ifmt hadn : BitVec 2) (o3 : BitVec 3)
    (m : BitVec 3 × BitVec 2 × Bool), m.2.2 = true → a ≠ d →
    let x := s.ctx.qnt
    let r : Rnd := { mode := m.1.toNat, finite := m.2.1 == satFinite }
    let g := s.generator .qnt
    let left := fun (w : Word) => if r.stochastic then w else g
    let k := fp32.val (s.kreg b.toNat).toNat
    let src := outDest a
    let dst := outDest d
    let nb := blk.toNat + 1
    (∀ u : Block, s.supplies .qnt src [0] [u] → s.accepts .qnt dst [0] 1 →
      let h := fun (c : Nat) => hadamard r c (if n = 1 then 32 else 16) (numbersOf 4 512 u.bytes) g
      (s.takes .qnt (.had d a n) m →
        s.qntDone (.had d a n) (some (src, 1)) dst (toBlocks (numberBytes 4 (h 4).1)) x (left (h 4).2)) ∧
      (s.takes .qnt (.hadw d a n) m → let c := if n = 1 then 8 else 4
        s.qntDone (.hadw d a n) (some (src, 1)) dst (toBlocks (numberBytes 4 (h c).1)) x (left (h c).2))) ∧
    (∀ l : List Block, l.length = (nb * 32 * qelemBytes ifmt.toNat + 2047) / 2048 → s.supplies .qnt src [ifmt.toNat] l →
      s.accepts .qnt (.stream d.toNat) [8, 9] 1 →
      let mx := (s.stream d.toNat).desc.fmt == 8
      let modeB := x.hmode && !mx
      let absent := headerOf mx (if modeB then 0x38 else 0) 0
      let blocks := fun (cands : List (Nat × List Nat)) =>
        (chunks 32 nb (qstVals ifmt.toNat hadn.toNat (32 * nb) l)).map (storeBlock mx modeB k cands)
      let stored := fun (i : Instr) (cands : List (Nat × List Nat)) => ∀ q : List Stored,
        blocks cands = q.map some → s.takes .qnt i m → s.qntDone i (some (src, l.length)) (.stream d.toNat)
          [{ bytes := entry (q.flatMap (·.payload)), hdrs := q.flatMap (·.hdr) ++ (List.replicate (128 - nb) absent).flatten }]
          (q.foldl QntSt.count x) g
      stored (.qst d a b blk ifmt hadn) (if mx then [(0, [])] else s.enabled x.active) ∧
      stored (.qstm d a b blk ifmt hadn o3) (if mx then [(0, [])] else [(o3.toNat, s.tableOf x.active o3.toNat)])) ∧
    (∀ u : Block,
      let mx := (s.stream a.toNat).desc.fmt == 8
      let hb := if mx then 1 else 2
      s.takes .qnt (.deq d a b blk ifmt) m → s.supplies .qnt (.stream a.toNat) [8, 9] [u] → u.hdrs.length = 128 * hb →
      let vals := (List.range nb).flatMap fun j =>
        blockVals mx x.hmode k (s.tableOf x.active) ((u.hdrs.drop (hb * j)).take hb) ((u.bytes.drop (16 * j)).take 16)
      let q := roundAll (qelemFmt ifmt.toNat) r (vals.map some) g s.fresh
      let out := toBlocks (numberBytes (qelemBytes ifmt.toNat) q.1)
      (mx = true ∨ firstCorrupt nb u.hdrs = none) → s.accepts .qnt dst [ifmt.toNat] out.length →
      s.qntDone (.deq d a b blk ifmt) (some (.stream a.toNat, 1)) dst out x (left q.2.1)) ∧
    (∀ l : List Block, let carry := if clr = 1 then [] else x.carry
      let want := if ifmt = 0 then 512 else 1536
      let all := carry ++ l.flatMap (·.bytes)
      s.takes .qnt (.cvtx d a clr ifmt) m → l.length = (want - carry.length + 2047) / 2048 → s.supplies .qnt src [6] l →
      (∀ u ∈ l, u.bytes.length = 2048) → s.accepts .qnt dst [3] 1 →
      s.qntDone (.cvtx d a clr ifmt) (if l = [] then none else some (src, l.length)) dst
        (toBlocks (numberBytes 1 (expandPacked ifmt.toNat (all.take want)))) { x with carry := all.drop want } g) ∧
    (∀ l : List Block, let f := o3.toNat
      let vals := (elemVals 0 (2048 / cvtnBytes f) l).map (·.mul k)
      let ints := int8All (f == 5) (m.2.1 == satWrap) r vals g
      let q := roundAll (fmtOf f) r (vals.map some) g s.fresh
      s.takes .qnt (.cvtn d a b o3) m → l.length = 4 / cvtnBytes f → s.supplies .qnt src [0] l → s.accepts .qnt dst [f] 1 →
      s.qntDone (.cvtn d a b o3) (some (src, l.length)) dst
        (toBlocks (numberBytes (cvtnBytes f) (if 5 ≤ f then ints.1 else q.1))) x (left (if 5 ≤ f then ints.2 else q.2.1)))

/-- R266, R271, R272, R277 to R279: QSEL sets the selector mask and the mode, CTBL loads the inactive bank of a table and
makes it active, QHDR lists what headers say, QERR the errors of the enabled selectors, QSTAT the counters. -/
def Obligations.ConverterTablesAndStatusComplete : Prop :=
  ∀ (s : State) (d a b : BitVec 5) (f : BitVec 1) (ifmt : BitVec 2) (mask : BitVec 8) (m : BitVec 3 × BitVec 2 × Bool),
    m.2.2 = true → a ≠ d →
    let x := s.ctx.qnt
    let g := s.generator .qnt
    (s.takes .qnt (.qsel f mask) m →
      exec (.qsel f mask) s = .next { s.advance 1 with ctx.qnt := { x with selmask := mask, hmode := f == 1 } }) ∧
    (let entries := (List.range 4).flatMap fun j => natToBytes 4 (s.kreg (b.toNat + j)).toNat
     let k := 1 - bit (x.active.getLsbD d.toNat)
     s.takes .qnt (.ctbl d b) m → (∀ e ∈ entries, e.toNat % 128 ≠ 0x7F) → s.bankHeld d.toNat k = false →
      exec (.ctbl d b) s = .next { s.advance 1 with ctx.qnt := { x with
        tables := x.tables.set (List.replicate 16 0) (2 * d.toNat + k) entries, active := x.active ^^^ (1#4 <<< d.toNat) } }) ∧
    (∀ u : Block, let mx := (s.stream a.toNat).desc.fmt == 8
      let hb := if mx then 1 else 2
      s.takes .qnt (.qhdr d a f) m → s.supplies .qnt (.stream a.toNat) [8, 9] [u] → u.hdrs.length = 128 * hb →
      s.accepts .qnt (outDest d) [6] 1 →
      (mx = true ∨ f = 0 ∨ firstCorrupt 128 u.hdrs = none) →
      s.qntDone (.qhdr d a f) (some (.stream a.toNat, 1)) (outDest d)
        [{ bytes := entry ((List.range 128).map fun j => qhdrByte mx x.hmode ((u.hdrs.drop (hb * j)).take hb)) }] x g) ∧
    (∀ u : Block, let n := 64 / qelemBytes ifmt.toNat
      s.takes .qnt (.qerr d a b ifmt) m → s.supplies .qnt (outDest a) [ifmt.toNat] [u] → s.accepts .qnt (outDest d) [0] 1 →
      s.qntDone (.qerr d a b ifmt) (some (outDest a, 1)) (outDest d)
        [{ bytes := entry (numberBytes 4 (((chunks 32 n (elemVals ifmt.toNat (32 * n) [u])).map
          (selection x.hmode (fp32.val (s.kreg b.toNat).toNat) (s.enabled x.active))).flatMap qerrWords)) }] x g) ∧
    (s.takes .qnt (.qstat d f) m → s.accepts .qnt (outDest d) [7] 1 →
      s.qntDone (.qstat d f) none (outDest d) [{ bytes := entry x.statBlock }]
        (if f = 1 then { x with blksel := [], nanblk := 0, errsum := 0 } else x) g)

/-! ## Prefixes, expansions, and the dispatcher -/

/-- R65, R68, R69: a prefix waits for the next word and fetch goes on; one that names SEQ raises ORPHAN_PREFIX; a pending
one that a word of SEQ or another prefix follows leaves its marker in the queue of its engine, and fetch stops at the word
that orphaned it. R361, R363: CONTRACT begins the expansion of its block, or raises ILLEGAL_OPERAND; a word of the expansion
is steered to its engine with the address of the CONTRACT, and behind the last one fetch goes on. -/
def Obligations.PrefixAndContractComplete : Prop :=
  ∀ (s : State) (eng rnd : BitVec 3) (sat : BitVec 2) (pred : BitVec 3) (sense : BitVec 1) (a : BitVec 5) (c : BitVec 4)
      (w : BitVec 16),
    (s.ctx.seq.pfx = none → wordFault (.pfx eng rnd sat pred sense) = none →
      exec (.pfx eng rnd sat pred sense) s = .next { s.advance 1 with
        ctx.seq.pfx := some { eng := eng, rnd := rnd, sat := sat, pred := pred, sense := sense, addr := s.ctx.seq.fetch } }) ∧
    (s.ctx.seq.pfx = none → exec (.pfx 0 rnd sat pred sense) s =
      .next (s.takeTrap .seq s.ctx.seq.fetch 1 { cause := .orphanPrefix })) ∧
    (∀ p e, s.ctx.seq.pfx = some p → Engine.ofCode p.eng.toNat = some e → s.queue e ≠ [] → s.room e 1 = true →
      ∀ i ∈ [Instr.pfx eng rnd sat pred sense, .nop, .ret, .call c w, .br c w, .jobEnd, .wmark],
        (i = .wmark → e ≠ .acc) →
        exec i s = .next (State.enqueue { s with ctx.seq.pfx := none, ctx.seq.wait := .orphan, ctx.stuck := 0 } e
          (.marker .orphanPrefix p.addr 1))) ∧
    (s.ctx.seq.pfx = none → a.toNat ≤ 8 → s.masked .idx = false →
      contractOk ((List.range 8).map fun j => s.kreg (a.toNat + j)) = true →
      exec (.contract a) s = .next { s with
        ctx.seq.wait := .contract a.toNat ((List.range 8).map fun j => s.kreg (a.toNat + j)) 0, ctx.seq.adv := false,
        ctx.stuck := 0 }) ∧
    (s.ctx.seq.pfx = none → a.toNat ≤ 8 → s.masked .idx = false →
      contractOk ((List.range 8).map fun j => s.kreg (a.toNat + j)) = false →
      exec (.contract a) s = .next (s.takeTrap .seq s.ctx.seq.fetch 1 { cause := .illegalOperand })) ∧
    (∀ b l i e, s.runs = true → s.ctx.seq.wait = .contract b l i → s.ctx.seq.pfx = none →
      insertedEngine (contractWord b l i) = e → insertedFault (contractWord b l i) = none → s.masked e = false →
      s.queue e ≠ [] → s.room e (insertedWords (contractWord b l i)) = true →
      exec .fetchWord s = .next (State.enqueue (if i + 1 < contractCount l then
          { s with ctx.seq.wait := .contract b l (i + 1), ctx.stuck := 0 }
        else { s.advance 1 with ctx.seq.wait := .none }) e
        (.instr (contractWord b l i) s.ctx.seq.fetch (insertedWords (contractWord b l i)) 0 0 s.ctx.seq.k true)))

/-- R67, R11, R122, R123: an instruction of an engine whose predicate does not hold retires without effect: with VEC's
landings aside, fetch goes on behind it and nothing else changes. One that an engine cannot take at once stands behind the
words of its queue, with its modifiers and the loop registers as they are when it is steered; where the queue has no room for
it, the dispatcher waits. -/
def Obligations.InstructionsAreHandedToTheirEngines : Prop :=
  ∀ (s : State) (i : Instr) (e : Engine) (n : Nat) (r : BitVec 3) (t : BitVec 2) (on : Bool), engineOf i = some (e, n) →
    (s.takes e i (r, t, false) → (e = .vec → s.ctx.vec.slots = []) → exec i s = .next (s.advance n)) ∧
    (wordFault i = none → s.modifiers e = some (r, t, on) → pfxFault i r t = false → s.masked e = false →
      (s.queue e ≠ [] ∨ s.heldBy e = true) → queueWords (s.queue e) + n + (if s.ctx.seq.pfx = none then 0 else 1) ≤ 32 →
      exec i s = .next ((s.advance n).enqueue e
        (.instr i s.fetchPoint (n + if s.ctx.seq.pfx = none then 0 else 1) r t s.ctx.seq.k on))) ∧
    (s.modifiers e = some (r, t, on) → wordFault i = none → pfxFault i r t = false → s.masked e = false →
      32 < queueWords (s.queue e) + n + (if s.ctx.seq.pfx = none then 0 else 1) → exec i s = .next s.stall)

/-- R10, R58 to R60, R68: a step is the meaning of its turn's row, in the state that the turn begins in. The fetch of a live,
running context that waits for nothing and stands at the end of no loop's body executes the instruction that its word, or its
word and the tail behind it, decode to; a pending prefix goes with it where it is of the word's engine. -/
def Obligations.StepRunsTheDecodedInstruction : Prop :=
  ∀ (s : State),
    (s.agenda = [] → step s = exec s.tick.atCore.nextTurn.ev (s.tick.atCore.begin s.tick.atCore.nextTurn)) ∧
    (∀ (t : Turn) (r : List Turn), s.agenda = t :: r → step s = exec t.ev (({ s with agenda := r }).tick.begin t) ∧
      ∀ (u : State) (w : Word) (i : Instr) (n : Nat), u = ({ s with agenda := r }).tick.begin t → t.ev = .fetchWord →
        u.runs = true → u.ctx.seq.wait = .none → u.codeWord u.ctx.seq.fetch = .ok w →
        (∀ p, u.ctx.seq.pfx = some p → p.eng.toNat = wordEng w ∧ wordKind w < 2) →
        (u.ctx.seq.adv = true → ∀ l, u.innerLoop = some l → l.stop ≠ u.ctx.seq.fetch) →
        (decodeWords w none = .instr i n → step s = exec i u) ∧
        (∀ v, isTwoWord (wordEng w) (wordOp w) = true → u.codeWord (u.ctx.seq.fetch + 4) = .ok v →
          (∀ l, u.innerLoop = some l → l.stop ≠ u.ctx.seq.fetch + 4) → decodeWords w (some v) = .instr i n → wordKind w = 1 →
          step s = exec i { u with ctx.seq.adv := false }))

/-- R58 to R61, R82: decoding the words that the encoder writes gives the instruction back, with every field at every value
that the encoding admits; and a word, or a word and its tail, that decode to an instruction are the words that the encoder
writes for it: each word has one meaning and no bit of it is dropped. -/
def Obligations.DecodingAndEncodingAgree : Prop :=
  (∀ i : Instr, encode i ≠ [] → (∀ e r t p n, i = .pfx e r t p n → e.toNat < 6 ∧ r ≠ 7 ∧ t ≠ 3) →
    decodeWords ((encode i).headD 0) (encode i)[1]? = .instr i (encode i).length ∧
    ∀ rest : List Byte, decodeBytes ((encode i).flatMap wordBytes ++ rest) = .instr i (encode i).length) ∧
  (∀ (w v : Word) (i : Instr) (n : Nat), decodeWords w (some v) = .instr i n → encode i = if n = 2 then [w, v] else [w])

/-- R58 to R62, R70, R82: words written out field by field decode to the instructions that the opcode map gives them; a
reserved engine, an unassigned opcode, a wrong length, a head without its tail, a tail alone, a reserved mode of a prefix and
a reserved field that is not zero are refused. -/
def Obligations.WordsDecodeByTheOpcodeMap : Prop :=
  decodeWords 0 none = .instr .nop 1 ∧
  decodeWords (0#3 ++ 0#2 ++ 0x01#7 ++ 3#3 ++ 1#1 ++ 0xFFFF#16) none = .instr (.br 7 0xFFFF) 1 ∧
  decodeWords (0#3 ++ 0#2 ++ 0x15#7 ++ 4#5 ++ 0x201#12 ++ 0#3) none = .instr (.csrr 4 0x201 0) 1 ∧
  decodeWords (0#3 ++ 1#2 ++ 0x06#7 ++ 2#5 ++ 0#5 ++ 9#10) (some (0#3 ++ 3#2 ++ 100#27)) = .instr (.loop 2 9 100) 2 ∧
  decodeWords (1#3 ++ 2#2 ++ 0#7 ++ 4#3 ++ 1#2 ++ 5#3 ++ 1#1 ++ 0#11) none = .instr (.pfx 1 4 1 5 1) 1 ∧
  decodeWords (1#3 ++ 0#2 ++ 0x00#7 ++ 1#5 ++ 2#5 ++ 3#5 ++ 1#5) none = .instr (.add 1 2 3 1) 1 ∧
  decodeWords (1#3 ++ 0#2 ++ 0x2A#7 ++ 7#5 ++ 8#5 ++ 9#5 ++ 1#1 ++ 0#1 ++ 0#1 ++ 3#2) none = .instr (.lds 7 8 9 1 0 3) 1 ∧
  decodeWords (2#3 ++ 1#2 ++ 0x00#7 ++ 10#6 ++ 20#6 ++ 30#6 ++ 0#2)
      (some (2#3 ++ 3#2 ++ 1#3 ++ 2#3 ++ 0#2 ++ 3#2 ++ 0#2 ++ 0#6 ++ 0#2 ++ 5#3 ++ 0#4)) =
    .instr (.fadd { d := 10, a := 20, b := 30, c := 0, h := 1, w := 2, ka := 0, kb := 3, kd := 0, kc := 0, m := 5, fn := 0 }) 2 ∧
  decodeWords (3#3 ++ 0#2 ++ 0x03#7 ++ 2#2 ++ 5#3 ++ 6#3 ++ 0#9 ++ 1#1 ++ 0#1 ++ 1#1) none = .instr (.mma 2 5 6 1 0 1) 1 ∧
  decodeWords (4#3 ++ 0#2 ++ 0x08#7 ++ 1#5 ++ 2#5 ++ 3#5 ++ 0#5) none = .instr (.bmand 1 2 3) 1 ∧
  decodeWords (5#3 ++ 0#2 ++ 0x00#7 ++ 16#5 ++ 24#5 ++ 0#5 ++ 0#4 ++ 1#1) none = .instr (.had 16 24 1) 1 ∧
  (∀ x : BitVec 29, decodeWords (6#3 ++ x) none = .bad .reservedEngine ∧ decodeWords (7#3 ++ x) none = .bad .reservedEngine) ∧
  (∀ x : BitVec 20, decodeWords (0#3 ++ 0#2 ++ 0x7F#7 ++ x) none = .bad .unassignedOp ∧
    decodeWords (1#3 ++ 0#2 ++ 0x11#7 ++ x) none = .bad .wrongLength ∧
    decodeWords (1#3 ++ 1#2 ++ 0x00#7 ++ x) none = .bad .wrongLength) ∧
  decodeWords (1#3 ++ 1#2 ++ 0x11#7 ++ 0#20) (some 0) = .bad .noTail ∧
  (∀ x : BitVec 27, decodeWords (1#3 ++ 3#2 ++ x) none = .bad .strayTail) ∧
  decodeWords (1#3 ++ 2#2 ++ 0#7 ++ 7#3 ++ 0#17) none = .bad .badPfx ∧
  decodeWords (0#3 ++ 0#2 ++ 0x00#7 ++ 1#20) none = .bad .reservedField

/-- Every step keeps the canonical form of memory and of the staging slices: addresses strictly rising, and no entry that
reads as an unlisted address does (R84; the form is the model's own, assumption log 3). -/
def Obligations.StepsKeepMemoryCanonical : Prop :=
  ∀ s t : State, s.mem.wf = true → s.l2.wf = true → step s = .next t → t.mem.wf = true ∧ t.l2.wf = true

/-- R22, R38, R52, R76, R124, R142, R188, R281, R463: the machine at reset: memory is in its canonical form and lists nothing,
no bank holds a job, no queue holds a word or an entry or is bound, no loop, link, prefix, wait or landing is pending, no
trap record is held and no handler runs, and the registers read as their tables give, those that the tables leave open as the
assumption log says (entry 4). -/
def Obligations.ResetLeavesTheMachineAtRest : Prop :=
  (State.reset.mem.wf = true ∧ State.reset.l2.wf = true ∧ State.reset.mem = []) ∧
  (∀ k, (State.reset.bankCtx k).status = .free ∧ (State.reset.bankCtx k).seq.dmemb = 1 <<< 28 ∧
    (State.reset.bankCtx k).seq.intrap = false ∧ (State.reset.bankCtx k).seq.tvec = 0 ∧
    (State.reset.bankCtx k).seq.tscr = 0 ∧ (State.reset.bankCtx k).seq.freezeCyc = 0 ∧ (State.reset.bankCtx k).seq.phnum = 0 ∧
    (State.reset.bankCtx k).seq.flag = false ∧ (State.reset.bankCtx k).iq = [] ∧ (State.reset.bankCtx k).dq = [] ∧
    (State.reset.bankCtx k).bq.bits = [] ∧ (State.reset.bankCtx k).bq.producer = none ∧
    (State.reset.bankCtx k).seq.loops = [] ∧ (State.reset.bankCtx k).seq.links = [] ∧ (State.reset.bankCtx k).vec.slots = [] ∧
    (State.reset.bankCtx k).seq.pfx = none ∧ (State.reset.bankCtx k).acc.commit = [] ∧ State.reset.unacked (State.reset.bankCtx k).job.uid = 0) ∧
  (∀ d q n m i, State.reset.x d = 0 ∧ State.reset.c n = Cap.null ∧ State.reset.kreg n = 0 ∧ State.reset.lc n = 0 ∧
    State.reset.pred 0 = true ∧ State.reset.vreg n = VReg.zero ∧ State.reset.mreg 0 = BitVec.allOnes 512 ∧
    (m ≠ 0 → State.reset.mreg m = 0) ∧ (State.reset.dataQ q).bind = none ∧ (State.reset.dataQ q).entries = [] ∧
    (State.reset.stream i).st = .idle) ∧
  State.reset.agenda = [] ∧ State.reset.units.cmds = [] ∧ State.reset.units.launches = [] ∧ State.reset.backed = true

/-! ## Steps of the units -/

/-- R15, R28 to R37, R48, R54, R137, R142, R379: the steps of a core complete where their conditions hold. The head of a queue
runs, and leaves the queue where it is done, stands where it waits, traps where it faults; a marker of a meeting takes its
engine out of the meeting's pending ones, and a fault marker raises its fault; a due landing is written or raises what it failed of, and data reaches its slot; a
pending trap is taken once the landings have settled; a deadlock of 65,536 cycles is raised at the blocked instruction of
the lowest engine; a core goes over to another bank, and a context that has waited long gains priority. -/
def Obligations.CoreStepsComplete : Prop :=
  ∀ (s : State) (e : Engine), s.operand.eng = e →
    (s.runs = true → s.heldBy e = false →
      (∀ i a n x y k r, s.queue e = .instr i a n x y k false :: r → e ≠ .vec →
        exec .queueUnblock s = .next ({ s with ctx.stuck := 0 }.dropHead e)) ∧
      (∀ i a n x y k r u, s.queue e = .instr i a n x y k true :: r → e ≠ .vec → (s.hold e).out = none →
        effOf i { rnd := x, sat := y, k := k, addr := a } s = .ok () u →
        exec .queueUnblock s = .next ({ u with ctx.stuck := 0 }.dropHead e)) ∧
      (∀ i a n x y k r u, s.queue e = .instr i a n x y k true :: r → (s.hold e).out = none →
        effOf i { rnd := x, sat := y, k := k, addr := a } s = .error .wait u →
        exec .queueUnblock s = .next (u.rewindHold e)) ∧
      (∀ i a n x y k r u c, s.queue e = .instr i a n x y k true :: r → (s.hold e).out = none →
        effOf i { rnd := x, sat := y, k := k, addr := a } s = .error (.trap { cause := c }) u →
        exec .queueUnblock s = .next ((u.rewindHold e).takeTrap e a n { cause := c })) ∧
      (∀ d v a r, s.queue e = .deliver d v a :: r → s.xBusy d = false →
        exec .queueUnblock s = .next ({ s.setX d v with ctx.stuck := 0 }.dropHead e)) ∧
      (∀ v a r, s.queue e = .seed v a :: r → exec .queueUnblock s =
        .next ({ s with ctx.gen := s.ctx.gen.set 0 e.code v, ctx.stuck := 0 }.dropHead e)) ∧
      (∀ c a n r, s.queue e = .marker c a n :: r →
        exec .faultMarker s = .next ((s.rewindHold e).takeTrap e a n { cause := c })) ∧
      (∀ n a r, s.queue e = .rdv n a :: r → ∃ t : State, exec .rdvMarker s = .next t ∧ t.queue e = r ∧
        t.ctx.seq.rdvs = (s.ctx.seq.rdvs.map fun m => if m.n = n then { m with pending := m.pending &&& ~~~(1#6 <<< e.code) }
          else m).filter fun m => m.pending != 0) ∧
      (∀ n a r, s.queue e = .phase n a :: r → ∃ t : State, exec .phaseMarker s = .next t ∧ t.queue e = r ∧
        t.ctx.seq.phases = s.ctx.seq.phases.map fun m => if m.n = n then { m with pending := m.pending &&& ~~~(1#6 <<< e.code) }
          else m)) ∧
    (∀ t, s.ctx.trapPending = some t → s.landingsSettled = true →
      exec .trapTaken s = .next (s.trapNow t.eng t.addr t.len t.info)) ∧
    (∀ l r d, s.ctx.vec.slots = l :: r → l.rem = 0 → l.data = some d → s.ctx.status = .live → exec .landing s =
      .next ({ s with ctx.vec.slots := r, ctx.frozen := overdue r }.setBlock l.base l.h l.w l.mask d)) ∧
    (∀ l r x, s.ctx.vec.slots = l :: r → l.rem = 0 → l.data = none → l.failed = some x → s.ctx.status = .live →
      s.ctx.trapPending = none → exec .landing s = .next (State.takeTrap { s with ctx.vec.slots := r, ctx.frozen := overdue r } .vec (s.epc .vec) 0
        { x with taddr := some l.addr, noskip := true })) ∧
    (∀ l, s.ctx.vec.slots[s.operand.n0]? = some l → l.settled = false → (s.receive l).2.settled = true →
      ∃ t : State, exec .landingDataArrival s = .next t ∧
        t.ctx.vec.slots = (s.receive l).1.ctx.vec.slots.set s.operand.n0 (s.receive l).2 ∧
        t.ctx.frozen = overdue t.ctx.vec.slots ∧ t.ctx.vec.v = (s.receive l).1.ctx.vec.v) ∧
    (∀ l o, s.ctx.vec.slots[s.operand.n0]? = some l → l.settled = false → l.src = .pad o →
      s.padReady o (2048 * (l.h * l.w)) → o + 2048 * (l.h * l.w) ≤ 0x180000 → s.padBadIn o (2048 * (l.h * l.w)) = none →
      exec .landingDataArrival s =
        let slots := s.ctx.vec.slots.set s.operand.n0
          { l with data := some (blockRows (l.h * l.w) (s.ctx.pad.read o (2048 * (l.h * l.w)))) }
        .next { s with ctx.vec.slots := slots, ctx.frozen := overdue slots }) ∧
    (∀ i l d n, s.ctx.status = .live → s.queue .vec = [] → s.ctx.seq.wait = .ending n →
      s.ctx.vec.slots.findIdx? (fun x => x.settled) = some i → s.ctx.vec.slots[i]? = some l → l.data = some d →
      exec .earlyLanding s = .next (State.setBlock { s with
        ctx.vec.slots := s.ctx.vec.slots.eraseIdx i
        ctx.frozen := overdue (s.ctx.vec.slots.eraseIdx i) } l.base l.h l.w l.mask d)) ∧
    (∀ g a n, s.runs = true → 65536 ≤ s.ctx.stuck → s.outstanding = false → s.uncounted = false →
      s.blockedEngine = some (g, a, n) →
      exec .deadlock s = .next ({ s with ctx.stuck := 0 }.takeTrap g a n { cause := .deadlock })) ∧
    (∀ k, s.switchTarget s.operand.n0 = some k → s.cur.core = k.core →
      ∃ t : State, exec .contextSwitch s = .next t ∧ t.cur = k ∧ t.runningBank k.core = k ∧ t.ctx.runSince = s.gts ∧
        t.mem = s.mem) ∧
    (∀ k, s.sliceTarget s.operand.n0 = some k → s.cur.core = k.core →
      ∃ t : State, exec .timesliceExpiry s = .next t ∧ t.cur = k ∧ t.runningBank k.core = k ∧ t.ctx.runSince = s.gts) ∧
    (∀ k : BankKey, s.operand.n0 = k → s.readyCtx (s.bankCtx k) = true → s.runningBank k.core ≠ k → (s.bankCtx k).prio < 7 →
      2 ^ 20 ≤ s.cyclesSince k.core (s.bankCtx k).readySince →
      exec .contextAging s = .next (s.setBank k { s.bankCtx k with prio := (s.bankCtx k).prio + 1, readySince := s.gts })) ∧
    (s.operand.flag = false → s.readyCtx (s.bankCtx s.operand.n0) = true → (s.bankCtx s.operand.n0).blockedAt.isSome →
      exec .contextReady s =
        .next (s.setBank s.operand.n0 { s.bankCtx s.operand.n0 with blockedAt := none, readySince := s.gts })) ∧
    (∀ r, s.operand.flag = true → s.units.spilled.find? (fun r => r.id == s.operand.n0) = some r → s.readyRec r = true →
      r.ctx.blockedAt.isSome → exec .contextReady s = .next { s with units.spilled := s.units.spilled.map fun x =>
        if x.id = r.id then { x with ctx := { x.ctx with blockedAt := none, readySince := s.gts } } else x })

/-- R39, R49, R50, R154, R164, R166, R195, R197, R314, R438: the flag of a phase is set once its markers have retired and its
writes are acknowledged; the bundle of a group clears every member's flag, counts PHNUM and drops their lines; a fabric phase
times out; an acknowledgement lowers the count; a load's data reaches its register; a walk completes; a write at a port is
made; streams fill and drain, and a ring's tail slot fills. -/
def Obligations.ContextUnitStepsComplete : Prop :=
  ∀ s : State,
    (∀ m r, s.operand.flag = false → s.ctx.status = .live → s.ctx.seq.phases = m :: r → m.pending = 0 → s.wackCount = 0 → s.ctx.seq.flag = false →
      exec .phaseFlagSet s = .next { s with ctx.seq.flag := true, ctx.seq.flagAt := some s.gts }) ∧
    (∀ q m r, s.operand.flag = true → s.units.spilled.find? (fun q => q.id == s.operand.n0) = some q → q.ctx.status = .live →
      q.ctx.seq.phases = m :: r → m.pending = 0 → s.wackOf q.ctx.job.uid = 0 → q.ctx.seq.flag = false →
      exec .phaseFlagSet s = .next { s with units.spilled := s.units.spilled.map fun x => if x.id = q.id then
        { x with ctx := { x.ctx with seq := { x.ctx.seq with flag := true, flagAt := some s.gts } } } else x }) ∧
    (∀ g, (s.operand.n0, s.operand.n1) = g → s.bundleDue g s.operand.flag = true → Sparse.wf {} s.banks = true →
      s.banks.get {} s.cur = {} → (∀ p ∈ s.banks, p.1 ≠ s.cur) →
      ∃ t : State, exec .endOfPhaseBundle s = .next t ∧
        (∀ k, (s.bankCtx k).flagged g = true → (t.bankCtx k).seq.flag = false ∧
          (t.bankCtx k).seq.phnum = (s.bankCtx k).seq.phnum + 1 ∧ (t.bankCtx k).seq.phases = (s.bankCtx k).seq.phases.tail ∧
          t.l1.get [] k.core = []) ∧
        (∀ k, (s.bankCtx k).flagged g = false → t.bankCtx k = s.bankCtx k) ∧ t.mem = s.mem) ∧
    (∀ t, s.ctx.seq.flagAt = some t → s.runs = true → s.ctx.seq.flag = true → s.ctx.group.1 = 4 →
      linkTimeout ≤ s.cyclesSince s.cur.core t →
      exec .fabricPhaseTimeout s = .next ({ s with ctx.seq.flagAt := none }.takeTrap .seq s.fetchPoint 0
        { cause := .linkError, tinfo := s.ctx.group.2, noskip := true })) ∧
    (∀ w : Ack, s.operand.n0 = w.uid → s.operand.n1 = w.stamp → w ∈ s.acks → s.unmade w = false →
      ∃ t : State, exec .writeAck s = .next t ∧ t.unacked w.uid + 1 = s.unacked w.uid ∧ t.mem = s.mem ∧ t.ctx = s.ctx) ∧
    (∀ l b d z sx, s.ctx.acc.loads.find? (fun l => l.n == s.operand.n0) = some l → s.ctx.status = .live → l.again = false →
      l.src = .ready b → l.lat = none → l.dest = .x d z sx → exec .loadReturn s =
        .next ({ s with ctx.acc.loads := s.ctx.acc.loads.filter fun x => x.n != l.n }.setX (BitVec.ofNat 5 d) (extend z sx b))) ∧
    (∀ l x, s.ctx.acc.loads.find? (fun l => l.n == s.operand.n0) = some l → s.runs = true → l.again = false →
      l.src = .failed x → (∀ q n, l.dest ≠ .q q n) → exec .loadReturn s =
        .next (State.takeTrap { s with ctx.acc.loads := s.ctx.acc.loads.filter fun y => y.n != l.n } .acc (s.epc .acc) 0
          { x with taddr := some l.addr, noskip := true })) ∧
    (∀ p, (s.holder s.operand.holder).walk = some p → exec .translationWalk s =
      .next (s.setHolder s.operand.holder { s.holder s.operand.holder with walk := none, walked :=
        match s.operand.holder with | .stream _ => (s.holder s.operand.holder).walked ++ [p] | .accessQueue _ => [p] })) ∧
    (∀ p, (s.holder s.operand.holder).want = some p → exec .nextPageWalk s = .next (s.setHolder s.operand.holder
      { s.holder s.operand.holder with want := none, next := s.nextPage p <|> (s.holder s.operand.holder).next })) ∧
    (∀ p l, s.ports.find? (fun p => p.n == s.operand.n0) = some p → s.portBehind p = false →
      (p.sent = some l ∨ (p.sent = none ∧ s.placeRange p.cap p.off p.data.length = l.map fun x => (Place.at x.1, x.2))) →
      (∀ x ∈ l, s.reachable x.1) →
      exec .portMigrationWaitEnd s = .next { s.writePieces p l with ports := s.ports.filter fun q => q.n != p.n }) ∧
    (∀ b u, s.runs = true → (s.stream s.operand.n0).fillable = true →
      readBlock s.operand.n0 (s.stream s.operand.n0) ((s.stream s.operand.n0).done + (s.stream s.operand.n0).buf.length) s =
        .ok b u → ∃ t : State, exec .streamFill s = .next t ∧
          (t.stream s.operand.n0).buf = (s.stream s.operand.n0).buf ++ [b] ∧ t.mem = u.mem ∧ t.ctx.seq = u.ctx.seq) ∧
    (∀ x u, s.runs = true → (s.stream s.operand.n0).fillable = true →
      readBlock s.operand.n0 (s.stream s.operand.n0) ((s.stream s.operand.n0).done + (s.stream s.operand.n0).buf.length) s =
        .error (.trap x) u → ∃ t : State, exec .streamFill s = .next t ∧ (t.stream s.operand.n0).st = .fault ∧
          t.ctx.seq = u.ctx.seq ∧ t.mem = u.mem) ∧
    (s.ctx.status = .live → (s.stream s.operand.n0).desc.out = true → (s.stream s.operand.n0).buf ≠ [] →
      (s.drainStream s.operand.n0).2 = true → exec .outputDrain s = .next (s.drainStream s.operand.n0).1) ∧
    (∀ p, s.pump s.operand.n0 = some p → p.waiting = false → p.stopping = true → (s.ring s.operand.n0).defined = true →
      (s.ring s.operand.n0).filled.length < (s.ring s.operand.n0).slots →
      exec .pumpSlotFill s = .next (s.endPump s.operand.n0)) ∧
    (∀ u, fillSlot true s.operand.n0 ((s.ring s.operand.n0).pumpBlocks + 1) (s.ring s.operand.n0).filled.length s = .ok () u →
      exec .pumpSlotFill s = .next u)

/-- R38, R41 to R44, R103, R140, R213: END's checks come once every engine is idle, and its end once the landings are written,
the loads back, the commands complete and the writes acknowledged; a task commits its buffer entry by entry; a WAIT ends
where its slots are satisfied, with p7 false, or times out, with p7 true, and WSAT tells which; a command that is done
completes, its counter advances, and a failure goes to the slot of its class. -/
def Obligations.JobEndAndWaitStepsComplete : Prop :=
  ∀ s : State,
    (s.runs = true → s.ctx.seq.wait = .ending 1 → s.drained = true →
      (∀ h r, s.ctx.units.holds = h :: r → exec .jobEndCheck s =
        .next (s.takeTrap .seq s.ctx.seq.fetch 1 { cause := .illegalOperand, tinfo := h.handle.toNat })) ∧
      (s.ctx.units.holds = [] → s.ctx.queuesHeld = true →
        exec .jobEndCheck s = .next (s.takeTrap .seq s.ctx.seq.fetch 1 { cause := .queueProtocol })) ∧
      (s.ctx.units.holds = [] → s.ctx.queuesHeld = false →
        exec .jobEndCheck s = .next { s with ctx.seq.wait := .ending 3 })) ∧
    (s.runs = true → s.ctx.seq.wait = .ending 3 → s.drainFailed = none → s.ctx.vec.slots = [] → s.ctx.acc.loads = [] →
      s.cmdsOf s.ctx.job.uid = [] → s.wackCount = 0 → s.landed = true →
      (∀ t, s.ctx.acc.storeFail = some t → exec .jobEndComplete s =
        .next (State.takeTrap { s with ctx.acc.storeFail := none } .seq s.ctx.seq.fetch 1 t)) ∧
      (∀ k x, s.ctx.acc.storeFail = none → s.ctx.firstErr = some (k, x) → exec .jobEndComplete s = .next
        (State.takeTrap { s with ctx.units.err := s.ctx.units.err.set none k none } .seq s.ctx.seq.fetch 1 x.info)) ∧
      (s.ctx.acc.storeFail = none → s.ctx.firstErr = none → s.ctx.job.task = true →
        exec .jobEndComplete s = .next { s with ctx.seq.wait := .ending 4 }) ∧
      (s.ctx.acc.storeFail = none → s.ctx.firstErr = none → s.ctx.job.task = false →
        exec .jobEndComplete s = .next (s.endJob .ended .ended) ∧ (s.endJob .ended .ended).ctx.status = .ended ∧
        (s.endJob .ended .ended).mem = s.mem)) ∧
    (s.runs = true → s.ctx.seq.wait = .ending 4 →
      (s.ctx.acc.commit = [] → exec .jobEndComplete s = .next { s with ctx.seq.wait := .ending 5 }) ∧
      (∀ cap off d w r u, s.ctx.acc.commit = .sector cap off d w :: r →
        s.commitRuns cap off (sectorRuns 33 0 d) = .made u → exec .jobEndComplete s =
          .next { u with ctx.acc.commit := u.ctx.acc.commit.tail, ctx.acc.commitAt := u.ctx.acc.commitAt + 1 }) ∧
      (∀ n c r, s.ctx.acc.commit = .deferred n :: r → s.cmd n = some c →
        ((s.cmdsOf s.ctx.job.uid).filter fun d => d.cls == c.cls).length < 32 → ∃ t : State, exec .jobEndComplete s = .next t ∧
          t.ctx.acc.commit = r ∧ (t.ctx.units.tl.get {} c.cls).issued = (s.ctx.units.tl.get {} c.cls).issued + 1)) ∧
    (s.ctx.status = .live → s.ctx.seq.wait = .ending 5 → s.wackCount = 0 → s.cmdsOf s.ctx.job.uid = [] →
      exec .taskCompletionReport s = .next (s.endJob s.ctx.taskEnd.1 s.ctx.taskEnd.2) ∧
      (s.ctx.acc.commitFail = none → (s.endJob s.ctx.taskEnd.1 s.ctx.taskEnd.2).ctx.status = .ended)) ∧
    (∀ t0 all mask x m, s.ctx.seq.wait = .waiting t0 all mask x m → s.runs = true →
      let sat := s.ctx.waitSat s.gts mask
      ((if all = true then sat = mask else sat ≠ 0) → s.ctx.waitErr sat = none → ∃ t : State, exec .waitSatisfied s = .next t ∧
        t.ctx.seq.wait = .none ∧ t.ctx.seq.fetch = s.ctx.seq.fetch + 8 ∧ t.pred 7 = false ∧ t.ctx.seq.wsat = sat ∧
        (s.ctx.acquires sat = true → t.l1.get [] s.cur.core = [])) ∧
      (∀ k e, (if all = true then sat = mask else sat ≠ 0) → s.ctx.waitErr sat = some (k, e) → exec .waitSatisfied s = .next
        (State.takeTrap { s with ctx.units.err := s.ctx.units.err.set none k none } .seq s.ctx.seq.fetch 2 e.info)) ∧
      (¬ (if all = true then sat = mask else sat ≠ 0) → m ≠ 0 → t0 + m * 2 ^ x ≤ s.refTick →
        ∃ t : State, exec .waitTimeout s = .next t ∧ t.ctx.seq.wait = .none ∧ t.ctx.seq.fetch = s.ctx.seq.fetch + 8 ∧
          t.pred 7 = true)) ∧
    (∀ c, s.cmd s.operand.n0 = some c → c.held = false → c.done = true → s.abortBy c = none →
      (∀ h i, c.body = .rel h i → exec .asyncCommandComplete s = .next (s.finishCmd c)) ∧
      (∀ h a o v w, c.body = .bind h a o v w → exec .asyncCommandComplete s = .next (s.finishCmd c)))

/-- R98, R107, R109, R206, R215, R220, R222, R227, R230, R232 to R237, R242, R245, R246: the steps of the copy and the
synchronisation engines complete where their conditions hold: a command gets a channel, a copy's watermark advances and its
bytes are counted at a sync word, a chain's record is made, a group's change takes effect, an atomic is applied at its home
and a line written back, a BIND enters its record, and a hold is granted or released, or goes to the request that has waited
longest for an entry of its engine. -/
def Obligations.CopyAndSyncStepsComplete : Prop :=
  ∀ s : State,
    (∀ c, s.nextCore s.operand.n0 = some c → s.channels s.operand.n0 < 128 →
      let u := (s.putCmd { c with started := true }).setDie s.operand.n0
        { s.dieSt s.operand.n0 with lastServed := c.core % 72 }
      ((∀ cap loc frame, c.body ≠ .migr cap loc frame none) → exec .copyDispatch s = .next u) ∧
      (∀ cap loc frame a e, c.body = .migr cap loc frame none → u.pageEntry cap = some (a, e) → pageLoc e ≠ 3 →
        exec .copyDispatch s = .next (((u.setEntry a (withLoc e 3)).forgetPage cap.asid.toNat cap.obj.toNat
          (cap.cursor.toNat / 2 ^ 21)).putCmd { c with started := true, body := .migr cap loc frame (some e) }))) ∧
    (∀ c x, s.runningCopy = some (c, x) → c.wmark = true → x.pos < (s.moveFor c x s.operand.n1).2.1.pos →
      exec .watermarkAdvance s = .next ((s.moveFor c x s.operand.n1).1.putCopy c (s.moveFor c x s.operand.n1).2.1
        (s.moveFor c x s.operand.n1).2.2.1)) ∧
    (∀ c x o, s.runningCopy = some (c, x) → c.sync = some o → x.uncounted ≠ 0 → exec .syncWordCount s =
      .next ((s.putCopy c { x with uncounted := x.uncounted - min 32 x.uncounted } none).countBytes x.dst o
        (min 32 x.uncounted))) ∧
    (∀ c dst src list r u nx f, s.cmd s.operand.n0 = some c → c.body = .chain dst src list (some r) → c.started = true →
      c.failed = none → s.chainStep c dst src list r = .ok (u, nx, f) →
      exec .chainRecord s = .next (u.putCmd { c with body := .chain dst src list nx, failed := f })) ∧
    (∀ m l, s.mcEntry s.operand.n0 s.operand.n1 = some m → m.pending = some l → s.quiesced s.operand.n0 s.operand.n1 = true →
      exec .mcastGroupChange s = .next { s with units.mcast := s.units.mcast.map fun x =>
        if x.table = s.operand.n0 ∧ x.entry = s.operand.n1 then
          { x with ranks := x.pending.getD x.ranks, pending := none } else x }) ∧
    (∀ c cap op n v cmp a u, s.cmd s.operand.n0 = some c → c.held = false → c.done = false →
      s.atomBehind c cap cap.cursor.toNat n = false → s.locateBy c.sent cap cap.cursor.toNat = .at a → s.quarterGated a = false →
      s.memHeld a = false → s.reach (packageOf a) = .ok → s.badIn (a / 128 * 128) 128 = none → s.takeLine a c.reader = some u →
      let new := natToBytes n (atomNew op n (bytesToNat (s.mem.read a n)) (v.toNat % 2 ^ (8 * n)) (cmp.toNat % 2 ^ (8 * n)))
      (c.body = .atom cap op n v cmp none → ∃ t : State, exec .atomicAtHome s = .next t ∧ t.mem = u.mem.write a new ∧
        t.units.cmds = u.units.cmds.map (·.setIf { c with done := true })) ∧
      (∀ l, c.body = .atom cap op n v cmp (some l) → ∃ t : State, exec .atomicAtHome s = .next t ∧ t.mem = u.mem.write a new ∧
        t.units.cmds = u.units.cmds.filter fun x => x.n != c.n)) ∧
    (∀ c cap l p r, s.cmd s.operand.n0 = some c → c.held = false → c.done = false → c.body = .atomQ cap l →
      l[s.operand.n1]? = some p → s.atomBehind c cap (cap.cursor.toNat + 4 * p.1) 4 = false →
      s.applyOne c cap (cap.cursor.toNat + 4 * p.1) p.2 = some r → exec .atomicAtHome s =
        .next (r.1.putCmd { r.2 with body := .atomQ cap (l.eraseIdx s.operand.n1), done := (l.eraseIdx s.operand.n1).isEmpty })) ∧
    ((s.home s.operand.n0).lines.any (fun l => l.1 == s.operand.n1) = true → s.linePending s.operand.n1 = false →
      exec .atomicLineWriteback s = .next (s.dropAtomic s.operand.n0 s.operand.n1) ∧
      (s.backed = true → (s.dropAtomic s.operand.n0 s.operand.n1).mem = s.mem)) ∧
    (∀ c h cap len scope rep s0, s.cmd s.operand.n0 = some c → c.body = .bind h cap len scope rep → c.done = false →
      s.objBehind c (handleKey h) = false → s.poolQueued (handleKey h) = false → s.reach (handleKey h).1 = .ok →
      s.takeObj (handleKey h) = some s0 →
      (∀ u, s0.bindRecord c.asid h cap.obj.toNat cap.cursor.toNat len scope rep = .ok u →
        exec .bindApply s = .next (u.putCmd { c with done := true })) ∧
      (∀ x, s0.bindRecord c.asid h cap.obj.toNat cap.cursor.toNat len scope rep = .fails x →
        exec .bindApply s = .next (s0.putCmd { c with done := true, failed := some x }))) ∧
    (∀ k, (s.operand.n0, s.operand.n1, s.operand.n2) = k →
      ((s.obj k).canGrant = true → ∃ t : State, exec .holdGrant s = .next t ∧ t.mem = s.mem ∧
        t.obj k = { holds := (s.obj k).holds ++ (s.obj k).run, waiters := (s.obj k).waiters.drop (s.obj k).run.length }) ∧
      (∀ u, (s.obj k).canGrant = false → s.poolServe k = some u → exec .holdGrant s = .next u)) ∧
    (∀ c h id, s.cmd s.operand.n0 = some c → c.body = .rel h id → c.done = false → s.writesBefore c.who = true →
      s.objBehind c (handleKey h) = false →
      (s.reach (handleKey h).1 = .ok → ∃ t : State, exec .holdRelease s = .next t ∧ t.mem = s.mem ∧
        t.obj (handleKey h) = { s.obj (handleKey h) with holds := (s.obj (handleKey h)).holds.filter (fun x =>
          x.who != .ctx c.uid id) }) ∧
      (s.reach (handleKey h).1 = .broken → exec .holdRelease s = .next
        (s.putCmd { c with done := true, failed := some { cause := .linkError, tinfo := (handleKey h).1 } })))

/-- R113, R115 to R118, R229, R396, R403 to R407, R415, R416, R420, R428 to R437, R463: the steps of the egress queues, of the
Scruple, of Firkin and of the link engine complete where their conditions hold: a post arrives and is tagged with the next
number of the epoch, a release or a cut takes effect at its queue or fails with EGRESS_EPOCH, entries are delivered and
acknowledged; an EVICT is taken up and applied; a bank is spilled and filled; slots send and receive at their ticks, requests
of other packages are served, time out or go on, and ports go down and are trained. -/
def Obligations.QueueSpillAndLinkStepsComplete : Prop :=
  ∀ (s : State) (q : Nat), s.operand.n0 = q →
    (∀ c, s.cmd q = some c →
      (∀ j p arm, c.body = .eqpost j p arm → c.held = false → c.started = false → s.storesBefore c.who = true →
        s.eqBehind c.uid c.n j = false → exec .eqpostArrival s =
          .next ((s.setEq j { s.eq j with waiting := (s.eq j).waiting ++ [c.n] }).putCmd { c with started := true })) ∧
      (∀ j e n, c.body = .eqrel j e n → c.started = false → s.storesBefore c.who = true → s.eqBehind c.uid c.n j = false →
        ((s.eq j).waiting = [] ∨ 256 ≤ (s.eq j).entries.length) →
        (e = (s.eq j).e → ∃ t : State, exec .eqrelArrival s = .next t ∧ (t.eq j).mark = max (s.eq j).mark (n + 1) ∧
          (t.eq j).entries = (s.eq j).entries.map fun x =>
            if x.epoch = e ∧ x.seq < max (s.eq j).mark (n + 1) ∧ x.released.isNone then { x with released := some s.gts } else x) ∧
        (e < (s.eq j).e → ∃ t : State, exec .eqrelArrival s = .next t ∧ t.eq j = s.eq j ∧ t.units.cmds =
          s.units.cmds.map (·.setIf { c with started := true, done := true })) ∧
        ((s.eq j).e < e → exec .eqrelArrival s =
          .next (s.putCmd { c with started := true, done := true, failed := some { cause := .egressEpoch } }))) ∧
      (∀ j e n, c.body = .eqcut j e n → c.started = false → s.storesBefore c.who = true → s.eqBehind c.uid c.n j = false →
        ((s.eq j).waiting = [] ∨ 256 ≤ (s.eq j).entries.length) →
        (e = (s.eq j).e → ∃ t : State, exec .eqcutArrival s = .next t ∧ (t.eq j).e = (e + 1) % 2 ^ 32 ∧
          (t.eq j).n = max n (s.eq j).mark ∧ (∀ x ∈ (t.eq j).entries, x.released.isSome ∨ x.epoch ≠ e ∨ x.seq < n)) ∧
        (e < (s.eq j).e → ∃ t : State, exec .eqcutArrival s = .next t ∧ t.eq j = s.eq j) ∧
        ((s.eq j).e < e → exec .eqcutArrival s =
          .next (s.putCmd { c with started := true, done := true, failed := some { cause := .egressEpoch } }))) ∧
      (∀ j o f u, c.body = .eqpeek j o f → s.eqBehind c.uid c.n j = false →
        ((s.eq j).waiting = [] ∨ 256 ≤ (s.eq j).entries.length) → s.peekQueue c.uid c.num j o f = .ok u →
        exec .eqpeekArrival s = .next (u.dropCmd c.n)) ∧
      (∀ e u, c.body = .evict e → c.done = false → e.asked = false → s.storesBefore c.who = true →
        (s.units.cmds.any fun x => x.evicting e.die && x.sequence == c.sequence) = false →
        (s.units.cmds.filter fun x => x.evicting e.die).length < 4 → s.askEvict c e = some u → exec .evictApply s = .next u) ∧
      (∀ e r, c.body = .evict e → c.done = false → e.asked = true → e.granted = true → s.evict e = some r →
        exec .evictApply s = .next ((r.1.endEvictHold c.n).putCmd { c with done := true, failed := r.2 })) ∧
      (∀ cap phys k, c.body = .spill cap phys k → c.done = false → s.bankBehind c.n k = false → s.storesBefore c.who = true →
        (s.bankCtx k).settled = true → (s.bankCtx k).trapPending = none →
        (∀ u, s.spillBank k (.of cap phys) none = .ok u →
          exec .spillApply s = .next (u.putCmd { c with done := true }) ∧ (u.bankCtx k).status = .free) ∧
        (∀ x, s.spillBank k (.of cap phys) none = .fails x → ∃ t : State, exec .spillApply s = .next t ∧
          t.mem = s.mem ∧ t.banks = s.banks ∧ t.ctx = s.ctx ∧
          t.units.cmds = s.units.cmds.map (·.setIf { c with done := true, failed := some x }))) ∧
      (∀ cap phys k, c.body = .fill cap phys k → c.done = false → s.bankBehind c.n k = false → s.storesBefore c.who = true →
        (∀ u, s.fillBank k (.of cap phys) = .ok u → exec .fillApply s = .next (u.putCmd { c with done := true })) ∧
        (∀ x, s.fillBank k (.of cap phys) = .fails x →
          exec .fillApply s = .next (s.putCmd { c with done := true, failed := some x })))) ∧
    (∀ n r c j p arm, (s.eq q).waiting = n :: r → s.cmd n = some c → c.body = .eqpost j p arm → (s.eq q).n ≠ 2 ^ 32 - 1 →
      (s.eq q).entries.length < 256 → ∃ t : State, exec .eqTag s = .next t ∧ (t.eq q).waiting = r ∧
        (t.eq q).n = (s.eq q).n + 1 ∧ (t.eq q).entries = (s.eq q).entries ++ [{ epoch := (s.eq q).e, seq := (s.eq q).n, payload := p, gts := s.gts, released := if (s.eq q).n < (s.eq q).mark then some s.gts else none }]) ∧
    (∀ x, (s.eq q).oldest (fun x => !x.delivered) = some x → s.eqPolled = false →
      ∃ t : State, exec .egressDelivery s = .next t ∧ (t.eq q).entries = (s.eq q).entries.map fun y =>
        if y.epoch = x.epoch ∧ y.seq = x.seq then { y with delivered := true } else y) ∧
    (∀ x g, (s.eq q).oldest (fun _ => true) = some x → x.released = some g → exec .eqdeliv s =
      .next { s with host.out := natToBytes 8 (x.epoch * 2 ^ 32 + x.seq) ++ natToBytes 8 x.payload.toNat ++ natToBytes 8 g }) ∧
    ((s.eq q).oldest (fun _ => true) = none → exec .eqdeliv s = .next { s with host.out := List.replicate 24 0xFF }) ∧
    (∃ t : State, exec .eqack s = .next t ∧ ∀ j, j ≠ q → t.eq j = s.eq j) ∧
    (exec .eqreset s = .next (s.setEq q {}) ∧ (s.setEq q {}).eq q = {}) ∧
    (s.operand.flag = false → q = s.gts / 256 → s.units.link.nextTick ≤ q →
      exec .scheduleTick s = .next (s.serveTick q s.operand.val) ∧
      (s.serveTick q s.operand.val).units.link.nextTick = q + 1) ∧
    (∀ r, s.operand.flag = true →
      s.registered.find? (fun r => r.uid == s.operand.n1 && r.slot == s.operand.n2 && r.ls.recv) = some r → q ≤ s.gts / 256 →
      s.units.link.arrived.get 0 r.ls.port ≤ q → q % 8 ≠ 7 → (s.port r.ls.port).up = true → s.landing r.uid r.slot = [] →
      s.operand.bytes ≠ [] → s.operand.bytes.length ≤ 57344 → ∃ t : State, exec .scheduleTick s = .next t ∧
        t.landing r.uid r.slot = s.operand.bytes ∧ t.units.link.arrived.get 0 r.ls.port = q + 1) ∧
    (∀ c u, s.posted q s.operand.n1 = some c → s.drainLanding c s.operand.n1 = some u →
      exec .linkLandingDrain s = .next u) ∧
    (∀ a, q = s.myPkg → a = 2 ^ 42 * s.myPkg + s.operand.n1 % 2 ^ 42 → decodes a = true → s.quarterGated a = false →
      s.memHeld a = false →
      (s.operand.n2 = 0 → exec .unscheduledRequest s = .next (s.agentWrite a s.operand.bytes)) ∧
      (0 < s.operand.n2 → s.operand.n2 ≤ 9 → (s.badIn (a / 128 * 128) 128).isSome →
        exec .unscheduledRequest s = .next s) ∧
      (∀ u n, 0 < s.operand.n2 → s.operand.n2 ≤ 9 → s.badIn (a / 128 * 128) 128 = none → s.takeLine a = some u →
        n = (if s.operand.flag = true then 8 else 4) →
        exec .unscheduledRequest s = .next (u.homeWrite a (natToBytes n (atomNew (s.operand.n2 - 1) n
          (bytesToNat (s.mem.read a n)) (s.operand.val.toNat % 2 ^ (8 * n))
          ((BitVec.ofNat 64 s.operand.n3).toNat % 2 ^ (8 * n))))))) ∧
    (∀ u, q = s.myPkg → 16 ≤ s.operand.n2 → s.remoteObject (s.myPkg, (handleKey (BitVec.ofNat 64 s.operand.n1)).2)
        (s.operand.n2 - 16) (.remote (s.operand.n3 % 1024) (s.operand.n3 / 2 ^ 26)) (s.operand.n3 / 1024 % 2 ^ 16)
        s.operand.val s.operand.bytes = some u → exec .unscheduledRequest s = .next u) ∧
    (q ≠ s.myPkg → s.reach q = .ok → exec .unscheduledRequest s = .next s) ∧
    (∀ l c o p, q = 0 → s.ctx.acc.loads.find? (fun l => l.n == s.operand.n1) = some l → s.loadAway l = some (p, c, o) →
      s.expired s.cur.core l.gts = true →
      ∃ t : State, exec .unscheduledTimeout s = .next t ∧ t.mem = s.mem ∧ t.ctx.acc.loads = s.ctx.acc.loads.map fun x =>
        if x.n = s.operand.n1 then
          { x with src := .failed { cause := .linkError, toff := o, tinfo := p, cap := c, noskip := true } } else x) ∧
    (∀ c h id, q = 2 → s.cmd s.operand.n1 = some c → c.body = .rel h id → (handleKey h).1 ≠ s.myPkg → c.done = false →
      c.held = false → c.failed = none → s.expired c.core c.gts = true → exec .unscheduledTimeout s =
        .next (s.putCmd { c with done := true, failed := some { cause := .linkError, tinfo := (handleKey h).1 } })) ∧
    (q < 16 → (s.port q).up = true → (s.port q).replays < 16 → exec .flitReplay s = .next
      (s.setPort q { s.port q with replays := if s.operand.flag = true then 0 else (s.port q).replays + 1 })) ∧
    ((s.port q).up = true → (s.operand.flag = true ∨ 16 ≤ (s.port q).replays) → ∃ t : State, exec .portDown s = .next t ∧
      (t.port q).up = false ∧ t.units.cmds = s.units.cmds.map (fun c => c.failOn q) ∧ t.mem = s.mem) ∧
    (q < 16 → ∃ t : State, exec .portRetrain s = .next t ∧ (t.port q).up = false ∧ (t.port q).training = true) ∧
    ((s.port q).training = true → ∃ t : State, exec .portTrainingDone s = .next t ∧ (t.port q).training = false ∧
      (s.operand.flag = true → (t.port q).up = true ∧ (t.port q).pkg = s.operand.n1 % 1024)) ∧
    exec .fquiesceHold s = .next { s with units.link.hold := s.operand.flag }

/-- R411, R440 to R454: the steps of the HBM4E controllers, of the memory-side caches and of the power regions complete where
their conditions hold: a refresh that comes due starts, is postponed while its group is active, or after eight postponements
forces an all-bank refresh, whose end serves the reads that waited; flushes and pins begin and end; a region is requested,
gated and woken, and what has woken reads zero; the stacked clock changes its ratio once its crossings have drained. -/
def Obligations.MemorySystemStepsComplete : Prop :=
  ∀ (s : State) (n : Nat) (p : PcSt), s.operand.n0 = n → s.pc n = p →
    (∀ b c, s.operand.n1 = b → s.operand.n2 = c → b < 16 → p.dueAt b c = true → p.now ≤ c → p.pendingAll = false →
      p.allUntil = none →
      (p.active (b / 4) c = true → p.post.get 0 b < 8 → exec .refreshDue s = .next (s.setPc n { p with
        now := c, post := p.post.set 0 b (p.post.get 0 b + 1), postponed := p.postponed + 1 })) ∧
      (p.active (b / 4) c = true → 8 ≤ p.post.get 0 b →
        exec .refreshDue s = .next (s.setPc n { p with now := c, pendingAll := true, forced := p.forced + 1 })) ∧
      (p.active (b / 4) c = false → p.bankUntil.get 0 b = 0 → p.post.get 0 b = 0 →
        exec .refreshDue s = .next ((s.setPc n { p with now := c }).startRefresh n b (c + s.busWait n c)) ∧
        (((s.setPc n { p with now := c }).startRefresh n b (c + s.busWait n c)).pc n).bankUntil.get 0 b =
          c + s.busWait n c + 136 + 1)) ∧
    (∀ g c, s.operand.n1 = g → s.operand.n2 = c → p.activeUntil.get 0 g ≠ 0 → p.activeUntil.get 0 g - 1 ≤ c →
      p.wanted g = false → p.now ≤ c →
      ∃ t : State, exec .groupInactive s = .next t ∧ (t.pc n).activeUntil.get 0 g = 0 ∧ ∀ i < 4,
        p.post.get 0 (4 * g + i) ≠ 0 → p.bankUntil.get 0 (4 * g + i) = 0 →
        c + 136 + 1 ≤ (t.pc n).bankUntil.get 0 (4 * g + i) ∧ (t.pc n).post.get 0 (4 * g + i) + 1 = p.post.get 0 (4 * g + i)) ∧
    (∀ c, s.operand.n1 = c → p.pendingAll = true → p.serviceUntil ≤ c → p.allUntil = none → p.now ≤ c →
      exec .forcedRefreshStart s = .next (s.setPc n { p with
        pendingAll := false, allUntil := some (c + 298), post := [], extra := [], now := c })) ∧
    (∀ c, s.operand.n2 = c → s.operand.flag = true → p.allUntil = some c → p.now ≤ c →
      ∃ t : State, exec .refreshEnd s = .next t ∧ (t.pc n).allUntil = none ∧ (t.pc n).abusy = false ∧ (t.pc n).waiting = [] ∧
        t.mem = s.mem) ∧
    (∀ b c, s.operand.n1 = b → s.operand.n2 = c → s.operand.flag = false → p.bankUntil.get 0 b = c + 1 → p.now ≤ c →
      p.active (b / 4) c = true → ∃ t : State, exec .refreshEnd s = .next t ∧ (t.pc n).bankUntil.get 0 b = 0 ∧
        (∀ r ∈ (t.pc n).waiting, r.bank ≠ b)) ∧
    (p.now ≤ s.operand.n1 → exec .refcfgAlign s = .next (s.setPc n { p with
      pendingAll := false, allUntil := some (s.operand.n1 + 298), post := [], extra := [], now := s.operand.n1, abusy := true
      start := none })) ∧
    (∀ r, (s.slice (hbmDie n)).missing.find? (fun r => r.1 == mscLine n) = some r → isHbm n = true →
      packageOf n = s.myPkg → (s.pc (pcOf n)).now ≤ s.operand.n1 → exec .memoryReadArrival s =
        .next ((s.arriveRead (pcOf n) (bankOf n) s.operand.n1 r.2).setSlice (hbmDie n)
          { s.slice (hbmDie n) with missing := (s.slice (hbmDie n)).missing.erase r })) ∧
    (∀ b c u, p.pendingAll = false → p.allUntil = none → p.bankUntil.get 0 b = 0 →
      c + s.busWait n c ∈ ((s.arriveRead n b c u).pc n).bus ∧
      c + s.busWait n c + 32 ≤ ((s.arriveRead n b c u).pc n).serviceUntil) ∧
    (n < 4 → exec .mscflushSlice s = .next (s.mscFlushAll n) ∧ ((s.mscFlushAll n).slice n).flush = some .flushAll ∧
      (s.backed = true → (s.mscFlushAll n).mem = s.mem)) ∧
    (n < 4 → s.frameOfDie n s.operand.n1 = true → exec .mscflushFrame s = .next (s.mscFlushFrame n s.operand.n1) ∧
      ((s.mscFlushFrame n s.operand.n1).slice n).flush = some (.flushFrame s.operand.n1)) ∧
    ((s.slice n).flush.isSome → exec .mscflushDone s = .next (s.setSlice n { s.slice n with flush := none })) ∧
    (n < 4 → s.frameOfDie n s.operand.n1 = true → exec .mscpinPin s = .next (s.setSlice n
      { s.slice n with pinning := some (.pin s.operand.n1), pinFrame := BitVec.ofNat 31 s.operand.n1 })) ∧
    (n < 4 → s.frameOfDie n s.operand.n1 = true → exec .mscpinUnpin s = .next (s.setSlice n
      { s.slice n with pinning := some (.unpin s.operand.n1), pinFrame := BitVec.ofNat 31 s.operand.n1 })) ∧
    (∀ f, (s.slice n).pinning = some (.pin f) → (s.slice n).canPin f = false →
      exec .mscpinDone s = .next (s.setSlice n { s.slice n with pinning := none, pinFail := true })) ∧
    (∀ f, (s.slice n).pinning = some (.unpin f) → exec .mscpinDone s = .next (s.setSlice n { s.slice n with
      pinning := none, lines := (s.slice n).lines.map fun l => { l with pinned := l.pinned && !inFrame f l.line } })) ∧
    (∀ o : BitVec 16, s.operand.val.setWidth 16 = o → n < 4 → (s.slice n).wayRefused o = false →
      exec .waygate s = .next (s.setWays n o) ∧ ((s.setWays n o).slice n).off = o) ∧
    (n < 32 → exec .secondTierRefresh s = .next (s.addLat s.operand.n1 1 s.operand.n2)) ∧
    (∀ r : Region, r = .scratchpad n s.operand.n1 s.operand.n2 (s.operand.val.setWidth 8) → regionOk r = true →
      (s.gateRefused r = false → exec .pwrreqGateScratchpad s = .next (s.setDie n { s.dieSt n with
        requests := (s.dieSt n).requests ++ [(r, false)], refused := false })) ∧
      (s.gateRefused r = true →
        exec .pwrreqGateScratchpad s = .next (s.setDie n { s.dieSt n with refused := true })) ∧
      (exec .pwrreqWakeScratchpad s = .next (s.beginRegion n r true))) ∧
    (n < 4 → s.operand.n1 < 4 →
      exec .pwrreqGateQuarter s = .next (s.setDie s.operand.n1 { s.dieSt s.operand.n1 with
        requests := (s.dieSt s.operand.n1).requests ++ [(.quarter n, false)], refused := false }) ∧
      ∃ t : State, exec .pwrreqWakeQuarter s = .next t ∧ t.quarterOff = s.quarterOff &&& ~~~(1#4 <<< n) ∧
        t.quarterWaking = s.quarterWaking ||| (s.quarterOff &&& (1#4 <<< n))) ∧
    (∀ r : Region, r = .bank n s.operand.n1 s.operand.n2 → regionOk r = true →
      (s.gateRefused r = false → exec .pwrreqGateBank s = .next (s.setDie n { s.dieSt n with
        requests := (s.dieSt n).requests ++ [(r, false)], refused := false })) ∧
      ∃ t : State, exec .pwrreqWakeBank s = .next t ∧
        t.bankWaking.get false (bankKey n s.operand.n1 s.operand.n2) = true) ∧
    (∀ d q, s.operand.region = .quarter q → s.requestDie (.quarter q) true = some d → ∃ t : State,
      exec .regionAwake s = .next t ∧ t.quarterWaking = s.quarterWaking &&& ~~~(1#4 <<< q) ∧ t.mem = s.mem) ∧
    (∀ d x c b, s.operand.region = .bank x c b → s.requestDie (.bank x c b) true = some d →
      s.bankOff.get false (bankKey x c b) = true → ∃ t : State, exec .regionAwake s = .next t ∧
        t.bankOff.get false (bankKey x c b) = false ∧ t.bankWaking.get false (bankKey x c b) = false ∧
        t.bankCtx (bankKey x c b) = {}) ∧
    (∀ d, s.requestDie s.operand.region false = some d → s.regionBusy s.operand.region = false →
      s.gateRefused s.operand.region = false → exec .regionGated s =
        .next ((s.gateRegion s.operand.region).endRequest d s.operand.region false)) ∧
    (regionOk s.operand.region = true → (s.operand.flag = true ∨ s.gateRefused s.operand.region = false) →
      exec .powerManagerRequest s = .next (s.beginRegion (regionDie s.operand.region) s.operand.region s.operand.flag)) ∧
    (∀ r : BitVec 2, s.operand.val.setWidth 2 = r → n < 4 → s.ratioOk n r = true →
      exec .xclk s = .next (s.setDie n { s.dieSt n with stage := .draining r })) ∧
    (∀ r, (s.dieSt n).stage = .draining r →
      exec .crossingDrainDone s = .next (s.setDie n { s.dieSt n with ratio := r, stage := .relocking })) ∧
    ((s.dieSt n).stage = .relocking → ∃ t : State, exec .relockDone s = .next t ∧ (t.dieSt n).stage = .idle ∧
      (t.dieSt n).ratio = (s.dieSt n).ratio ∧ t.mem = s.mem)

/-- R76, R148, R151, R167, R407, R455 to R469, R473: the steps of power and of the host complete where their conditions hold:
power-on and the boot steps in their order, islands lowered, raised and settled, thermal shutdown, the firmware's scrub; a
translation's invalidation, a bank's freeing, the semaphores, the rings, the events, the registers of the host window, the
running context's own writes of registers, and plain accesses of device memory. -/
def Obligations.PowerAndHostStepsComplete : Prop :=
  ∀ (s : State) (n : Nat) (v : DWord), s.operand.n0 = n → s.operand.val = v →
    (s.host.powered = false → exec .powerOn s =
      .next { s with host := { s.host with powered := true, bootStep := 0, ready := false, fail := false } }) ∧
    (s.host.powered = true → s.host.fail = false → s.host.bootStep < 7 →
      (s.operand.flag = true → exec .bootStepComplete s = .next { s with host.fail := true }) ∧
      (s.operand.flag = false → ∃ t : State, exec .bootStepComplete s = .next t ∧ t.host.bootStep = s.host.bootStep + 1 ∧
        t.mem = s.mem ∧ (s.host.bootStep = 6 → t.host.ready = true ∧ t.host.wq = [] ∧ t.host.sem = [] ∧ t.host.funcmode = 0))) ∧
    (n < 1024 → s.levelOf n + 1 ≤ 3 → s.power.changing.contains n = false → s.lowered (islandClass n) = true →
      (2400 < drawOf v ∨ 105 < junctionOf v) → ¬ (n < 864 ∧ n % 3 = 2) → ∃ t : State, exec .powerStepDown s = .next t ∧
        t.levelOf n = s.levelOf n + 1 ∧ (islandClass n ≠ 2 → n ∈ t.power.changing) ∧ t.mem = s.mem) ∧
    (n < 1024 → 1 ≤ s.levelOf n → s.levelOf n ≤ 3 → s.power.changing.contains n = false → s.raised (islandClass n) = true →
      drawOf v < 2280 → junctionOf v ≤ 105 → ∃ t : State, exec .powerStepUp s = .next t ∧ t.levelOf n + 1 = s.levelOf n) ∧
    (n ∈ s.power.changing → exec .islandLevelChangeDone s =
      .next { s with power.changing := s.power.changing.filter fun i => i != n }) ∧
    (115 ≤ junctionOf v → s.power.dieOff ≠ 0xF →
      ∃ t : State, exec .thermalShutdown s = .next t ∧ t.power.dieOff = 0xF ∧ t.mem = s.mem) ∧
    (s.host.funcmode.getLsbD 1 = false → s.host.ready = true → isHbm s.operand.n1 = true → hbmDie s.operand.n1 = n →
      packageOf s.operand.n1 = s.myPkg → s.operand.n1 % 2 ^ 30 = 0 → s.dieInUse n = false →
      exec .firmwareScrub s = .next (s.scrubDie n s.operand.n1 (2 ^ 30))) ∧
    (1 ≤ s.host.bootStep →
      (∃ t : State, exec .otinv s = .next t ∧ t.host.otinv = some { otinvOf v with gts := s.gts } ∧ t.mem = s.mem ∧ t.ctx.pad = s.ctx.pad ∧
        (∀ w ∈ t.windows, (otinvOf v).names w.asid w.obj = false) ∧
        (v = BitVec.allOnes 64 → ∀ i : Nat, ((t.ctx.acc.s.get {} i).holder.cur = none))) ∧
      ((v.extractLsb' 0 7).toNat < 72 → (s.bankCtx (bankfreeKey v)).status = .halted →
        ∃ t : State, exec .bankfree s = .next t ∧ t.mem = s.mem ∧ (t.bankCtx (bankfreeKey v)).resident = false ∧
          ∀ k, k ≠ bankfreeKey v → t.bankCtx k = s.bankCtx k) ∧
      ((v.extractLsb' 0 7).toNat < 72 → (s.bankCtx (bankfreeKey v)).status ≠ .halted → exec .bankfree s = .next s) ∧
      (∀ r, s.host.freeList.setTail v = some r → exec .freelistTailWrite s = .next { s with host.freeList := r }) ∧
      (∀ r, s.host.savePool.setTail v = some r → exec .savePoolTailWrite s = .next { s with host.savePool := r }) ∧
      (n < 2 → exec .evheadWrite s = .next (s.writeEvhead n v)) ∧
      (∀ off, s.operand.reg = .window off → n < 2 → (off = 8 → exec .registerWrite s = .next { s with asidRoot := v }) ∧
        (∀ d < 4, off = 0x20 + 8 * d →
          exec .registerWrite s = .next { s with host.syncBase := s.host.syncBase.set 0 d v }) ∧
        (off = 0 → exec .registerWrite s = .next s)) ∧
      (n < 2 →
        (∀ a k, s.operand.host = .readMem a k → s.memoryWaits a k = false →
          (s.memoryFails a k = false → s.badIn a k = none → exec .hostAccess s = .next { s with host.out := s.mem.read a k }) ∧
          ∃ t : State, exec .hostAccess s = .next t ∧ t.mem = s.mem) ∧
        (∀ a b, s.operand.host = .writeMem a b → s.memoryWaits a b.length = false →
          (s.memoryFails a b.length = false → s.backed = true →
            ∃ t : State, exec .hostAccess s = .next t ∧ t.mem = s.mem.write a b) ∧
          (memoryAt a b.length = false → exec .hostAccess s = .next s)) ∧
        (s.operand.host = .readWindow 8 → exec .hostAccess s = .next { s with host.out := natToBytes 8 s.asidRoot.toNat }))) ∧
    (∀ o, s.host.otinv = some o → s.sentUnder o = false → exec .otinvDone s = .next { s with host.otinv := none }) ∧
    (n < 64 → exec .semRead s = .next { s.takeSem n s.operand.user with host.out := natToBytes 8 (s.sem n).toNat }) ∧
    (n < 64 → exec .semWrite s = .next (s.writeSem n s.operand.user v)) ∧
    (∀ e l, (s.host.rings.get {} n).waiting = e :: l → (s.host.rings.get {} n).room = true →
      ∃ t : State, exec .eventPost s = .next t ∧ (t.host.rings.get {} n).waiting = l ∧ t.host.out = e.record ∧
        (t.host.rings.get {} n).tail = ((s.host.rings.get {} n).tail + 1) % 2 ^ ((s.host.rings.get {} n).logsz + 1)) ∧
    (s.runs = true → s.ctx.seq.sup = true → ∀ u, writeCsr 0x010 v s = .ok () u → exec .dmembWrite s = .next u) ∧
    (s.runs = true → ∀ u, writeCsr 0x013 v s = .ok () u → exec .rngseedWrite s = .next u) ∧
    (∀ r, s.operand.reg = .csr r → s.runs = true → s.ctx.seq.sup = true → csrAssigned r = true →
      ∀ u, writeCsr r v s = .ok () u → exec .registerWrite s = .next u)

/-- R43, R365 to R387, R418, R458 to R460, R467, R468, R475: the steps of Furlong and of Bushel complete where their conditions
hold: a doorbell moves a queue's tail; a record is read, checked and begun, or fails with its status; a count is read, a step
instantiated, a node made ready; a probe skips or dispatches, a skip copies the cached outputs, a fill enters them; a
candidate is dispatched or gains priority; an aborted task goes back to its pool once its page is resident; a launch whose
jobs have ended completes; a page is brought or asked for; and Firkin spills and fills banks of its own. -/
def Obligations.FurlongAndBushelStepsComplete : Prop :=
  ∀ (s : State) (n : Nat), s.operand.n0 = n →
    (n < 1024 → 1 ≤ s.host.bootStep → ∃ t : State, exec .workQueueDoorbell s = .next t ∧
      (t.workQueue n).tail = s.operand.val.toNat % 2 ^ ((s.workQueue n).logsz + 1) ∧
      (t.workQueue n).head = (s.workQueue n).head ∧ ∀ j, j ≠ n → t.workQueue j = s.workQueue j) ∧
    (∀ q u, s.operand.src = .workQueue q → s.queueLaunch q = none → s.queueDue q = true → s.operand.bytes.length = 256 →
      s.launchOf s.units.nextLaunch = none → u = s.addLaunch q none s.operand.bytes →
      (∀ st i, u.checkRecord s.operand.bytes = .fails st i → ∃ (t : State) (l : Launch), exec .launchRecordBegin s = .next t ∧
        t.launchOf s.units.nextLaunch = some l ∧ l = Launch.fail
          { n := s.units.nextLaunch, wq := q, spawner := none, begun := false, raw := s.operand.bytes,
            fields := parseRec s.operand.bytes } st i s.gts) ∧
      (∀ g, u.checkRecord s.operand.bytes = .ok g → ∃ (t : State) (l : Launch), exec .launchRecordBegin s = .next t ∧
        t.launchOf s.units.nextLaunch = some l ∧ l.begun = true ∧ l.fields = parseRec s.operand.bytes ∧ l.nodes = g.nodes ∧
        l.edges = g.edges ∧ l.caps = g.caps ∧ t.mem = s.mem)) ∧
    (∀ l b, s.launchOf n = some l → l.waitCount = true → l.fields.cw = false →
      s.unitRead (l.slotPlace l.fields.slot l.fields.off.toNat).1 (l.slotPlace l.fields.slot l.fields.off.toNat).2 4 = .ok b →
      ∃ t : State, exec .indirectCountRead s = .next t ∧
        t.units.launches = s.units.launches.map fun x => if x.n = l.n then s.poolJobs x (min x.fields.jobs (bytesToNat b)) else x) ∧
    (∀ l b, s.launchOf n = some l → s.stepDue l = true → s.unitRead (l.slotPlace l.fields.tslot (l.fields.toff.toNat + 64 * l.nextStep)).1
        (l.slotPlace l.fields.tslot (l.fields.toff.toNat + 64 * l.nextStep)).2 64 = .ok b →
      ∃ (t : State) (l' : Launch), exec .stepInstantiate s = .next t ∧ t.launchOf n = some l' ∧ l'.nextStep = l.nextStep + 1 ∧
        l'.insts = l.insts ++ l.nodes.zipIdx.map fun m =>
          { step := l.nextStep, node := m.2, phase := .instantiated, die := m.1.die, row := rowOf b, stamp := s.gts }) ∧
    (∀ l i m, s.nodeNamed = some (l, i, m) →
      (i.phase = .instantiated → l.nodeReady i = true → (m.reuse = true ∨ s.poolCount m.die < 4096) → exec .nodeReady s =
        .next (s.setInst l i (if m.reuse = true then .probe else .pooled s.gts l.fields.prio))) ∧
      (∀ p r x, m.ins = p :: r → i.phase = .probe → s.unitRead (l.operandCap p) (l.operandOff p) p.len = .ok x →
        s.poolCount m.die < 4096 →
        exec .bushelProbe s = .next ((s.reportRead (l.operandCap p) (l.operandOff p) p.len).probe l i m p x)) ∧
      (∀ e u, s.entryOf m.die (l.tag m) = some e → i.phase = .skip → s.copyOuts l (m.outs.zip e.outs) = .ok u →
        exec .skipCopy s = .next ((u.setBushel m.die ((u.bushelOf m.die).map fun x => if x.tag = l.tag m then
          { x with step := i.step, skips := x.skips + 1, use := i.stamp } else x)).setInst l i .done)) ∧
      (∀ o, i.phase = .fill → s.tagBusy m.die (l.tag m) = false → s.readOuts l m.outs = .ok o →
        exec .bushelFill s = .next (((s.reportOuts l m).fillEntry l i m o).setInst l i .done)) ∧
      (∀ a o p prio, i.phase = .aborted a o p prio → s.pageHere a o p = true → s.poolCount i.die < 4096 →
        exec .taskRequeue s = .next ((s.dropAskPage a o p).setInst l i (.pooled s.gts prio)))) ∧
    (∀ u, s.dispatch n = some u → exec .nodeDispatch s = .next u) ∧
    (∀ l i since prio, s.launchOf n = some l → l.inst s.operand.n1 s.operand.n2 = some i → i.phase = .pooled since prio →
      l.stopped = false → prio < 7 → 2 ^ 20 ≤ s.cyclesSince (72 * s.instDie l i) since →
      exec .nodeAging s = .next (s.setInst l i (.pooled s.gts (prio + 1)))) ∧
    (∀ l, s.launchOf n = some l → l.over = true →
      (l.spawner = none → ∃ t : State, exec .launchComplete s = .next t ∧
        (t.workQueue l.wq).head = ((s.workQueue l.wq).head + 1) % 2 ^ ((s.workQueue l.wq).logsz + 1) ∧
        t.launchOf l.n = none ∧ t.mem = s.mem) ∧
      (∀ u, l.spawner = some u → (s.jobCtx u).isSome → exec .launchComplete s =
        .next { s with units.launches := s.units.launches.map fun x =>
          if x.n = l.n then { x with result := some l.status } else x })) ∧
    ((s.units.pageReqs.any fun r => r.asid == n && r.obj == s.operand.n1 && r.page == s.operand.n2) = true →
      s.pageHere n s.operand.n1 s.operand.n2 = true →
      exec .furlongAccessResume s = .next (s.dropAskPage n s.operand.n1 s.operand.n2)) ∧
    (∀ r a e, s.pageReq n s.operand.n1 s.operand.n2 = some r → s.entryAt n s.operand.n1 s.operand.n2 = some (a, e) →
      pageLoc e = 2 →
      (s.hardware 0 = true → s.host.freeList.ready = true → frameBad s.operand.val = false →
        exec .pageFaultService s = .next (State.bringPage { s.askPage r.asid r.obj r.page with
          host.freeList := s.host.freeList.take } r a e s.operand.val.toNat)) ∧
      (s.hardware 0 = false → r.told = false →
        exec .pageFaultService s = .next ((s.askPage r.asid r.obj r.page).tellPage r false))) ∧
    (∀ k, s.spillChoice n = some k →
      (∀ u, s.hardware 2 = true → s.host.savePool.ready = true → areaBad s.operand.val = false → (s.bankCtx k).canStop = true →
        State.spillBank { s with host.savePool := s.host.savePool.take } k (.phys s.operand.val.toNat) (some s.operand.val.toNat) =
          .ok u → exec .hwSpill s = .next u) ∧
      (s.hardware 2 = false → s.units.spillAsked.contains (s.bankCtx k).job.uid = false →
        exec .hwSpill s = .next (s.askSpill k))) ∧
    (∀ r a k u, s.units.spilled.find? (fun r => r.id == n) = some r → r.area = some a → s.fillPlace r = some k →
      s.readyRec r = true → s.fillAgain r = true → ((s.cands r.die).any fun c => decide (r.ctx.prio < c.prio)) = false →
      s.fillBank k (.phys a) = .ok u → exec .hwFill s = .next (u.areaBack r.die (some a)))
end

