-- ==== Sys2Proof/Laws/Data.lean ====
section
/-! SUPPORT. Tables and memory: a read after a write, and the canonical form. -/
namespace Sys2Proof.Machine

/-! ## Tables -/

theorem Sparse.get_erase {α : Type} (d : α) (t : Sparse α) (n k : Nat) :
    Sparse.get d (Sparse.erase t n) k = if k = n then d else Sparse.get d t k := by
  induction t with
  | nil => simp [Sparse.erase, Sparse.get]
  | cons p r ih =>
    obtain ⟨i, v⟩ := p
    by_cases hi : i = n <;> by_cases hk : i = k <;> simp_all [Sparse.erase, Sparse.get]

theorem Sparse.get_insert {α : Type} (d : α) (t : Sparse α) (n k : Nat) (x : α) (h : Sparse.get d t n = d)
    (hn : ∀ p ∈ t, p.1 ≠ n) : Sparse.get d (Sparse.insert n x t) k = if k = n then x else Sparse.get d t k := by
  induction t with
  | nil => simp [Sparse.insert, Sparse.get, eq_comm]
  | cons p r ih =>
    obtain ⟨i, v⟩ := p
    have hi : i ≠ n := hn (i, v) (by simp)
    have hr : ∀ p ∈ r, p.1 ≠ n := fun p hp => hn p (by simp [hp])
    simp only [Sparse.get, if_neg hi] at h
    by_cases hlt : n < i
    · by_cases hk : k = n
      · subst hk; simp [Sparse.insert, hlt, Sparse.get]
      · simp [Sparse.insert, hlt, Sparse.get, hk, Ne.symm hk]
    · by_cases hk : i = k
      · subst hk; simp [Sparse.insert, hlt, Sparse.get, hi]
      · simp [Sparse.insert, hlt, Sparse.get, hk, ih h hr]

theorem Sparse.erase_ne {α : Type} (t : Sparse α) (n : Nat) : ∀ p ∈ Sparse.erase t n, p.1 ≠ n := by
  induction t with
  | nil => simp [Sparse.erase]
  | cons p r ih =>
    obtain ⟨i, v⟩ := p
    by_cases hi : i = n
    · simpa [Sparse.erase, hi] using ih
    · intro q hq
      simp only [Sparse.erase, if_neg hi, List.mem_cons] at hq
      rcases hq with rfl | hq
      · exact hi
      · exact ih q hq

/-- A table reads what was written, and elsewhere what it held. -/
theorem Sparse.get_set {α : Type} [DecidableEq α] (d : α) (t : Sparse α) (n k : Nat) (x : α) :
    Sparse.get d (Sparse.set d t n x) k = if k = n then x else Sparse.get d t k := by
  unfold Sparse.set
  split
  · next h => subst h; exact Sparse.get_erase x t n k
  · rw [Sparse.get_insert d (Sparse.erase t n) n k x (by simp [Sparse.get_erase]) (Sparse.erase_ne t n)]
    split
    · rfl
    · next h => rw [Sparse.get_erase, if_neg h]

theorem Sparse.get_set_same {α : Type} [DecidableEq α] (d : α) (t : Sparse α) (n : Nat) (x : α) :
    Sparse.get d (Sparse.set d t n x) n = x := by simp [Sparse.get_set]

theorem Sparse.get_set_other {α : Type} [DecidableEq α] (d : α) (t : Sparse α) (n k : Nat) (x : α) (h : k ≠ n) :
    Sparse.get d (Sparse.set d t n x) k = Sparse.get d t k := by simp [Sparse.get_set, h]

/-! ## The canonical form -/

theorem Sparse.above_mono {α : Type} {t : Sparse α} {m n : Nat} (h : Sparse.above n t = true) (hm : m ≤ n) :
    Sparse.above m t = true := by
  induction t with
  | nil => rfl
  | cons p r ih =>
    simp only [Sparse.above, Bool.and_eq_true, decide_eq_true_eq] at h ⊢
    exact ⟨by omega, ih h.2⟩

theorem Sparse.above_erase {α : Type} {t : Sparse α} {m n : Nat} (h : Sparse.above m t = true) :
    Sparse.above m (Sparse.erase t n) = true := by
  induction t with
  | nil => rfl
  | cons p r ih =>
    simp only [Sparse.above, Bool.and_eq_true, decide_eq_true_eq] at h
    by_cases hi : p.1 = n
    · simpa [Sparse.erase, hi] using ih h.2
    · simp [Sparse.erase, hi, Sparse.above, h.1, ih h.2]

theorem Sparse.above_insert {α : Type} {t : Sparse α} {m n : Nat} {x : α} (h : Sparse.above m t = true) (hm : m < n) :
    Sparse.above m (Sparse.insert n x t) = true := by
  induction t with
  | nil => simp [Sparse.insert, Sparse.above, hm]
  | cons p r ih =>
    simp only [Sparse.above, Bool.and_eq_true, decide_eq_true_eq] at h
    by_cases hlt : n < p.1
    · simp [Sparse.insert, hlt, Sparse.above, hm, h.1, h.2]
    · simp [Sparse.insert, hlt, Sparse.above, h.1, ih h.2]

theorem Sparse.wf_erase {α : Type} [DecidableEq α] {d : α} {t : Sparse α} {n : Nat} (h : Sparse.wf d t = true) :
    Sparse.wf d (Sparse.erase t n) = true := by
  induction t with
  | nil => rfl
  | cons p r ih =>
    simp only [Sparse.wf, Bool.and_eq_true, decide_eq_true_eq] at h
    by_cases hi : p.1 = n
    · simpa [Sparse.erase, hi] using ih h.2
    · simp [Sparse.erase, hi, Sparse.wf, Sparse.above_erase h.1.1, h.1.2, ih h.2]

theorem Sparse.wf_insert {α : Type} [DecidableEq α] {d : α} {t : Sparse α} {n : Nat} {x : α} (h : Sparse.wf d t = true)
    (hx : x ≠ d) (hn : ∀ p ∈ t, p.1 ≠ n) : Sparse.wf d (Sparse.insert n x t) = true := by
  induction t with
  | nil => simp [Sparse.insert, Sparse.wf, Sparse.above, hx]
  | cons p r ih =>
    simp only [Sparse.wf, Bool.and_eq_true, decide_eq_true_eq] at h
    have hp : p.1 ≠ n := hn p (by simp)
    by_cases hlt : n < p.1
    · simp [Sparse.insert, hlt, Sparse.wf, Sparse.above, hx, h.1.1, h.1.2, h.2,
        Sparse.above_mono h.1.1 (Nat.le_of_lt hlt)]
    · have := ih h.2 fun q hq => hn q (by simp [hq])
      simp [Sparse.insert, hlt, Sparse.wf, h.1.2, this, Sparse.above_insert h.1.1 (show p.1 < n by omega)]

/-- Setting a value keeps the canonical form. -/
theorem Sparse.wf_set {α : Type} [DecidableEq α] {d : α} {t : Sparse α} {n : Nat} {x : α} (h : Sparse.wf d t = true) :
    Sparse.wf d (Sparse.set d t n x) = true := by
  unfold Sparse.set
  split
  · exact Sparse.wf_erase h
  · next hx => exact Sparse.wf_insert (Sparse.wf_erase h) hx (Sparse.erase_ne t n)

/-! ## Memory -/

/-- Reading a byte after one byte has been written. -/
theorem Memory.get_set (m : Memory) (a k : Nat) (b : Byte) : (m.set a b).get k = if k = a then b else m.get k :=
  Sparse.get_set memBlank m a k b

/-- A write of one byte keeps the canonical form. -/
theorem Memory.wf_set {m : Memory} {a : Nat} {b : Byte} (h : m.wf = true) : (m.set a b).wf = true := Sparse.wf_set h

/-- A write of bytes keeps the canonical form. -/
theorem Memory.wf_write (l : List Byte) : ∀ {m : Memory} {a : Nat}, m.wf = true → (m.write a l).wf = true := by
  induction l with
  | nil => intro m a h; exact h
  | cons b r ih => intro m a h; exact ih (Memory.wf_set h)

/-- A write of bytes leaves every other address alone. -/
theorem Memory.get_write_other (l : List Byte) : ∀ (m : Memory) (a k : Nat), k < a ∨ a + l.length ≤ k →
    (m.write a l).get k = m.get k := by
  induction l with
  | nil => intro m a k _; rfl
  | cons b r ih =>
    intro m a k h
    simp only [List.length_cons] at h
    show (Memory.write (m.set a b) (a + 1) r).get k = _
    rw [ih _ _ _ (by omega), Memory.get_set, if_neg (by omega)]

/-- A read of the bytes that a write has written gives them. -/
theorem Memory.read_write (l : List Byte) : ∀ (m : Memory) (a : Nat), (m.write a l).read a l.length = l := by
  induction l with
  | nil => intro m a; rfl
  | cons b r ih =>
    intro m a
    show (Memory.write (m.set a b) (a + 1) r).get a :: Memory.read (Memory.write (m.set a b) (a + 1) r) (a + 1) r.length = _
    rw [Memory.get_write_other _ _ _ _ (by omega), Memory.get_set, if_pos rfl, ih]

/-- What memory lists nothing of reads blank. -/
theorem Memory.get_nil (a : Nat) : Memory.get [] a = memBlank := rfl

theorem Memory.wf_nil : Memory.wf [] = true := rfl

/-- The number that the bytes of a number give. -/
theorem bytesToNat_natToBytes : ∀ n v : Nat, bytesToNat (natToBytes n v) = v % 256 ^ n
  | 0, v => by simp [natToBytes, bytesToNat, Nat.mod_one]
  | n + 1, v => by
    rw [natToBytes, bytesToNat, bytesToNat_natToBytes n, BitVec.toNat_ofNat,
      show 256 ^ (n + 1) = 256 * 256 ^ n by rw [Nat.pow_succ, Nat.mul_comm], Nat.mod_mul]

@[simp] theorem length_natToBytes : ∀ n v : Nat, (natToBytes n v).length = n
  | 0, _ => rfl
  | n + 1, v => by rw [natToBytes, List.length_cons, length_natToBytes n]

end Sys2Proof.Machine
end

