-- ==== Sys2Proof/Laws/Issue.lean ====
section
/-! SUPPORT. What the shared operations of issue do: an engine that takes an instruction at once, a word that SEQ executes,
and the computations over registers that instructions are made of. -/
namespace Sys2Proof.Machine

/-! ## Computations -/

theorem bind_ok {α β : Type} {m : M α} {k : α → M β} {s s' : State} {a : α} (h : m s = .ok a s') :
    (m >>= k) s = k a s' := by
  show EStateM.bind m k s = _
  simp [EStateM.bind, h]

theorem bind_err {α β : Type} {m : M α} {k : α → M β} {s s' : State} {e : Stop} (h : m s = .error e s') :
    (m >>= k) s = .error e s' := by
  show EStateM.bind m k s = _
  simp [EStateM.bind, h]

theorem get_bind {β : Type} {k : State → M β} {s : State} : ((get : M State) >>= k) s = k s s := rfl
theorem pure_bind' {α β : Type} {a : α} {k : α → M β} {s : State} : ((pure a : M α) >>= k) s = k a s := rfl
theorem set_ok {s t : State} : (set t : M Unit) s = .ok () t := rfl
theorem modify_ok {f : State → State} {s : State} : (modify f : M Unit) s = .ok () (f s) := rfl
theorem need_ok {b : Bool} {c : Cause} {s : State} (h : b = true) : need b c s = .ok () s := by subst h; rfl
theorem need_fault {b : Bool} {c : Cause} {s : State} (h : b = false) : need b c s = .error (.trap { cause := c }) s := by
  subst h; rfl
theorem await_ok {b : Bool} {s : State} (h : b = true) : await b s = .ok () s := by subst h; rfl
theorem await_wait {b : Bool} {s : State} (h : b = false) : await b s = .error .wait s := by subst h; rfl
theorem check_ok {t : Option TrapInfo} {s : State} (h : t = none) : check t s = .ok () s := by subst h; rfl

/-! ## Registers -/

theorem rdX_ok {s : State} {d : BitVec 5} (h : s.xBusy d = false) : rdX d s = .ok (s.x d) s := by
  simp [rdX, get_bind, h]; rfl
theorem freeX_ok {s : State} {d : BitVec 5} (h : s.xBusy d = false) : freeX d s = .ok () s := by
  simp [freeX, get_bind, h]; rfl
theorem rdC_ok {s : State} {n : BitVec 5} (h : s.cBusy n.toNat = false) : rdC n s = .ok (s.c n.toNat) s := by
  simp [rdC, get_bind, h]; rfl
theorem freeC_ok {s : State} {n : BitVec 5} (h : s.cBusy n.toNat = false) : freeC n s = .ok () s := by
  simp [freeC, get_bind, h]; rfl
theorem wrX_ok {s : State} {d : BitVec 5} {v : DWord} : wrX d v s = .ok () (s.setX d v) := rfl
theorem wrC_ok {s : State} {n : BitVec 5} {v : Cap} : wrC n v s = .ok () (s.setC n.toNat v) := rfl

theorem setX_hold (s : State) (d : BitVec 5) (v : DWord) (e : Engine) : (s.setX d v).hold e = s.hold e := by
  unfold State.setX; split <;> rfl
theorem setX_stuck (s : State) (d : BitVec 5) (v : DWord) :
    ({ s.setX d v with ctx.stuck := s.ctx.stuck } : State) = s.setX d v := by
  unfold State.setX; split <;> rfl

theorem binX_ok {s : State} {d a b : BitVec 5} {g : DWord → DWord → DWord} (ha : s.xBusy a = false)
    (hb : s.xBusy b = false) (hd : s.xBusy d = false) : binX d a b g s = .ok () (s.setX d (g (s.x a) (s.x b))) := by
  unfold binX
  rw [bind_ok (rdX_ok ha), bind_ok (rdX_ok hb), bind_ok (freeX_ok hd)]; rfl

theorem unX_ok {s : State} {d a : BitVec 5} {g : DWord → DWord} (ha : s.xBusy a = false) (hd : s.xBusy d = false) :
    unX d a g s = .ok () (s.setX d (g (s.x a))) := by
  unfold unX
  rw [bind_ok (rdX_ok ha), bind_ok (freeX_ok hd)]; rfl

/-! ## Engines -/

/-- An engine that takes an instruction runs it, or only retires it where its predicate does not hold. -/
theorem issue_takes {e : Engine} {i : Instr} {n : Nat} {wf : Option Cause} {eff : Env → M Unit} {s : State}
    {r : BitVec 3} {t : BitVec 2} {on : Bool} (h : s.takes e i (r, t, on)) (hw : wf = wordFault i) (hn : n ≤ 2) :
    ∃ k : Nat, issue e i n wf eff s = conclude e (.instr i s.fetchPoint k r t s.ctx.seq.k on) false
      (runItem e (.instr i s.fetchPoint k r t s.ctx.seq.k on)
        (eff { rnd := r, sat := t, k := s.ctx.seq.k, addr := s.fetchPoint }) (s.advance n)) := by
  obtain ⟨h1, h2, h3, h4, h5, h6, h7, h8⟩ := h
  subst hw
  have hq : (s.advance n).queue e = [] := h5
  have hh : (s.advance n).heldBy e = false := h6
  have hl : inMask (s.advance n).lag e = false := h7
  unfold State.modifiers at h2
  unfold issue
  simp only [State.itemOf, State.room, h1, h4]
  cases hp : s.ctx.seq.pfx with
  | none =>
    simp only [hp, Option.some.injEq, Prod.mk.injEq] at h2
    obtain ⟨rfl, rfl, rfl⟩ := h2
    refine ⟨n, ?_⟩
    simp [h5, queueWords, Item.words, queueDepth, steer, hq, hh, hl, Item.env, show n ≤ 32 by omega]
  | some p =>
    simp only [hp] at h2
    split at h2
    · next hc =>
      simp only [Option.some.injEq, Prod.mk.injEq] at h2
      obtain ⟨rfl, rfl, rfl⟩ := h2
      refine ⟨n + 1, ?_⟩
      first
        | (simp [hc, h3, h5, queueWords, Item.words, queueDepth, steer, hq, hh, hl, Item.env, show n ≤ 31 by omega]; done)
        | (simp [hc, h3, h5, queueWords, Item.words, queueDepth, steer, hq, hh, hl, Item.env, show n < 32 by omega]; done)
    · simp at h2

theorem clearHold_empty {s : State} {e : Engine} (h : s.hold e = {}) : s.clearHold e = s := if_pos h

/-- An instruction whose effect runs to its end is done: what it leaves is the next state. -/
theorem issue_ok {e : Engine} {i : Instr} {n : Nat} {wf : Option Cause} {eff : Env → M Unit} {s s' : State}
    {r : BitVec 3} {t : BitVec 2} (h : s.takes e i (r, t, true)) (hw : wf = wordFault i) (hn : n ≤ 2) (he : e ≠ .vec)
    (hr : eff { rnd := r, sat := t, k := s.ctx.seq.k, addr := s.fetchPoint } (s.advance n) = .ok () s')
    (hs : s'.hold e = {}) : issue e i n wf eff s = .next { s' with ctx.stuck := 0 } := by
  obtain ⟨k, hi⟩ := issue_takes (eff := eff) h hw hn
  have hh : (s.advance n).hold e = {} := h.2.2.2.2.2.2.2
  have ha : attempt e (eff { rnd := r, sat := t, k := s.ctx.seq.k, addr := s.fetchPoint }) (s.advance n) = .ok () s' := by
    unfold attempt; rw [get_bind]; simp only [hh]; exact hr
  have hx : runItem e (.instr i s.fetchPoint k r t s.ctx.seq.k true)
      (eff { rnd := r, sat := t, k := s.ctx.seq.k, addr := s.fetchPoint }) (s.advance n) = .ok () s' := by
    unfold runItem
    simp only [if_true]
    rw [bind_ok ha]
    simp only [retire, if_neg he]
    rfl
  rw [hi, hx]
  exact congrArg Host.Outcome.next (clearHold_empty (s := { s' with ctx.stuck := 0 }) hs)

/-- A word of SEQ whose effect runs to its end. -/
theorem seqWord_ok {i : Instr} {n : Nat} {wf : Option Cause} {act : M Unit} {s s' : State} (h : s.runsSeq i)
    (hw : wf = wordFault i) (hr : act s = .ok () s') : seqWord n wf act s = .next s' := by
  obtain ⟨h1, h2, h3⟩ := h
  subst hw
  simp [seqWord, h1, h2, h3, hr]

/-- A word of SEQ that raises a trap. -/
theorem seqWord_trap {i : Instr} {n : Nat} {wf : Option Cause} {act : M Unit} {s s' : State} {t : TrapInfo}
    (h : s.runsSeq i) (hw : wf = wordFault i) (hr : act s = .error (.trap t) s') :
    seqWord n wf act s = .next (s'.takeTrap .seq s.ctx.seq.fetch n t) := by
  obtain ⟨h1, h2, h3⟩ := h
  subst hw
  simp [seqWord, h1, h2, h3, hr]

/-- A word of SEQ that waits. -/
theorem seqWord_wait {i : Instr} {n : Nat} {wf : Option Cause} {act : M Unit} {s s' : State} (h : s.runsSeq i)
    (hw : wf = wordFault i) (hr : act s = .error .wait s') : seqWord n wf act s = .next s'.stall := by
  obtain ⟨h1, h2, h3⟩ := h
  subst hw
  simp [seqWord, h1, h2, h3, hr]

end Sys2Proof.Machine
end

