-- ==== Sys2Proof/Laws/Ops.lean ====
section
/-! SUPPORT. What the shared operations of the engines answer: privilege, transfers, bq, delivery to an x register, queues,
markers, taking a trap and returning from one. -/
namespace Sys2Proof.Machine

/-! ## Checks -/

theorem privileged_ok {s : State} (h : s.ctx.seq.sup = true) : privileged s = .ok () s := by
  unfold privileged; rw [get_bind]; exact need_ok h
theorem privileged_bad {s : State} (h : s.ctx.seq.sup = false) : privileged s = .error (.trap { cause := .priv }) s := by
  unfold privileged; rw [get_bind]; exact need_fault h
theorem notInTask_ok {s : State} (h : s.ctx.job.task = false) : notInTask s = .ok () s := by
  unfold notInTask; rw [get_bind]; exact need_ok (by simp [h])
theorem next_ok {s : State} {n : Nat} : Machine.next n s = .ok () (s.advance n) := rfl

/-! ## Transfers (R64, R125) -/

theorem checkTarget_ok {s : State} {t : Int} (h : s.inCode t) : checkTarget t s = .ok () s := by
  unfold checkTarget; rw [get_bind]
  rw [if_neg (by unfold State.inCode at h; omega)]; rfl
theorem checkTarget_bad {s : State} {t : Int} (h : ¬ s.inCode t) : checkTarget t s = .error (.trap
    { cause := .capBounds, toff := t.toNat, tinfo := 4, cap := s.ctx.job.code }) s := by
  unfold checkTarget; rw [get_bind]
  rw [if_pos (by unfold State.inCode at h; omega)]; rfl
theorem branchTo_ok {s : State} {t : Int} (h : s.inCode t) :
    branchTo t s = .ok () { s.jump t.toNat with ctx.seq.loops := openAt s.ldepth t.toNat s.ctx.seq.loops } := by
  unfold branchTo; rw [bind_ok (checkTarget_ok h)]; rfl
theorem branchTo_bad {s : State} {t : Int} (h : ¬ s.inCode t) : branchTo t s = .error (.trap
    { cause := .capBounds, toff := t.toNat, tinfo := 4, cap := s.ctx.job.code }) s := by
  unfold branchTo; rw [bind_err (checkTarget_bad h)]

/-! ## The branch-outcome queue (R21, R126) -/

theorem popBq_ok {s : State} {b : Bool} {r : List Bool} (h : s.ctx.bq.producer.isSome) (hb : s.ctx.bq.bits = b :: r) :
    popBq s = .ok b { s with ctx.bq.bits := r } := by
  unfold popBq; rw [get_bind, bind_ok (need_ok h)]; simp only [hb]; rfl

theorem popBits_ok (l r : List Bool) : ∀ {s : State}, s.ctx.bq.producer.isSome → s.ctx.bq.bits = l ++ r →
    popBits l.length s = .ok () { s with ctx.bq.bits := r, ctx.seq.bits := s.ctx.seq.bits ++ l } := by
  induction l with
  | nil => intro s h hb; simp only [List.nil_append] at hb; subst hb; simp [popBits]; rfl
  | cons b l ih =>
    intro s h hb
    show popBits (l.length + 1) s = _
    unfold popBits
    rw [bind_ok (popBq_ok h hb)]
    show popBits l.length _ = _
    rw [ih]
    · simp [State.modSeq]
    · exact h
    · rfl

/-! ## Delivery to an x register (R148) -/

theorem deliver_idle {s : State} {d : BitVec 5} {v : DWord} {a : Nat} (h : s.idleEngine .acc = true)
    (hx : s.xBusy d = false) : deliverX d v a s = .ok () (s.setX d v) := by
  unfold deliverX; rw [get_bind, if_pos ⟨h, by simp [hx]⟩]; rfl
theorem deliver_busy {s : State} {d : BitVec 5} {v : DWord} {a : Nat} (h : s.idleEngine .acc = false)
    (hx : s.room .acc 1 = true) : deliverX d v a s = .ok () (s.enqueue .acc (.deliver d v a)) := by
  unfold deliverX; rw [get_bind, if_neg (by simp [h]), bind_ok (await_ok hx)]; rfl
theorem awaitDeliver_ok {s : State} {d : BitVec 5} (h : s.idleEngine .acc = true) (hx : s.xBusy d = false) :
    awaitDeliver d s = .ok () s := by
  unfold awaitDeliver; rw [get_bind]; exact await_ok (by simp [h, hx])

/-! ## Instruction queues and markers (R11, R48, R137) -/

theorem setQueue_queue (s : State) (e k : Engine) (l : List Item) :
    (s.setQueue e l).queue k = if k = e then l else s.queue k := by
  show Sparse.get [] (Sparse.set [] _ _ _) _ = _
  rw [Sparse.get_set]
  by_cases h : k = e
  · subst h; simp
  · rw [if_neg h, if_neg]; rfl
    intro hc; revert h hc; cases k <;> cases e <;> simp [Engine.code]

theorem placeMarkers_queue (l : List Engine) (it : Item) : ∀ (s : State) (e : Engine), l.Nodup →
    (s.placeMarkers l it).queue e = if e ∈ l then s.queue e ++ [it] else s.queue e := by
  induction l with
  | nil => intro s e _; simp [State.placeMarkers]
  | cons a l ih =>
    intro s e hn
    rw [List.nodup_cons] at hn
    show ((s.enqueue a it).placeMarkers l it).queue e = _
    rw [ih _ _ hn.2]
    unfold State.enqueue
    rw [setQueue_queue]
    by_cases h : e = a
    · subst h; simp [hn.1]
    · simp [h]

theorem placeMarkers_seq (l : List Engine) (it : Item) : ∀ s : State, (s.placeMarkers l it).ctx.seq = s.ctx.seq := by
  induction l with
  | nil => intro s; rfl
  | cons a l ih => intro s; exact ih (s.enqueue a it)

theorem focus_cur (s : State) (k : BankKey) : (s.focus k).cur = k := by
  unfold State.focus; split
  · next h => exact h.symm
  · rfl

/-! ## Traps (R142 to R145) -/

theorem epcs_get (s : State) (g : Engine) : (s.epcs).get 0 g.code = BitVec.ofNat 64 (s.epc g) := by
  simp only [State.epcs, engines, List.foldl, Sparse.get_set]
  cases g <;> simp [Engine.code]

theorem unfetch_none {s : State} (h : s.ctx.seq.pfx = none) : s.unfetch = s := by
  unfold State.unfetch
  have hf : s.fetchPoint = s.ctx.seq.fetch := by unfold State.fetchPoint; rw [h]
  rw [hf, ← h]

/-- A report of an uncorrectable sector changes the counters of the memory-side caches, the host's events, and the count of
the free values: nothing else. -/
theorem detect_frame (s : State) (n : Nat) :
    s.detect n = { s with msc := (s.detect n).msc, host := (s.detect n).host, fresh := (s.detect n).fresh } := by
  unfold State.detect State.errorEvent State.countSector; split <;> split <;> rfl

theorem detects_frame (l : List Nat) : ∀ s : State, l.foldl State.detect s =
    { s with msc := (l.foldl State.detect s).msc, host := (l.foldl State.detect s).host,
             fresh := (l.foldl State.detect s).fresh } := by
  induction l with
  | nil => intro s; rfl
  | cons a l ih =>
    intro s
    have h := ih (s.detect a)
    rw [detect_frame s a] at h
    simp only [List.foldl]
    rw [detect_frame s a]; exact h

theorem noteBad_frame (s : State) (t : TrapInfo) :
    s.noteBad t = { s with msc := (s.noteBad t).msc, host := (s.noteBad t).host, fresh := (s.noteBad t).fresh } := by
  unfold State.noteBad
  split
  · rfl
  · split
    · rfl
    · exact detects_frame _ s
    · split
      · exact detect_frame s _
      · rfl
    · split <;> rfl

@[simp] theorem noteBad_ctx (s : State) (t : TrapInfo) : (s.noteBad t).ctx = s.ctx := by rw [noteBad_frame]
@[simp] theorem noteBad_mem (s : State) (t : TrapInfo) : (s.noteBad t).mem = s.mem := by rw [noteBad_frame]
@[simp] theorem noteBad_gts (s : State) (t : TrapInfo) : (s.noteBad t).gts = s.gts := by rw [noteBad_frame]
@[simp] theorem noteBad_cur (s : State) (t : TrapInfo) : (s.noteBad t).cur = s.cur := by rw [noteBad_frame]
@[simp] theorem noteBad_other {s : State} {t : TrapInfo} (h : t.cause ≠ .eccUncorrectable) : s.noteBad t = s := if_pos h

/-- What a trap comes to: its record, and the handler, or the end of the job. -/
theorem takeTrap_eq {s : State} {e : Engine} {addr len : Nat} {i : TrapInfo} (h : s.landingsSettled = true)
    (hp : s.ctx.seq.pfx = none) (h1 : ¬ (s.ctx.job.task = true ∧ i.cause = .pageNonresident))
    (h2 : i.cause ≠ .commitOverflow) :
    s.takeTrap e addr len i =
      (let s := ({ s.noteBad i with ctx.trapPending := none, ctx.frozen := false } : State)
       let s := s.recordTrap e addr len i
       if s.ctx.seq.intrap ∨ !s.vectored then s.endJob .terminated (.trapped i.cause.code) else s.enterHandler) := by
  have h' : (s.noteBad i).landingsSettled = true := by unfold State.landingsSettled; rw [noteBad_ctx]; exact h
  have h1' : ¬ ((s.noteBad i).ctx.job.task = true ∧ i.cause = .pageNonresident) := by rw [noteBad_ctx]; exact h1
  unfold State.takeTrap; simp only; rw [if_pos h']; unfold State.trapNow; rw [unfetch_none (by rw [noteBad_ctx]; exact hp)]
  simp only
  rw [if_neg h1', if_neg h2]

theorem takeTrap_enters {s : State} {e : Engine} {addr len : Nat} {i : TrapInfo} (h : s.landingsSettled = true)
    (hp : s.ctx.seq.pfx = none) (h1 : ¬ (s.ctx.job.task = true ∧ i.cause = .pageNonresident))
    (h2 : i.cause ≠ .commitOverflow) (h3 : s.ctx.seq.intrap = false) (h4 : s.vectored = true) :
    s.takeTrap e addr len i =
      (({ s.noteBad i with ctx.trapPending := none, ctx.frozen := false } : State).recordTrap e addr len i).enterHandler := by
  rw [takeTrap_eq h hp h1 h2]
  refine if_neg ?_
  show ¬ ((s.noteBad i).ctx.seq.intrap = true ∨ (!(s.noteBad i).vectored) = true)
  have h4' : (s.noteBad i).vectored = true := by unfold State.vectored; rw [noteBad_ctx]; exact h4
  rw [noteBad_ctx, h4']; simp [h3]

theorem depart_frame (t : State) : t.depart.mem = t.mem ∧ t.depart.l2 = t.l2 ∧ t.depart.ctx = t.ctx := by
  unfold State.depart; simp only; split <;> exact ⟨rfl, rfl, rfl⟩
theorem askFor_frame (t : State) (k : EndKind) : (t.askFor k).mem = t.mem ∧ (t.askFor k).l2 = t.l2 ∧ (t.askFor k).ctx = t.ctx := by
  unfold State.askFor; split
  · unfold State.askPage; split <;> exact ⟨rfl, rfl, rfl⟩
  · exact ⟨rfl, rfl, rfl⟩
theorem noteEnd_frame (t : State) (k : EndKind) :
    (t.noteEnd k).mem = t.mem ∧ (t.noteEnd k).l2 = t.l2 ∧ (t.noteEnd k).ctx = t.ctx := by
  unfold State.noteEnd; split
  · exact askFor_frame _ _
  · exact ⟨rfl, rfl, rfl⟩
theorem releaseAll_frame (l : List (DWord × Nat)) : ∀ t : State,
    (l.foldl (fun s h => s.addCmd (s.freeCmd (.rel h.1 h.2))) t).mem = t.mem ∧
    (l.foldl (fun s h => s.addCmd (s.freeCmd (.rel h.1 h.2))) t).l2 = t.l2 ∧
    (l.foldl (fun s h => s.addCmd (s.freeCmd (.rel h.1 h.2))) t).ctx = t.ctx := by
  induction l with
  | nil => intro t; exact ⟨rfl, rfl, rfl⟩
  | cons a l ih => intro t; exact ih _
theorem departFor_frame (t : State) (st : CtxStatus) :
    (t.departFor st).mem = t.mem ∧ (t.departFor st).l2 = t.l2 ∧ (t.departFor st).ctx = t.ctx := by
  unfold State.departFor; split
  · exact ⟨rfl, rfl, rfl⟩
  · exact depart_frame t
theorem bankLeft_frame (t : State) (st : CtxStatus) (die : Nat) :
    (t.bankLeft st die).mem = t.mem ∧ (t.bankLeft st die).l2 = t.l2 ∧ (t.bankLeft st die).ctx = t.ctx := by
  unfold State.bankLeft; split <;> exact ⟨rfl, rfl, rfl⟩

/-- What the units do at the end of a job leaves memory and the context as they are. -/
theorem unitsLeft_frame (s : State) (st : CtxStatus) (k : EndKind) :
    (((s.noteEnd k).withdraw.releaseHolds.departFor st).leaveUnits).mem = s.mem ∧
    (((s.noteEnd k).withdraw.releaseHolds.departFor st).leaveUnits).l2 = s.l2 ∧
    (((s.noteEnd k).withdraw.releaseHolds.departFor st).leaveUnits).ctx = s.ctx := by
  refine ⟨?_, ?_, ?_⟩
  · show ((s.noteEnd k).withdraw.releaseHolds.departFor st).mem = _
    rw [(departFor_frame _ _).1]; unfold State.releaseHolds; rw [(releaseAll_frame _ _).1]; exact (noteEnd_frame s k).1
  · show ((s.noteEnd k).withdraw.releaseHolds.departFor st).l2 = _
    rw [(departFor_frame _ _).2.1]; unfold State.releaseHolds; rw [(releaseAll_frame _ _).2.1]; exact (noteEnd_frame s k).2.1
  · show ((s.noteEnd k).withdraw.releaseHolds.departFor st).ctx = _
    rw [(departFor_frame _ _).2.2]; unfold State.releaseHolds; rw [(releaseAll_frame _ _).2.2]; exact (noteEnd_frame s k).2.2

/-- The end of a job leaves memory, the registers and the trap record as they are, and empties the queues. -/
theorem endJob_frame (s : State) (st : CtxStatus) (k : EndKind) : (s.endJob st k).mem = s.mem ∧ (s.endJob st k).l2 = s.l2 ∧
    (s.endJob st k).ctx.acc.x = s.ctx.acc.x ∧ (s.endJob st k).ctx.acc.c = s.ctx.acc.c ∧
    (s.endJob st k).ctx.seq.trap = s.ctx.seq.trap ∧ (s.endJob st k).ctx.status = st ∧ (s.endJob st k).ctx.iq = [] := by
  have u := unitsLeft_frame s st k
  have e := bankLeft_frame ((((s.noteEnd k).withdraw.releaseHolds.departFor st).leaveUnits).flushStreams) st s.cur.die
  refine ⟨?_, ?_, ?_, ?_, ?_, rfl, rfl⟩
  · exact e.1.trans u.1
  · exact e.2.1.trans u.2.1
  · exact (congrArg (fun c => c.acc.x) e.2.2).trans (congrArg (fun c => c.acc.x) u.2.2)
  · exact (congrArg (fun c => c.acc.c) e.2.2).trans (congrArg (fun c => c.acc.c) u.2.2)
  · exact (congrArg (fun c => c.seq.trap) e.2.2).trans (congrArg (fun c => c.seq.trap) u.2.2)

/-- The fields of TCAUSE that RFT.skip reads (R143, R145). -/
theorem tcause_fields (e : Engine) (n : Nat) (hn : n < 8) (b : Bool) (c : Cause) :
    bitsOf (tcauseOf c e false b n).toNat 10 8 = e.code ∧ bitsOf (tcauseOf c e false b n).toNat 19 16 = n ∧
      (tcauseOf c e false b n).getLsbD 11 = false := by
  have : c.code < 256 := by cases c <;> decide
  have h6 : e.code < 6 := by cases e <;> decide
  have e1 : (tcauseOf c e false b n).toNat = c.code + 256 * e.code + (if b then 8192 else 0) + 65536 * n := by
    simp [tcauseOf]; split <;> omega
  refine ⟨?_, ?_, ?_⟩
  · rw [e1]; unfold bitsOf; split <;> omega
  · rw [e1]; unfold bitsOf; split <;> omega
  · rw [BitVec.getLsbD, e1, Nat.testBit_eq_decide_div_mod_eq]; simp; split <;> omega

end Sys2Proof.Machine
end

