-- ==== Sys2Proof/Laws/State.lean ====
section
/-! SUPPORT. One lemma for each part of the state and each update that leaves it alone, and what each update writes. -/
namespace Sys2Proof.Machine

/-! ## advance -/

@[simp] theorem State.advance_mem (s : State) (n : Nat) : (s.advance n).mem = s.mem := rfl
@[simp] theorem State.advance_l2 (s : State) (n : Nat) : (s.advance n).l2 = s.l2 := rfl
@[simp] theorem State.advance_cur (s : State) (n : Nat) : (s.advance n).cur = s.cur := rfl
@[simp] theorem State.advance_banks (s : State) (n : Nat) : (s.advance n).banks = s.banks := rfl
@[simp] theorem State.advance_acks (s : State) (n : Nat) : (s.advance n).acks = s.acks := rfl
@[simp] theorem State.advance_ports (s : State) (n : Nat) : (s.advance n).ports = s.ports := rfl
@[simp] theorem State.advance_marks (s : State) (n : Nat) : (s.advance n).marks = s.marks := rfl
@[simp] theorem State.advance_windows (s : State) (n : Nat) : (s.advance n).windows = s.windows := rfl
@[simp] theorem State.advance_l1 (s : State) (n : Nat) : (s.advance n).l1 = s.l1 := rfl
@[simp] theorem State.advance_running (s : State) (n : Nat) : (s.advance n).running = s.running := rfl
@[simp] theorem State.advance_host (s : State) (n : Nat) : (s.advance n).host = s.host := rfl
@[simp] theorem State.advance_power (s : State) (n : Nat) : (s.advance n).power = s.power := rfl
@[simp] theorem State.advance_msc (s : State) (n : Nat) : (s.advance n).msc = s.msc := rfl
@[simp] theorem State.advance_gts (s : State) (n : Nat) : (s.advance n).gts = s.gts := rfl
@[simp] theorem State.advance_fresh (s : State) (n : Nat) : (s.advance n).fresh = s.fresh := rfl
@[simp] theorem State.advance_late (s : State) (n : Nat) : (s.advance n).late = s.late := rfl
@[simp] theorem State.advance_units (s : State) (n : Nat) : (s.advance n).units = s.units := rfl
@[simp] theorem State.advance_pad (s : State) (n : Nat) : (s.advance n).ctx.pad = s.ctx.pad := rfl
@[simp] theorem State.advance_bq (s : State) (n : Nat) : (s.advance n).ctx.bq = s.ctx.bq := rfl
@[simp] theorem State.advance_status (s : State) (n : Nat) : (s.advance n).ctx.status = s.ctx.status := rfl
@[simp] theorem State.advance_job (s : State) (n : Nat) : (s.advance n).ctx.job = s.ctx.job := rfl
@[simp] theorem State.advance_idx (s : State) (n : Nat) : (s.advance n).ctx.idx = s.ctx.idx := rfl
@[simp] theorem State.advance_qnt (s : State) (n : Nat) : (s.advance n).ctx.qnt = s.ctx.qnt := rfl
@[simp] theorem State.advance_links (s : State) (n : Nat) : (s.advance n).ctx.seq.links = s.ctx.seq.links := rfl
@[simp] theorem State.advance_loops (s : State) (n : Nat) : (s.advance n).ctx.seq.loops = s.ctx.seq.loops := rfl
@[simp] theorem State.advance_trap (s : State) (n : Nat) : (s.advance n).ctx.seq.trap = s.ctx.seq.trap := rfl
@[simp] theorem State.advance_sup (s : State) (n : Nat) : (s.advance n).ctx.seq.sup = s.ctx.seq.sup := rfl
@[simp] theorem State.advance_x (s : State) (n : Nat) (j : BitVec 5) : (s.advance n).x j = s.x j := rfl
@[simp] theorem State.advance_c (s : State) (n : Nat) (j : Nat) : (s.advance n).c j = s.c j := rfl
@[simp] theorem State.advance_kreg (s : State) (n : Nat) (j : Nat) : (s.advance n).kreg j = s.kreg j := rfl
@[simp] theorem State.advance_pred (s : State) (n : Nat) (j : Nat) : (s.advance n).pred j = s.pred j := rfl
@[simp] theorem State.advance_lc (s : State) (n : Nat) (j : Nat) : (s.advance n).lc j = s.lc j := rfl
@[simp] theorem State.advance_stream (s : State) (n : Nat) (j : Nat) : (s.advance n).stream j = s.stream j := rfl
@[simp] theorem State.advance_dataQ (s : State) (n : Nat) (j : Nat) : (s.advance n).dataQ j = s.dataQ j := rfl
@[simp] theorem State.advance_queue (s : State) (n : Nat) (j : Engine) : (s.advance n).queue j = s.queue j := rfl
@[simp] theorem State.advance_hold (s : State) (n : Nat) (j : Engine) : (s.advance n).hold j = s.hold j := rfl
@[simp] theorem State.advance_vreg (s : State) (n : Nat) (j : Nat) : (s.advance n).vreg j = s.vreg j := rfl
@[simp] theorem State.advance_mreg (s : State) (n : Nat) (j : Nat) : (s.advance n).mreg j = s.mreg j := rfl
@[simp] theorem State.advance_mat (s : State) (n : Nat) (j : BitVec 2) : (s.advance n).mat j = s.mat j := rfl
@[simp] theorem State.advance_ring (s : State) (n : Nat) (j : Nat) : (s.advance n).ring j = s.ring j := rfl

/-! ## jump -/

@[simp] theorem State.jump_mem (s : State) (t : Nat) : (s.jump t).mem = s.mem := rfl
@[simp] theorem State.jump_l2 (s : State) (t : Nat) : (s.jump t).l2 = s.l2 := rfl
@[simp] theorem State.jump_cur (s : State) (t : Nat) : (s.jump t).cur = s.cur := rfl
@[simp] theorem State.jump_banks (s : State) (t : Nat) : (s.jump t).banks = s.banks := rfl
@[simp] theorem State.jump_acks (s : State) (t : Nat) : (s.jump t).acks = s.acks := rfl
@[simp] theorem State.jump_ports (s : State) (t : Nat) : (s.jump t).ports = s.ports := rfl
@[simp] theorem State.jump_marks (s : State) (t : Nat) : (s.jump t).marks = s.marks := rfl
@[simp] theorem State.jump_windows (s : State) (t : Nat) : (s.jump t).windows = s.windows := rfl
@[simp] theorem State.jump_l1 (s : State) (t : Nat) : (s.jump t).l1 = s.l1 := rfl
@[simp] theorem State.jump_running (s : State) (t : Nat) : (s.jump t).running = s.running := rfl
@[simp] theorem State.jump_host (s : State) (t : Nat) : (s.jump t).host = s.host := rfl
@[simp] theorem State.jump_power (s : State) (t : Nat) : (s.jump t).power = s.power := rfl
@[simp] theorem State.jump_msc (s : State) (t : Nat) : (s.jump t).msc = s.msc := rfl
@[simp] theorem State.jump_gts (s : State) (t : Nat) : (s.jump t).gts = s.gts := rfl
@[simp] theorem State.jump_fresh (s : State) (t : Nat) : (s.jump t).fresh = s.fresh := rfl
@[simp] theorem State.jump_late (s : State) (t : Nat) : (s.jump t).late = s.late := rfl
@[simp] theorem State.jump_units (s : State) (t : Nat) : (s.jump t).units = s.units := rfl
@[simp] theorem State.jump_pad (s : State) (t : Nat) : (s.jump t).ctx.pad = s.ctx.pad := rfl
@[simp] theorem State.jump_bq (s : State) (t : Nat) : (s.jump t).ctx.bq = s.ctx.bq := rfl
@[simp] theorem State.jump_status (s : State) (t : Nat) : (s.jump t).ctx.status = s.ctx.status := rfl
@[simp] theorem State.jump_job (s : State) (t : Nat) : (s.jump t).ctx.job = s.ctx.job := rfl
@[simp] theorem State.jump_idx (s : State) (t : Nat) : (s.jump t).ctx.idx = s.ctx.idx := rfl
@[simp] theorem State.jump_qnt (s : State) (t : Nat) : (s.jump t).ctx.qnt = s.ctx.qnt := rfl
@[simp] theorem State.jump_links (s : State) (t : Nat) : (s.jump t).ctx.seq.links = s.ctx.seq.links := rfl
@[simp] theorem State.jump_loops (s : State) (t : Nat) : (s.jump t).ctx.seq.loops = s.ctx.seq.loops := rfl
@[simp] theorem State.jump_trap (s : State) (t : Nat) : (s.jump t).ctx.seq.trap = s.ctx.seq.trap := rfl
@[simp] theorem State.jump_sup (s : State) (t : Nat) : (s.jump t).ctx.seq.sup = s.ctx.seq.sup := rfl
@[simp] theorem State.jump_x (s : State) (t : Nat) (j : BitVec 5) : (s.jump t).x j = s.x j := rfl
@[simp] theorem State.jump_c (s : State) (t : Nat) (j : Nat) : (s.jump t).c j = s.c j := rfl
@[simp] theorem State.jump_kreg (s : State) (t : Nat) (j : Nat) : (s.jump t).kreg j = s.kreg j := rfl
@[simp] theorem State.jump_pred (s : State) (t : Nat) (j : Nat) : (s.jump t).pred j = s.pred j := rfl
@[simp] theorem State.jump_lc (s : State) (t : Nat) (j : Nat) : (s.jump t).lc j = s.lc j := rfl
@[simp] theorem State.jump_stream (s : State) (t : Nat) (j : Nat) : (s.jump t).stream j = s.stream j := rfl
@[simp] theorem State.jump_dataQ (s : State) (t : Nat) (j : Nat) : (s.jump t).dataQ j = s.dataQ j := rfl
@[simp] theorem State.jump_queue (s : State) (t : Nat) (j : Engine) : (s.jump t).queue j = s.queue j := rfl
@[simp] theorem State.jump_hold (s : State) (t : Nat) (j : Engine) : (s.jump t).hold j = s.hold j := rfl
@[simp] theorem State.jump_vreg (s : State) (t : Nat) (j : Nat) : (s.jump t).vreg j = s.vreg j := rfl
@[simp] theorem State.jump_mreg (s : State) (t : Nat) (j : Nat) : (s.jump t).mreg j = s.mreg j := rfl
@[simp] theorem State.jump_mat (s : State) (t : Nat) (j : BitVec 2) : (s.jump t).mat j = s.mat j := rfl
@[simp] theorem State.jump_ring (s : State) (t : Nat) (j : Nat) : (s.jump t).ring j = s.ring j := rfl

/-! ## setX -/

@[simp] theorem State.setX_mem (s : State) (d : BitVec 5) (v : DWord) : (s.setX d v).mem = s.mem := by unfold State.setX; split <;> rfl
@[simp] theorem State.setX_l2 (s : State) (d : BitVec 5) (v : DWord) : (s.setX d v).l2 = s.l2 := by unfold State.setX; split <;> rfl
@[simp] theorem State.setX_cur (s : State) (d : BitVec 5) (v : DWord) : (s.setX d v).cur = s.cur := by unfold State.setX; split <;> rfl
@[simp] theorem State.setX_banks (s : State) (d : BitVec 5) (v : DWord) : (s.setX d v).banks = s.banks := by unfold State.setX; split <;> rfl
@[simp] theorem State.setX_acks (s : State) (d : BitVec 5) (v : DWord) : (s.setX d v).acks = s.acks := by unfold State.setX; split <;> rfl
@[simp] theorem State.setX_ports (s : State) (d : BitVec 5) (v : DWord) : (s.setX d v).ports = s.ports := by unfold State.setX; split <;> rfl
@[simp] theorem State.setX_marks (s : State) (d : BitVec 5) (v : DWord) : (s.setX d v).marks = s.marks := by unfold State.setX; split <;> rfl
@[simp] theorem State.setX_windows (s : State) (d : BitVec 5) (v : DWord) : (s.setX d v).windows = s.windows := by unfold State.setX; split <;> rfl
@[simp] theorem State.setX_l1 (s : State) (d : BitVec 5) (v : DWord) : (s.setX d v).l1 = s.l1 := by unfold State.setX; split <;> rfl
@[simp] theorem State.setX_running (s : State) (d : BitVec 5) (v : DWord) : (s.setX d v).running = s.running := by unfold State.setX; split <;> rfl
@[simp] theorem State.setX_host (s : State) (d : BitVec 5) (v : DWord) : (s.setX d v).host = s.host := by unfold State.setX; split <;> rfl
@[simp] theorem State.setX_power (s : State) (d : BitVec 5) (v : DWord) : (s.setX d v).power = s.power := by unfold State.setX; split <;> rfl
@[simp] theorem State.setX_msc (s : State) (d : BitVec 5) (v : DWord) : (s.setX d v).msc = s.msc := by unfold State.setX; split <;> rfl
@[simp] theorem State.setX_gts (s : State) (d : BitVec 5) (v : DWord) : (s.setX d v).gts = s.gts := by unfold State.setX; split <;> rfl
@[simp] theorem State.setX_fresh (s : State) (d : BitVec 5) (v : DWord) : (s.setX d v).fresh = s.fresh := by unfold State.setX; split <;> rfl
@[simp] theorem State.setX_late (s : State) (d : BitVec 5) (v : DWord) : (s.setX d v).late = s.late := by unfold State.setX; split <;> rfl
@[simp] theorem State.setX_units (s : State) (d : BitVec 5) (v : DWord) : (s.setX d v).units = s.units := by unfold State.setX; split <;> rfl
@[simp] theorem State.setX_pad (s : State) (d : BitVec 5) (v : DWord) : (s.setX d v).ctx.pad = s.ctx.pad := by unfold State.setX; split <;> rfl
@[simp] theorem State.setX_bq (s : State) (d : BitVec 5) (v : DWord) : (s.setX d v).ctx.bq = s.ctx.bq := by unfold State.setX; split <;> rfl
@[simp] theorem State.setX_status (s : State) (d : BitVec 5) (v : DWord) : (s.setX d v).ctx.status = s.ctx.status := by unfold State.setX; split <;> rfl
@[simp] theorem State.setX_job (s : State) (d : BitVec 5) (v : DWord) : (s.setX d v).ctx.job = s.ctx.job := by unfold State.setX; split <;> rfl
@[simp] theorem State.setX_idx (s : State) (d : BitVec 5) (v : DWord) : (s.setX d v).ctx.idx = s.ctx.idx := by unfold State.setX; split <;> rfl
@[simp] theorem State.setX_qnt (s : State) (d : BitVec 5) (v : DWord) : (s.setX d v).ctx.qnt = s.ctx.qnt := by unfold State.setX; split <;> rfl
@[simp] theorem State.setX_fetch (s : State) (d : BitVec 5) (v : DWord) : (s.setX d v).ctx.seq.fetch = s.ctx.seq.fetch := by unfold State.setX; split <;> rfl
@[simp] theorem State.setX_links (s : State) (d : BitVec 5) (v : DWord) : (s.setX d v).ctx.seq.links = s.ctx.seq.links := by unfold State.setX; split <;> rfl
@[simp] theorem State.setX_loops (s : State) (d : BitVec 5) (v : DWord) : (s.setX d v).ctx.seq.loops = s.ctx.seq.loops := by unfold State.setX; split <;> rfl
@[simp] theorem State.setX_trap (s : State) (d : BitVec 5) (v : DWord) : (s.setX d v).ctx.seq.trap = s.ctx.seq.trap := by unfold State.setX; split <;> rfl
@[simp] theorem State.setX_sup (s : State) (d : BitVec 5) (v : DWord) : (s.setX d v).ctx.seq.sup = s.ctx.seq.sup := by unfold State.setX; split <;> rfl
@[simp] theorem State.setX_c (s : State) (d : BitVec 5) (v : DWord) (j : Nat) : (s.setX d v).c j = s.c j := by unfold State.setX; split <;> rfl
@[simp] theorem State.setX_kreg (s : State) (d : BitVec 5) (v : DWord) (j : Nat) : (s.setX d v).kreg j = s.kreg j := by unfold State.setX; split <;> rfl
@[simp] theorem State.setX_pred (s : State) (d : BitVec 5) (v : DWord) (j : Nat) : (s.setX d v).pred j = s.pred j := by unfold State.setX; split <;> rfl
@[simp] theorem State.setX_lc (s : State) (d : BitVec 5) (v : DWord) (j : Nat) : (s.setX d v).lc j = s.lc j := by unfold State.setX; split <;> rfl
@[simp] theorem State.setX_stream (s : State) (d : BitVec 5) (v : DWord) (j : Nat) : (s.setX d v).stream j = s.stream j := by unfold State.setX; split <;> rfl
@[simp] theorem State.setX_dataQ (s : State) (d : BitVec 5) (v : DWord) (j : Nat) : (s.setX d v).dataQ j = s.dataQ j := by unfold State.setX; split <;> rfl
@[simp] theorem State.setX_queue (s : State) (d : BitVec 5) (v : DWord) (j : Engine) : (s.setX d v).queue j = s.queue j := by unfold State.setX; split <;> rfl
@[simp] theorem State.setX_hold (s : State) (d : BitVec 5) (v : DWord) (j : Engine) : (s.setX d v).hold j = s.hold j := by unfold State.setX; split <;> rfl
@[simp] theorem State.setX_vreg (s : State) (d : BitVec 5) (v : DWord) (j : Nat) : (s.setX d v).vreg j = s.vreg j := by unfold State.setX; split <;> rfl
@[simp] theorem State.setX_mreg (s : State) (d : BitVec 5) (v : DWord) (j : Nat) : (s.setX d v).mreg j = s.mreg j := by unfold State.setX; split <;> rfl
@[simp] theorem State.setX_mat (s : State) (d : BitVec 5) (v : DWord) (j : BitVec 2) : (s.setX d v).mat j = s.mat j := by unfold State.setX; split <;> rfl
@[simp] theorem State.setX_ring (s : State) (d : BitVec 5) (v : DWord) (j : Nat) : (s.setX d v).ring j = s.ring j := by unfold State.setX; split <;> rfl

/-! ## setC -/

@[simp] theorem State.setC_mem (s : State) (n : Nat) (v : Cap) : (s.setC n v).mem = s.mem := rfl
@[simp] theorem State.setC_l2 (s : State) (n : Nat) (v : Cap) : (s.setC n v).l2 = s.l2 := rfl
@[simp] theorem State.setC_cur (s : State) (n : Nat) (v : Cap) : (s.setC n v).cur = s.cur := rfl
@[simp] theorem State.setC_banks (s : State) (n : Nat) (v : Cap) : (s.setC n v).banks = s.banks := rfl
@[simp] theorem State.setC_acks (s : State) (n : Nat) (v : Cap) : (s.setC n v).acks = s.acks := rfl
@[simp] theorem State.setC_ports (s : State) (n : Nat) (v : Cap) : (s.setC n v).ports = s.ports := rfl
@[simp] theorem State.setC_marks (s : State) (n : Nat) (v : Cap) : (s.setC n v).marks = s.marks := rfl
@[simp] theorem State.setC_windows (s : State) (n : Nat) (v : Cap) : (s.setC n v).windows = s.windows := rfl
@[simp] theorem State.setC_l1 (s : State) (n : Nat) (v : Cap) : (s.setC n v).l1 = s.l1 := rfl
@[simp] theorem State.setC_running (s : State) (n : Nat) (v : Cap) : (s.setC n v).running = s.running := rfl
@[simp] theorem State.setC_host (s : State) (n : Nat) (v : Cap) : (s.setC n v).host = s.host := rfl
@[simp] theorem State.setC_power (s : State) (n : Nat) (v : Cap) : (s.setC n v).power = s.power := rfl
@[simp] theorem State.setC_msc (s : State) (n : Nat) (v : Cap) : (s.setC n v).msc = s.msc := rfl
@[simp] theorem State.setC_gts (s : State) (n : Nat) (v : Cap) : (s.setC n v).gts = s.gts := rfl
@[simp] theorem State.setC_fresh (s : State) (n : Nat) (v : Cap) : (s.setC n v).fresh = s.fresh := rfl
@[simp] theorem State.setC_late (s : State) (n : Nat) (v : Cap) : (s.setC n v).late = s.late := rfl
@[simp] theorem State.setC_units (s : State) (n : Nat) (v : Cap) : (s.setC n v).units = s.units := rfl
@[simp] theorem State.setC_pad (s : State) (n : Nat) (v : Cap) : (s.setC n v).ctx.pad = s.ctx.pad := rfl
@[simp] theorem State.setC_bq (s : State) (n : Nat) (v : Cap) : (s.setC n v).ctx.bq = s.ctx.bq := rfl
@[simp] theorem State.setC_status (s : State) (n : Nat) (v : Cap) : (s.setC n v).ctx.status = s.ctx.status := rfl
@[simp] theorem State.setC_job (s : State) (n : Nat) (v : Cap) : (s.setC n v).ctx.job = s.ctx.job := rfl
@[simp] theorem State.setC_idx (s : State) (n : Nat) (v : Cap) : (s.setC n v).ctx.idx = s.ctx.idx := rfl
@[simp] theorem State.setC_qnt (s : State) (n : Nat) (v : Cap) : (s.setC n v).ctx.qnt = s.ctx.qnt := rfl
@[simp] theorem State.setC_fetch (s : State) (n : Nat) (v : Cap) : (s.setC n v).ctx.seq.fetch = s.ctx.seq.fetch := rfl
@[simp] theorem State.setC_links (s : State) (n : Nat) (v : Cap) : (s.setC n v).ctx.seq.links = s.ctx.seq.links := rfl
@[simp] theorem State.setC_loops (s : State) (n : Nat) (v : Cap) : (s.setC n v).ctx.seq.loops = s.ctx.seq.loops := rfl
@[simp] theorem State.setC_trap (s : State) (n : Nat) (v : Cap) : (s.setC n v).ctx.seq.trap = s.ctx.seq.trap := rfl
@[simp] theorem State.setC_sup (s : State) (n : Nat) (v : Cap) : (s.setC n v).ctx.seq.sup = s.ctx.seq.sup := rfl
@[simp] theorem State.setC_x (s : State) (n : Nat) (v : Cap) (j : BitVec 5) : (s.setC n v).x j = s.x j := rfl
@[simp] theorem State.setC_kreg (s : State) (n : Nat) (v : Cap) (j : Nat) : (s.setC n v).kreg j = s.kreg j := rfl
@[simp] theorem State.setC_pred (s : State) (n : Nat) (v : Cap) (j : Nat) : (s.setC n v).pred j = s.pred j := rfl
@[simp] theorem State.setC_lc (s : State) (n : Nat) (v : Cap) (j : Nat) : (s.setC n v).lc j = s.lc j := rfl
@[simp] theorem State.setC_stream (s : State) (n : Nat) (v : Cap) (j : Nat) : (s.setC n v).stream j = s.stream j := rfl
@[simp] theorem State.setC_dataQ (s : State) (n : Nat) (v : Cap) (j : Nat) : (s.setC n v).dataQ j = s.dataQ j := rfl
@[simp] theorem State.setC_queue (s : State) (n : Nat) (v : Cap) (j : Engine) : (s.setC n v).queue j = s.queue j := rfl
@[simp] theorem State.setC_hold (s : State) (n : Nat) (v : Cap) (j : Engine) : (s.setC n v).hold j = s.hold j := rfl
@[simp] theorem State.setC_vreg (s : State) (n : Nat) (v : Cap) (j : Nat) : (s.setC n v).vreg j = s.vreg j := rfl
@[simp] theorem State.setC_mreg (s : State) (n : Nat) (v : Cap) (j : Nat) : (s.setC n v).mreg j = s.mreg j := rfl
@[simp] theorem State.setC_mat (s : State) (n : Nat) (v : Cap) (j : BitVec 2) : (s.setC n v).mat j = s.mat j := rfl
@[simp] theorem State.setC_ring (s : State) (n : Nat) (v : Cap) (j : Nat) : (s.setC n v).ring j = s.ring j := rfl

/-! ## setK -/

@[simp] theorem State.setK_mem (s : State) (n : Nat) (v : Word) : (s.setK n v).mem = s.mem := rfl
@[simp] theorem State.setK_l2 (s : State) (n : Nat) (v : Word) : (s.setK n v).l2 = s.l2 := rfl
@[simp] theorem State.setK_cur (s : State) (n : Nat) (v : Word) : (s.setK n v).cur = s.cur := rfl
@[simp] theorem State.setK_banks (s : State) (n : Nat) (v : Word) : (s.setK n v).banks = s.banks := rfl
@[simp] theorem State.setK_acks (s : State) (n : Nat) (v : Word) : (s.setK n v).acks = s.acks := rfl
@[simp] theorem State.setK_ports (s : State) (n : Nat) (v : Word) : (s.setK n v).ports = s.ports := rfl
@[simp] theorem State.setK_marks (s : State) (n : Nat) (v : Word) : (s.setK n v).marks = s.marks := rfl
@[simp] theorem State.setK_windows (s : State) (n : Nat) (v : Word) : (s.setK n v).windows = s.windows := rfl
@[simp] theorem State.setK_l1 (s : State) (n : Nat) (v : Word) : (s.setK n v).l1 = s.l1 := rfl
@[simp] theorem State.setK_running (s : State) (n : Nat) (v : Word) : (s.setK n v).running = s.running := rfl
@[simp] theorem State.setK_host (s : State) (n : Nat) (v : Word) : (s.setK n v).host = s.host := rfl
@[simp] theorem State.setK_power (s : State) (n : Nat) (v : Word) : (s.setK n v).power = s.power := rfl
@[simp] theorem State.setK_msc (s : State) (n : Nat) (v : Word) : (s.setK n v).msc = s.msc := rfl
@[simp] theorem State.setK_gts (s : State) (n : Nat) (v : Word) : (s.setK n v).gts = s.gts := rfl
@[simp] theorem State.setK_fresh (s : State) (n : Nat) (v : Word) : (s.setK n v).fresh = s.fresh := rfl
@[simp] theorem State.setK_late (s : State) (n : Nat) (v : Word) : (s.setK n v).late = s.late := rfl
@[simp] theorem State.setK_units (s : State) (n : Nat) (v : Word) : (s.setK n v).units = s.units := rfl
@[simp] theorem State.setK_pad (s : State) (n : Nat) (v : Word) : (s.setK n v).ctx.pad = s.ctx.pad := rfl
@[simp] theorem State.setK_bq (s : State) (n : Nat) (v : Word) : (s.setK n v).ctx.bq = s.ctx.bq := rfl
@[simp] theorem State.setK_status (s : State) (n : Nat) (v : Word) : (s.setK n v).ctx.status = s.ctx.status := rfl
@[simp] theorem State.setK_job (s : State) (n : Nat) (v : Word) : (s.setK n v).ctx.job = s.ctx.job := rfl
@[simp] theorem State.setK_idx (s : State) (n : Nat) (v : Word) : (s.setK n v).ctx.idx = s.ctx.idx := rfl
@[simp] theorem State.setK_qnt (s : State) (n : Nat) (v : Word) : (s.setK n v).ctx.qnt = s.ctx.qnt := rfl
@[simp] theorem State.setK_fetch (s : State) (n : Nat) (v : Word) : (s.setK n v).ctx.seq.fetch = s.ctx.seq.fetch := rfl
@[simp] theorem State.setK_links (s : State) (n : Nat) (v : Word) : (s.setK n v).ctx.seq.links = s.ctx.seq.links := rfl
@[simp] theorem State.setK_loops (s : State) (n : Nat) (v : Word) : (s.setK n v).ctx.seq.loops = s.ctx.seq.loops := rfl
@[simp] theorem State.setK_trap (s : State) (n : Nat) (v : Word) : (s.setK n v).ctx.seq.trap = s.ctx.seq.trap := rfl
@[simp] theorem State.setK_sup (s : State) (n : Nat) (v : Word) : (s.setK n v).ctx.seq.sup = s.ctx.seq.sup := rfl
@[simp] theorem State.setK_x (s : State) (n : Nat) (v : Word) (j : BitVec 5) : (s.setK n v).x j = s.x j := rfl
@[simp] theorem State.setK_c (s : State) (n : Nat) (v : Word) (j : Nat) : (s.setK n v).c j = s.c j := rfl
@[simp] theorem State.setK_pred (s : State) (n : Nat) (v : Word) (j : Nat) : (s.setK n v).pred j = s.pred j := rfl
@[simp] theorem State.setK_lc (s : State) (n : Nat) (v : Word) (j : Nat) : (s.setK n v).lc j = s.lc j := rfl
@[simp] theorem State.setK_stream (s : State) (n : Nat) (v : Word) (j : Nat) : (s.setK n v).stream j = s.stream j := rfl
@[simp] theorem State.setK_dataQ (s : State) (n : Nat) (v : Word) (j : Nat) : (s.setK n v).dataQ j = s.dataQ j := rfl
@[simp] theorem State.setK_queue (s : State) (n : Nat) (v : Word) (j : Engine) : (s.setK n v).queue j = s.queue j := rfl
@[simp] theorem State.setK_hold (s : State) (n : Nat) (v : Word) (j : Engine) : (s.setK n v).hold j = s.hold j := rfl
@[simp] theorem State.setK_vreg (s : State) (n : Nat) (v : Word) (j : Nat) : (s.setK n v).vreg j = s.vreg j := rfl
@[simp] theorem State.setK_mreg (s : State) (n : Nat) (v : Word) (j : Nat) : (s.setK n v).mreg j = s.mreg j := rfl
@[simp] theorem State.setK_mat (s : State) (n : Nat) (v : Word) (j : BitVec 2) : (s.setK n v).mat j = s.mat j := rfl
@[simp] theorem State.setK_ring (s : State) (n : Nat) (v : Word) (j : Nat) : (s.setK n v).ring j = s.ring j := rfl

/-! ## setPred -/

@[simp] theorem State.setPred_mem (s : State) (n : Nat) (b : Bool) : (s.setPred n b).mem = s.mem := by unfold State.setPred; split <;> rfl
@[simp] theorem State.setPred_l2 (s : State) (n : Nat) (b : Bool) : (s.setPred n b).l2 = s.l2 := by unfold State.setPred; split <;> rfl
@[simp] theorem State.setPred_cur (s : State) (n : Nat) (b : Bool) : (s.setPred n b).cur = s.cur := by unfold State.setPred; split <;> rfl
@[simp] theorem State.setPred_banks (s : State) (n : Nat) (b : Bool) : (s.setPred n b).banks = s.banks := by unfold State.setPred; split <;> rfl
@[simp] theorem State.setPred_acks (s : State) (n : Nat) (b : Bool) : (s.setPred n b).acks = s.acks := by unfold State.setPred; split <;> rfl
@[simp] theorem State.setPred_ports (s : State) (n : Nat) (b : Bool) : (s.setPred n b).ports = s.ports := by unfold State.setPred; split <;> rfl
@[simp] theorem State.setPred_marks (s : State) (n : Nat) (b : Bool) : (s.setPred n b).marks = s.marks := by unfold State.setPred; split <;> rfl
@[simp] theorem State.setPred_windows (s : State) (n : Nat) (b : Bool) : (s.setPred n b).windows = s.windows := by unfold State.setPred; split <;> rfl
@[simp] theorem State.setPred_l1 (s : State) (n : Nat) (b : Bool) : (s.setPred n b).l1 = s.l1 := by unfold State.setPred; split <;> rfl
@[simp] theorem State.setPred_running (s : State) (n : Nat) (b : Bool) : (s.setPred n b).running = s.running := by unfold State.setPred; split <;> rfl
@[simp] theorem State.setPred_host (s : State) (n : Nat) (b : Bool) : (s.setPred n b).host = s.host := by unfold State.setPred; split <;> rfl
@[simp] theorem State.setPred_power (s : State) (n : Nat) (b : Bool) : (s.setPred n b).power = s.power := by unfold State.setPred; split <;> rfl
@[simp] theorem State.setPred_msc (s : State) (n : Nat) (b : Bool) : (s.setPred n b).msc = s.msc := by unfold State.setPred; split <;> rfl
@[simp] theorem State.setPred_gts (s : State) (n : Nat) (b : Bool) : (s.setPred n b).gts = s.gts := by unfold State.setPred; split <;> rfl
@[simp] theorem State.setPred_fresh (s : State) (n : Nat) (b : Bool) : (s.setPred n b).fresh = s.fresh := by unfold State.setPred; split <;> rfl
@[simp] theorem State.setPred_late (s : State) (n : Nat) (b : Bool) : (s.setPred n b).late = s.late := by unfold State.setPred; split <;> rfl
@[simp] theorem State.setPred_units (s : State) (n : Nat) (b : Bool) : (s.setPred n b).units = s.units := by unfold State.setPred; split <;> rfl
@[simp] theorem State.setPred_pad (s : State) (n : Nat) (b : Bool) : (s.setPred n b).ctx.pad = s.ctx.pad := by unfold State.setPred; split <;> rfl
@[simp] theorem State.setPred_bq (s : State) (n : Nat) (b : Bool) : (s.setPred n b).ctx.bq = s.ctx.bq := by unfold State.setPred; split <;> rfl
@[simp] theorem State.setPred_status (s : State) (n : Nat) (b : Bool) : (s.setPred n b).ctx.status = s.ctx.status := by unfold State.setPred; split <;> rfl
@[simp] theorem State.setPred_job (s : State) (n : Nat) (b : Bool) : (s.setPred n b).ctx.job = s.ctx.job := by unfold State.setPred; split <;> rfl
@[simp] theorem State.setPred_idx (s : State) (n : Nat) (b : Bool) : (s.setPred n b).ctx.idx = s.ctx.idx := by unfold State.setPred; split <;> rfl
@[simp] theorem State.setPred_qnt (s : State) (n : Nat) (b : Bool) : (s.setPred n b).ctx.qnt = s.ctx.qnt := by unfold State.setPred; split <;> rfl
@[simp] theorem State.setPred_fetch (s : State) (n : Nat) (b : Bool) : (s.setPred n b).ctx.seq.fetch = s.ctx.seq.fetch := by unfold State.setPred; split <;> rfl
@[simp] theorem State.setPred_links (s : State) (n : Nat) (b : Bool) : (s.setPred n b).ctx.seq.links = s.ctx.seq.links := by unfold State.setPred; split <;> rfl
@[simp] theorem State.setPred_loops (s : State) (n : Nat) (b : Bool) : (s.setPred n b).ctx.seq.loops = s.ctx.seq.loops := by unfold State.setPred; split <;> rfl
@[simp] theorem State.setPred_trap (s : State) (n : Nat) (b : Bool) : (s.setPred n b).ctx.seq.trap = s.ctx.seq.trap := by unfold State.setPred; split <;> rfl
@[simp] theorem State.setPred_sup (s : State) (n : Nat) (b : Bool) : (s.setPred n b).ctx.seq.sup = s.ctx.seq.sup := by unfold State.setPred; split <;> rfl
@[simp] theorem State.setPred_x (s : State) (n : Nat) (b : Bool) (j : BitVec 5) : (s.setPred n b).x j = s.x j := by unfold State.setPred; split <;> rfl
@[simp] theorem State.setPred_c (s : State) (n : Nat) (b : Bool) (j : Nat) : (s.setPred n b).c j = s.c j := by unfold State.setPred; split <;> rfl
@[simp] theorem State.setPred_kreg (s : State) (n : Nat) (b : Bool) (j : Nat) : (s.setPred n b).kreg j = s.kreg j := by unfold State.setPred; split <;> rfl
@[simp] theorem State.setPred_lc (s : State) (n : Nat) (b : Bool) (j : Nat) : (s.setPred n b).lc j = s.lc j := by unfold State.setPred; split <;> rfl
@[simp] theorem State.setPred_stream (s : State) (n : Nat) (b : Bool) (j : Nat) : (s.setPred n b).stream j = s.stream j := by unfold State.setPred; split <;> rfl
@[simp] theorem State.setPred_dataQ (s : State) (n : Nat) (b : Bool) (j : Nat) : (s.setPred n b).dataQ j = s.dataQ j := by unfold State.setPred; split <;> rfl
@[simp] theorem State.setPred_queue (s : State) (n : Nat) (b : Bool) (j : Engine) : (s.setPred n b).queue j = s.queue j := by unfold State.setPred; split <;> rfl
@[simp] theorem State.setPred_hold (s : State) (n : Nat) (b : Bool) (j : Engine) : (s.setPred n b).hold j = s.hold j := by unfold State.setPred; split <;> rfl
@[simp] theorem State.setPred_vreg (s : State) (n : Nat) (b : Bool) (j : Nat) : (s.setPred n b).vreg j = s.vreg j := by unfold State.setPred; split <;> rfl
@[simp] theorem State.setPred_mreg (s : State) (n : Nat) (b : Bool) (j : Nat) : (s.setPred n b).mreg j = s.mreg j := by unfold State.setPred; split <;> rfl
@[simp] theorem State.setPred_mat (s : State) (n : Nat) (b : Bool) (j : BitVec 2) : (s.setPred n b).mat j = s.mat j := by unfold State.setPred; split <;> rfl
@[simp] theorem State.setPred_ring (s : State) (n : Nat) (b : Bool) (j : Nat) : (s.setPred n b).ring j = s.ring j := by unfold State.setPred; split <;> rfl

/-! ## setLc -/

@[simp] theorem State.setLc_mem (s : State) (n : Nat) (v : BitVec 27) : (s.setLc n v).mem = s.mem := rfl
@[simp] theorem State.setLc_l2 (s : State) (n : Nat) (v : BitVec 27) : (s.setLc n v).l2 = s.l2 := rfl
@[simp] theorem State.setLc_cur (s : State) (n : Nat) (v : BitVec 27) : (s.setLc n v).cur = s.cur := rfl
@[simp] theorem State.setLc_banks (s : State) (n : Nat) (v : BitVec 27) : (s.setLc n v).banks = s.banks := rfl
@[simp] theorem State.setLc_acks (s : State) (n : Nat) (v : BitVec 27) : (s.setLc n v).acks = s.acks := rfl
@[simp] theorem State.setLc_ports (s : State) (n : Nat) (v : BitVec 27) : (s.setLc n v).ports = s.ports := rfl
@[simp] theorem State.setLc_marks (s : State) (n : Nat) (v : BitVec 27) : (s.setLc n v).marks = s.marks := rfl
@[simp] theorem State.setLc_windows (s : State) (n : Nat) (v : BitVec 27) : (s.setLc n v).windows = s.windows := rfl
@[simp] theorem State.setLc_l1 (s : State) (n : Nat) (v : BitVec 27) : (s.setLc n v).l1 = s.l1 := rfl
@[simp] theorem State.setLc_running (s : State) (n : Nat) (v : BitVec 27) : (s.setLc n v).running = s.running := rfl
@[simp] theorem State.setLc_host (s : State) (n : Nat) (v : BitVec 27) : (s.setLc n v).host = s.host := rfl
@[simp] theorem State.setLc_power (s : State) (n : Nat) (v : BitVec 27) : (s.setLc n v).power = s.power := rfl
@[simp] theorem State.setLc_msc (s : State) (n : Nat) (v : BitVec 27) : (s.setLc n v).msc = s.msc := rfl
@[simp] theorem State.setLc_gts (s : State) (n : Nat) (v : BitVec 27) : (s.setLc n v).gts = s.gts := rfl
@[simp] theorem State.setLc_fresh (s : State) (n : Nat) (v : BitVec 27) : (s.setLc n v).fresh = s.fresh := rfl
@[simp] theorem State.setLc_late (s : State) (n : Nat) (v : BitVec 27) : (s.setLc n v).late = s.late := rfl
@[simp] theorem State.setLc_units (s : State) (n : Nat) (v : BitVec 27) : (s.setLc n v).units = s.units := rfl
@[simp] theorem State.setLc_pad (s : State) (n : Nat) (v : BitVec 27) : (s.setLc n v).ctx.pad = s.ctx.pad := rfl
@[simp] theorem State.setLc_bq (s : State) (n : Nat) (v : BitVec 27) : (s.setLc n v).ctx.bq = s.ctx.bq := rfl
@[simp] theorem State.setLc_status (s : State) (n : Nat) (v : BitVec 27) : (s.setLc n v).ctx.status = s.ctx.status := rfl
@[simp] theorem State.setLc_job (s : State) (n : Nat) (v : BitVec 27) : (s.setLc n v).ctx.job = s.ctx.job := rfl
@[simp] theorem State.setLc_idx (s : State) (n : Nat) (v : BitVec 27) : (s.setLc n v).ctx.idx = s.ctx.idx := rfl
@[simp] theorem State.setLc_qnt (s : State) (n : Nat) (v : BitVec 27) : (s.setLc n v).ctx.qnt = s.ctx.qnt := rfl
@[simp] theorem State.setLc_fetch (s : State) (n : Nat) (v : BitVec 27) : (s.setLc n v).ctx.seq.fetch = s.ctx.seq.fetch := rfl
@[simp] theorem State.setLc_links (s : State) (n : Nat) (v : BitVec 27) : (s.setLc n v).ctx.seq.links = s.ctx.seq.links := rfl
@[simp] theorem State.setLc_loops (s : State) (n : Nat) (v : BitVec 27) : (s.setLc n v).ctx.seq.loops = s.ctx.seq.loops := rfl
@[simp] theorem State.setLc_trap (s : State) (n : Nat) (v : BitVec 27) : (s.setLc n v).ctx.seq.trap = s.ctx.seq.trap := rfl
@[simp] theorem State.setLc_sup (s : State) (n : Nat) (v : BitVec 27) : (s.setLc n v).ctx.seq.sup = s.ctx.seq.sup := rfl
@[simp] theorem State.setLc_x (s : State) (n : Nat) (v : BitVec 27) (j : BitVec 5) : (s.setLc n v).x j = s.x j := rfl
@[simp] theorem State.setLc_c (s : State) (n : Nat) (v : BitVec 27) (j : Nat) : (s.setLc n v).c j = s.c j := rfl
@[simp] theorem State.setLc_kreg (s : State) (n : Nat) (v : BitVec 27) (j : Nat) : (s.setLc n v).kreg j = s.kreg j := rfl
@[simp] theorem State.setLc_pred (s : State) (n : Nat) (v : BitVec 27) (j : Nat) : (s.setLc n v).pred j = s.pred j := rfl
@[simp] theorem State.setLc_stream (s : State) (n : Nat) (v : BitVec 27) (j : Nat) : (s.setLc n v).stream j = s.stream j := rfl
@[simp] theorem State.setLc_dataQ (s : State) (n : Nat) (v : BitVec 27) (j : Nat) : (s.setLc n v).dataQ j = s.dataQ j := rfl
@[simp] theorem State.setLc_queue (s : State) (n : Nat) (v : BitVec 27) (j : Engine) : (s.setLc n v).queue j = s.queue j := rfl
@[simp] theorem State.setLc_hold (s : State) (n : Nat) (v : BitVec 27) (j : Engine) : (s.setLc n v).hold j = s.hold j := rfl
@[simp] theorem State.setLc_vreg (s : State) (n : Nat) (v : BitVec 27) (j : Nat) : (s.setLc n v).vreg j = s.vreg j := rfl
@[simp] theorem State.setLc_mreg (s : State) (n : Nat) (v : BitVec 27) (j : Nat) : (s.setLc n v).mreg j = s.mreg j := rfl
@[simp] theorem State.setLc_mat (s : State) (n : Nat) (v : BitVec 27) (j : BitVec 2) : (s.setLc n v).mat j = s.mat j := rfl
@[simp] theorem State.setLc_ring (s : State) (n : Nat) (v : BitVec 27) (j : Nat) : (s.setLc n v).ring j = s.ring j := rfl

/-! ## setStream -/

@[simp] theorem State.setStream_mem (s : State) (n : Nat) (v : Stream) : (s.setStream n v).mem = s.mem := rfl
@[simp] theorem State.setStream_l2 (s : State) (n : Nat) (v : Stream) : (s.setStream n v).l2 = s.l2 := rfl
@[simp] theorem State.setStream_cur (s : State) (n : Nat) (v : Stream) : (s.setStream n v).cur = s.cur := rfl
@[simp] theorem State.setStream_banks (s : State) (n : Nat) (v : Stream) : (s.setStream n v).banks = s.banks := rfl
@[simp] theorem State.setStream_acks (s : State) (n : Nat) (v : Stream) : (s.setStream n v).acks = s.acks := rfl
@[simp] theorem State.setStream_ports (s : State) (n : Nat) (v : Stream) : (s.setStream n v).ports = s.ports := rfl
@[simp] theorem State.setStream_marks (s : State) (n : Nat) (v : Stream) : (s.setStream n v).marks = s.marks := rfl
@[simp] theorem State.setStream_windows (s : State) (n : Nat) (v : Stream) : (s.setStream n v).windows = s.windows := rfl
@[simp] theorem State.setStream_l1 (s : State) (n : Nat) (v : Stream) : (s.setStream n v).l1 = s.l1 := rfl
@[simp] theorem State.setStream_running (s : State) (n : Nat) (v : Stream) : (s.setStream n v).running = s.running := rfl
@[simp] theorem State.setStream_host (s : State) (n : Nat) (v : Stream) : (s.setStream n v).host = s.host := rfl
@[simp] theorem State.setStream_power (s : State) (n : Nat) (v : Stream) : (s.setStream n v).power = s.power := rfl
@[simp] theorem State.setStream_msc (s : State) (n : Nat) (v : Stream) : (s.setStream n v).msc = s.msc := rfl
@[simp] theorem State.setStream_gts (s : State) (n : Nat) (v : Stream) : (s.setStream n v).gts = s.gts := rfl
@[simp] theorem State.setStream_fresh (s : State) (n : Nat) (v : Stream) : (s.setStream n v).fresh = s.fresh := rfl
@[simp] theorem State.setStream_late (s : State) (n : Nat) (v : Stream) : (s.setStream n v).late = s.late := rfl
@[simp] theorem State.setStream_units (s : State) (n : Nat) (v : Stream) : (s.setStream n v).units = s.units := rfl
@[simp] theorem State.setStream_pad (s : State) (n : Nat) (v : Stream) : (s.setStream n v).ctx.pad = s.ctx.pad := rfl
@[simp] theorem State.setStream_bq (s : State) (n : Nat) (v : Stream) : (s.setStream n v).ctx.bq = s.ctx.bq := rfl
@[simp] theorem State.setStream_status (s : State) (n : Nat) (v : Stream) : (s.setStream n v).ctx.status = s.ctx.status := rfl
@[simp] theorem State.setStream_job (s : State) (n : Nat) (v : Stream) : (s.setStream n v).ctx.job = s.ctx.job := rfl
@[simp] theorem State.setStream_idx (s : State) (n : Nat) (v : Stream) : (s.setStream n v).ctx.idx = s.ctx.idx := rfl
@[simp] theorem State.setStream_qnt (s : State) (n : Nat) (v : Stream) : (s.setStream n v).ctx.qnt = s.ctx.qnt := rfl
@[simp] theorem State.setStream_fetch (s : State) (n : Nat) (v : Stream) : (s.setStream n v).ctx.seq.fetch = s.ctx.seq.fetch := rfl
@[simp] theorem State.setStream_links (s : State) (n : Nat) (v : Stream) : (s.setStream n v).ctx.seq.links = s.ctx.seq.links := rfl
@[simp] theorem State.setStream_loops (s : State) (n : Nat) (v : Stream) : (s.setStream n v).ctx.seq.loops = s.ctx.seq.loops := rfl
@[simp] theorem State.setStream_trap (s : State) (n : Nat) (v : Stream) : (s.setStream n v).ctx.seq.trap = s.ctx.seq.trap := rfl
@[simp] theorem State.setStream_sup (s : State) (n : Nat) (v : Stream) : (s.setStream n v).ctx.seq.sup = s.ctx.seq.sup := rfl
@[simp] theorem State.setStream_x (s : State) (n : Nat) (v : Stream) (j : BitVec 5) : (s.setStream n v).x j = s.x j := rfl
@[simp] theorem State.setStream_c (s : State) (n : Nat) (v : Stream) (j : Nat) : (s.setStream n v).c j = s.c j := rfl
@[simp] theorem State.setStream_kreg (s : State) (n : Nat) (v : Stream) (j : Nat) : (s.setStream n v).kreg j = s.kreg j := rfl
@[simp] theorem State.setStream_pred (s : State) (n : Nat) (v : Stream) (j : Nat) : (s.setStream n v).pred j = s.pred j := rfl
@[simp] theorem State.setStream_lc (s : State) (n : Nat) (v : Stream) (j : Nat) : (s.setStream n v).lc j = s.lc j := rfl
@[simp] theorem State.setStream_dataQ (s : State) (n : Nat) (v : Stream) (j : Nat) : (s.setStream n v).dataQ j = s.dataQ j := rfl
@[simp] theorem State.setStream_queue (s : State) (n : Nat) (v : Stream) (j : Engine) : (s.setStream n v).queue j = s.queue j := rfl
@[simp] theorem State.setStream_hold (s : State) (n : Nat) (v : Stream) (j : Engine) : (s.setStream n v).hold j = s.hold j := rfl
@[simp] theorem State.setStream_vreg (s : State) (n : Nat) (v : Stream) (j : Nat) : (s.setStream n v).vreg j = s.vreg j := rfl
@[simp] theorem State.setStream_mreg (s : State) (n : Nat) (v : Stream) (j : Nat) : (s.setStream n v).mreg j = s.mreg j := rfl
@[simp] theorem State.setStream_mat (s : State) (n : Nat) (v : Stream) (j : BitVec 2) : (s.setStream n v).mat j = s.mat j := rfl
@[simp] theorem State.setStream_ring (s : State) (n : Nat) (v : Stream) (j : Nat) : (s.setStream n v).ring j = s.ring j := rfl

/-! ## setDataQ -/

@[simp] theorem State.setDataQ_mem (s : State) (n : Nat) (v : DataQ) : (s.setDataQ n v).mem = s.mem := rfl
@[simp] theorem State.setDataQ_l2 (s : State) (n : Nat) (v : DataQ) : (s.setDataQ n v).l2 = s.l2 := rfl
@[simp] theorem State.setDataQ_cur (s : State) (n : Nat) (v : DataQ) : (s.setDataQ n v).cur = s.cur := rfl
@[simp] theorem State.setDataQ_banks (s : State) (n : Nat) (v : DataQ) : (s.setDataQ n v).banks = s.banks := rfl
@[simp] theorem State.setDataQ_acks (s : State) (n : Nat) (v : DataQ) : (s.setDataQ n v).acks = s.acks := rfl
@[simp] theorem State.setDataQ_ports (s : State) (n : Nat) (v : DataQ) : (s.setDataQ n v).ports = s.ports := rfl
@[simp] theorem State.setDataQ_marks (s : State) (n : Nat) (v : DataQ) : (s.setDataQ n v).marks = s.marks := rfl
@[simp] theorem State.setDataQ_windows (s : State) (n : Nat) (v : DataQ) : (s.setDataQ n v).windows = s.windows := rfl
@[simp] theorem State.setDataQ_l1 (s : State) (n : Nat) (v : DataQ) : (s.setDataQ n v).l1 = s.l1 := rfl
@[simp] theorem State.setDataQ_running (s : State) (n : Nat) (v : DataQ) : (s.setDataQ n v).running = s.running := rfl
@[simp] theorem State.setDataQ_host (s : State) (n : Nat) (v : DataQ) : (s.setDataQ n v).host = s.host := rfl
@[simp] theorem State.setDataQ_power (s : State) (n : Nat) (v : DataQ) : (s.setDataQ n v).power = s.power := rfl
@[simp] theorem State.setDataQ_msc (s : State) (n : Nat) (v : DataQ) : (s.setDataQ n v).msc = s.msc := rfl
@[simp] theorem State.setDataQ_gts (s : State) (n : Nat) (v : DataQ) : (s.setDataQ n v).gts = s.gts := rfl
@[simp] theorem State.setDataQ_fresh (s : State) (n : Nat) (v : DataQ) : (s.setDataQ n v).fresh = s.fresh := rfl
@[simp] theorem State.setDataQ_late (s : State) (n : Nat) (v : DataQ) : (s.setDataQ n v).late = s.late := rfl
@[simp] theorem State.setDataQ_units (s : State) (n : Nat) (v : DataQ) : (s.setDataQ n v).units = s.units := rfl
@[simp] theorem State.setDataQ_pad (s : State) (n : Nat) (v : DataQ) : (s.setDataQ n v).ctx.pad = s.ctx.pad := rfl
@[simp] theorem State.setDataQ_bq (s : State) (n : Nat) (v : DataQ) : (s.setDataQ n v).ctx.bq = s.ctx.bq := rfl
@[simp] theorem State.setDataQ_status (s : State) (n : Nat) (v : DataQ) : (s.setDataQ n v).ctx.status = s.ctx.status := rfl
@[simp] theorem State.setDataQ_job (s : State) (n : Nat) (v : DataQ) : (s.setDataQ n v).ctx.job = s.ctx.job := rfl
@[simp] theorem State.setDataQ_idx (s : State) (n : Nat) (v : DataQ) : (s.setDataQ n v).ctx.idx = s.ctx.idx := rfl
@[simp] theorem State.setDataQ_qnt (s : State) (n : Nat) (v : DataQ) : (s.setDataQ n v).ctx.qnt = s.ctx.qnt := rfl
@[simp] theorem State.setDataQ_fetch (s : State) (n : Nat) (v : DataQ) : (s.setDataQ n v).ctx.seq.fetch = s.ctx.seq.fetch := rfl
@[simp] theorem State.setDataQ_links (s : State) (n : Nat) (v : DataQ) : (s.setDataQ n v).ctx.seq.links = s.ctx.seq.links := rfl
@[simp] theorem State.setDataQ_loops (s : State) (n : Nat) (v : DataQ) : (s.setDataQ n v).ctx.seq.loops = s.ctx.seq.loops := rfl
@[simp] theorem State.setDataQ_trap (s : State) (n : Nat) (v : DataQ) : (s.setDataQ n v).ctx.seq.trap = s.ctx.seq.trap := rfl
@[simp] theorem State.setDataQ_sup (s : State) (n : Nat) (v : DataQ) : (s.setDataQ n v).ctx.seq.sup = s.ctx.seq.sup := rfl
@[simp] theorem State.setDataQ_x (s : State) (n : Nat) (v : DataQ) (j : BitVec 5) : (s.setDataQ n v).x j = s.x j := rfl
@[simp] theorem State.setDataQ_c (s : State) (n : Nat) (v : DataQ) (j : Nat) : (s.setDataQ n v).c j = s.c j := rfl
@[simp] theorem State.setDataQ_kreg (s : State) (n : Nat) (v : DataQ) (j : Nat) : (s.setDataQ n v).kreg j = s.kreg j := rfl
@[simp] theorem State.setDataQ_pred (s : State) (n : Nat) (v : DataQ) (j : Nat) : (s.setDataQ n v).pred j = s.pred j := rfl
@[simp] theorem State.setDataQ_lc (s : State) (n : Nat) (v : DataQ) (j : Nat) : (s.setDataQ n v).lc j = s.lc j := rfl
@[simp] theorem State.setDataQ_stream (s : State) (n : Nat) (v : DataQ) (j : Nat) : (s.setDataQ n v).stream j = s.stream j := rfl
@[simp] theorem State.setDataQ_queue (s : State) (n : Nat) (v : DataQ) (j : Engine) : (s.setDataQ n v).queue j = s.queue j := rfl
@[simp] theorem State.setDataQ_hold (s : State) (n : Nat) (v : DataQ) (j : Engine) : (s.setDataQ n v).hold j = s.hold j := rfl
@[simp] theorem State.setDataQ_vreg (s : State) (n : Nat) (v : DataQ) (j : Nat) : (s.setDataQ n v).vreg j = s.vreg j := rfl
@[simp] theorem State.setDataQ_mreg (s : State) (n : Nat) (v : DataQ) (j : Nat) : (s.setDataQ n v).mreg j = s.mreg j := rfl
@[simp] theorem State.setDataQ_mat (s : State) (n : Nat) (v : DataQ) (j : BitVec 2) : (s.setDataQ n v).mat j = s.mat j := rfl
@[simp] theorem State.setDataQ_ring (s : State) (n : Nat) (v : DataQ) (j : Nat) : (s.setDataQ n v).ring j = s.ring j := rfl

/-! ## setQueue -/

@[simp] theorem State.setQueue_mem (s : State) (e : Engine) (l : List Item) : (s.setQueue e l).mem = s.mem := rfl
@[simp] theorem State.setQueue_l2 (s : State) (e : Engine) (l : List Item) : (s.setQueue e l).l2 = s.l2 := rfl
@[simp] theorem State.setQueue_cur (s : State) (e : Engine) (l : List Item) : (s.setQueue e l).cur = s.cur := rfl
@[simp] theorem State.setQueue_banks (s : State) (e : Engine) (l : List Item) : (s.setQueue e l).banks = s.banks := rfl
@[simp] theorem State.setQueue_acks (s : State) (e : Engine) (l : List Item) : (s.setQueue e l).acks = s.acks := rfl
@[simp] theorem State.setQueue_ports (s : State) (e : Engine) (l : List Item) : (s.setQueue e l).ports = s.ports := rfl
@[simp] theorem State.setQueue_marks (s : State) (e : Engine) (l : List Item) : (s.setQueue e l).marks = s.marks := rfl
@[simp] theorem State.setQueue_windows (s : State) (e : Engine) (l : List Item) : (s.setQueue e l).windows = s.windows := rfl
@[simp] theorem State.setQueue_l1 (s : State) (e : Engine) (l : List Item) : (s.setQueue e l).l1 = s.l1 := rfl
@[simp] theorem State.setQueue_running (s : State) (e : Engine) (l : List Item) : (s.setQueue e l).running = s.running := rfl
@[simp] theorem State.setQueue_host (s : State) (e : Engine) (l : List Item) : (s.setQueue e l).host = s.host := rfl
@[simp] theorem State.setQueue_power (s : State) (e : Engine) (l : List Item) : (s.setQueue e l).power = s.power := rfl
@[simp] theorem State.setQueue_msc (s : State) (e : Engine) (l : List Item) : (s.setQueue e l).msc = s.msc := rfl
@[simp] theorem State.setQueue_gts (s : State) (e : Engine) (l : List Item) : (s.setQueue e l).gts = s.gts := rfl
@[simp] theorem State.setQueue_fresh (s : State) (e : Engine) (l : List Item) : (s.setQueue e l).fresh = s.fresh := rfl
@[simp] theorem State.setQueue_late (s : State) (e : Engine) (l : List Item) : (s.setQueue e l).late = s.late := rfl
@[simp] theorem State.setQueue_units (s : State) (e : Engine) (l : List Item) : (s.setQueue e l).units = s.units := rfl
@[simp] theorem State.setQueue_pad (s : State) (e : Engine) (l : List Item) : (s.setQueue e l).ctx.pad = s.ctx.pad := rfl
@[simp] theorem State.setQueue_bq (s : State) (e : Engine) (l : List Item) : (s.setQueue e l).ctx.bq = s.ctx.bq := rfl
@[simp] theorem State.setQueue_status (s : State) (e : Engine) (l : List Item) : (s.setQueue e l).ctx.status = s.ctx.status := rfl
@[simp] theorem State.setQueue_job (s : State) (e : Engine) (l : List Item) : (s.setQueue e l).ctx.job = s.ctx.job := rfl
@[simp] theorem State.setQueue_idx (s : State) (e : Engine) (l : List Item) : (s.setQueue e l).ctx.idx = s.ctx.idx := rfl
@[simp] theorem State.setQueue_qnt (s : State) (e : Engine) (l : List Item) : (s.setQueue e l).ctx.qnt = s.ctx.qnt := rfl
@[simp] theorem State.setQueue_fetch (s : State) (e : Engine) (l : List Item) : (s.setQueue e l).ctx.seq.fetch = s.ctx.seq.fetch := rfl
@[simp] theorem State.setQueue_links (s : State) (e : Engine) (l : List Item) : (s.setQueue e l).ctx.seq.links = s.ctx.seq.links := rfl
@[simp] theorem State.setQueue_loops (s : State) (e : Engine) (l : List Item) : (s.setQueue e l).ctx.seq.loops = s.ctx.seq.loops := rfl
@[simp] theorem State.setQueue_trap (s : State) (e : Engine) (l : List Item) : (s.setQueue e l).ctx.seq.trap = s.ctx.seq.trap := rfl
@[simp] theorem State.setQueue_sup (s : State) (e : Engine) (l : List Item) : (s.setQueue e l).ctx.seq.sup = s.ctx.seq.sup := rfl
@[simp] theorem State.setQueue_x (s : State) (e : Engine) (l : List Item) (j : BitVec 5) : (s.setQueue e l).x j = s.x j := rfl
@[simp] theorem State.setQueue_c (s : State) (e : Engine) (l : List Item) (j : Nat) : (s.setQueue e l).c j = s.c j := rfl
@[simp] theorem State.setQueue_kreg (s : State) (e : Engine) (l : List Item) (j : Nat) : (s.setQueue e l).kreg j = s.kreg j := rfl
@[simp] theorem State.setQueue_pred (s : State) (e : Engine) (l : List Item) (j : Nat) : (s.setQueue e l).pred j = s.pred j := rfl
@[simp] theorem State.setQueue_lc (s : State) (e : Engine) (l : List Item) (j : Nat) : (s.setQueue e l).lc j = s.lc j := rfl
@[simp] theorem State.setQueue_stream (s : State) (e : Engine) (l : List Item) (j : Nat) : (s.setQueue e l).stream j = s.stream j := rfl
@[simp] theorem State.setQueue_dataQ (s : State) (e : Engine) (l : List Item) (j : Nat) : (s.setQueue e l).dataQ j = s.dataQ j := rfl
@[simp] theorem State.setQueue_hold (s : State) (e : Engine) (l : List Item) (j : Engine) : (s.setQueue e l).hold j = s.hold j := rfl
@[simp] theorem State.setQueue_vreg (s : State) (e : Engine) (l : List Item) (j : Nat) : (s.setQueue e l).vreg j = s.vreg j := rfl
@[simp] theorem State.setQueue_mreg (s : State) (e : Engine) (l : List Item) (j : Nat) : (s.setQueue e l).mreg j = s.mreg j := rfl
@[simp] theorem State.setQueue_mat (s : State) (e : Engine) (l : List Item) (j : BitVec 2) : (s.setQueue e l).mat j = s.mat j := rfl
@[simp] theorem State.setQueue_ring (s : State) (e : Engine) (l : List Item) (j : Nat) : (s.setQueue e l).ring j = s.ring j := rfl

/-! ## setHold -/

@[simp] theorem State.setHold_mem (s : State) (e : Engine) (h : Hold) : (s.setHold e h).mem = s.mem := rfl
@[simp] theorem State.setHold_l2 (s : State) (e : Engine) (h : Hold) : (s.setHold e h).l2 = s.l2 := rfl
@[simp] theorem State.setHold_cur (s : State) (e : Engine) (h : Hold) : (s.setHold e h).cur = s.cur := rfl
@[simp] theorem State.setHold_banks (s : State) (e : Engine) (h : Hold) : (s.setHold e h).banks = s.banks := rfl
@[simp] theorem State.setHold_acks (s : State) (e : Engine) (h : Hold) : (s.setHold e h).acks = s.acks := rfl
@[simp] theorem State.setHold_ports (s : State) (e : Engine) (h : Hold) : (s.setHold e h).ports = s.ports := rfl
@[simp] theorem State.setHold_marks (s : State) (e : Engine) (h : Hold) : (s.setHold e h).marks = s.marks := rfl
@[simp] theorem State.setHold_windows (s : State) (e : Engine) (h : Hold) : (s.setHold e h).windows = s.windows := rfl
@[simp] theorem State.setHold_l1 (s : State) (e : Engine) (h : Hold) : (s.setHold e h).l1 = s.l1 := rfl
@[simp] theorem State.setHold_running (s : State) (e : Engine) (h : Hold) : (s.setHold e h).running = s.running := rfl
@[simp] theorem State.setHold_host (s : State) (e : Engine) (h : Hold) : (s.setHold e h).host = s.host := rfl
@[simp] theorem State.setHold_power (s : State) (e : Engine) (h : Hold) : (s.setHold e h).power = s.power := rfl
@[simp] theorem State.setHold_msc (s : State) (e : Engine) (h : Hold) : (s.setHold e h).msc = s.msc := rfl
@[simp] theorem State.setHold_gts (s : State) (e : Engine) (h : Hold) : (s.setHold e h).gts = s.gts := rfl
@[simp] theorem State.setHold_fresh (s : State) (e : Engine) (h : Hold) : (s.setHold e h).fresh = s.fresh := rfl
@[simp] theorem State.setHold_late (s : State) (e : Engine) (h : Hold) : (s.setHold e h).late = s.late := rfl
@[simp] theorem State.setHold_units (s : State) (e : Engine) (h : Hold) : (s.setHold e h).units = s.units := rfl
@[simp] theorem State.setHold_pad (s : State) (e : Engine) (h : Hold) : (s.setHold e h).ctx.pad = s.ctx.pad := rfl
@[simp] theorem State.setHold_bq (s : State) (e : Engine) (h : Hold) : (s.setHold e h).ctx.bq = s.ctx.bq := rfl
@[simp] theorem State.setHold_status (s : State) (e : Engine) (h : Hold) : (s.setHold e h).ctx.status = s.ctx.status := rfl
@[simp] theorem State.setHold_job (s : State) (e : Engine) (h : Hold) : (s.setHold e h).ctx.job = s.ctx.job := rfl
@[simp] theorem State.setHold_idx (s : State) (e : Engine) (h : Hold) : (s.setHold e h).ctx.idx = s.ctx.idx := rfl
@[simp] theorem State.setHold_qnt (s : State) (e : Engine) (h : Hold) : (s.setHold e h).ctx.qnt = s.ctx.qnt := rfl
@[simp] theorem State.setHold_fetch (s : State) (e : Engine) (h : Hold) : (s.setHold e h).ctx.seq.fetch = s.ctx.seq.fetch := rfl
@[simp] theorem State.setHold_links (s : State) (e : Engine) (h : Hold) : (s.setHold e h).ctx.seq.links = s.ctx.seq.links := rfl
@[simp] theorem State.setHold_loops (s : State) (e : Engine) (h : Hold) : (s.setHold e h).ctx.seq.loops = s.ctx.seq.loops := rfl
@[simp] theorem State.setHold_trap (s : State) (e : Engine) (h : Hold) : (s.setHold e h).ctx.seq.trap = s.ctx.seq.trap := rfl
@[simp] theorem State.setHold_sup (s : State) (e : Engine) (h : Hold) : (s.setHold e h).ctx.seq.sup = s.ctx.seq.sup := rfl
@[simp] theorem State.setHold_x (s : State) (e : Engine) (h : Hold) (j : BitVec 5) : (s.setHold e h).x j = s.x j := rfl
@[simp] theorem State.setHold_c (s : State) (e : Engine) (h : Hold) (j : Nat) : (s.setHold e h).c j = s.c j := rfl
@[simp] theorem State.setHold_kreg (s : State) (e : Engine) (h : Hold) (j : Nat) : (s.setHold e h).kreg j = s.kreg j := rfl
@[simp] theorem State.setHold_pred (s : State) (e : Engine) (h : Hold) (j : Nat) : (s.setHold e h).pred j = s.pred j := rfl
@[simp] theorem State.setHold_lc (s : State) (e : Engine) (h : Hold) (j : Nat) : (s.setHold e h).lc j = s.lc j := rfl
@[simp] theorem State.setHold_stream (s : State) (e : Engine) (h : Hold) (j : Nat) : (s.setHold e h).stream j = s.stream j := rfl
@[simp] theorem State.setHold_dataQ (s : State) (e : Engine) (h : Hold) (j : Nat) : (s.setHold e h).dataQ j = s.dataQ j := rfl
@[simp] theorem State.setHold_queue (s : State) (e : Engine) (h : Hold) (j : Engine) : (s.setHold e h).queue j = s.queue j := rfl
@[simp] theorem State.setHold_vreg (s : State) (e : Engine) (h : Hold) (j : Nat) : (s.setHold e h).vreg j = s.vreg j := rfl
@[simp] theorem State.setHold_mreg (s : State) (e : Engine) (h : Hold) (j : Nat) : (s.setHold e h).mreg j = s.mreg j := rfl
@[simp] theorem State.setHold_mat (s : State) (e : Engine) (h : Hold) (j : BitVec 2) : (s.setHold e h).mat j = s.mat j := rfl
@[simp] theorem State.setHold_ring (s : State) (e : Engine) (h : Hold) (j : Nat) : (s.setHold e h).ring j = s.ring j := rfl

/-! ## setVreg -/

@[simp] theorem State.setVreg_mem (s : State) (r : Nat) (m : BitVec 512) (v : VReg) : (s.setVreg r m v).mem = s.mem := rfl
@[simp] theorem State.setVreg_l2 (s : State) (r : Nat) (m : BitVec 512) (v : VReg) : (s.setVreg r m v).l2 = s.l2 := rfl
@[simp] theorem State.setVreg_cur (s : State) (r : Nat) (m : BitVec 512) (v : VReg) : (s.setVreg r m v).cur = s.cur := rfl
@[simp] theorem State.setVreg_banks (s : State) (r : Nat) (m : BitVec 512) (v : VReg) : (s.setVreg r m v).banks = s.banks := rfl
@[simp] theorem State.setVreg_acks (s : State) (r : Nat) (m : BitVec 512) (v : VReg) : (s.setVreg r m v).acks = s.acks := rfl
@[simp] theorem State.setVreg_ports (s : State) (r : Nat) (m : BitVec 512) (v : VReg) : (s.setVreg r m v).ports = s.ports := rfl
@[simp] theorem State.setVreg_marks (s : State) (r : Nat) (m : BitVec 512) (v : VReg) : (s.setVreg r m v).marks = s.marks := rfl
@[simp] theorem State.setVreg_windows (s : State) (r : Nat) (m : BitVec 512) (v : VReg) : (s.setVreg r m v).windows = s.windows := rfl
@[simp] theorem State.setVreg_l1 (s : State) (r : Nat) (m : BitVec 512) (v : VReg) : (s.setVreg r m v).l1 = s.l1 := rfl
@[simp] theorem State.setVreg_running (s : State) (r : Nat) (m : BitVec 512) (v : VReg) : (s.setVreg r m v).running = s.running := rfl
@[simp] theorem State.setVreg_host (s : State) (r : Nat) (m : BitVec 512) (v : VReg) : (s.setVreg r m v).host = s.host := rfl
@[simp] theorem State.setVreg_power (s : State) (r : Nat) (m : BitVec 512) (v : VReg) : (s.setVreg r m v).power = s.power := rfl
@[simp] theorem State.setVreg_msc (s : State) (r : Nat) (m : BitVec 512) (v : VReg) : (s.setVreg r m v).msc = s.msc := rfl
@[simp] theorem State.setVreg_gts (s : State) (r : Nat) (m : BitVec 512) (v : VReg) : (s.setVreg r m v).gts = s.gts := rfl
@[simp] theorem State.setVreg_fresh (s : State) (r : Nat) (m : BitVec 512) (v : VReg) : (s.setVreg r m v).fresh = s.fresh := rfl
@[simp] theorem State.setVreg_late (s : State) (r : Nat) (m : BitVec 512) (v : VReg) : (s.setVreg r m v).late = s.late := rfl
@[simp] theorem State.setVreg_units (s : State) (r : Nat) (m : BitVec 512) (v : VReg) : (s.setVreg r m v).units = s.units := rfl
@[simp] theorem State.setVreg_pad (s : State) (r : Nat) (m : BitVec 512) (v : VReg) : (s.setVreg r m v).ctx.pad = s.ctx.pad := rfl
@[simp] theorem State.setVreg_bq (s : State) (r : Nat) (m : BitVec 512) (v : VReg) : (s.setVreg r m v).ctx.bq = s.ctx.bq := rfl
@[simp] theorem State.setVreg_status (s : State) (r : Nat) (m : BitVec 512) (v : VReg) : (s.setVreg r m v).ctx.status = s.ctx.status := rfl
@[simp] theorem State.setVreg_job (s : State) (r : Nat) (m : BitVec 512) (v : VReg) : (s.setVreg r m v).ctx.job = s.ctx.job := rfl
@[simp] theorem State.setVreg_idx (s : State) (r : Nat) (m : BitVec 512) (v : VReg) : (s.setVreg r m v).ctx.idx = s.ctx.idx := rfl
@[simp] theorem State.setVreg_qnt (s : State) (r : Nat) (m : BitVec 512) (v : VReg) : (s.setVreg r m v).ctx.qnt = s.ctx.qnt := rfl
@[simp] theorem State.setVreg_fetch (s : State) (r : Nat) (m : BitVec 512) (v : VReg) : (s.setVreg r m v).ctx.seq.fetch = s.ctx.seq.fetch := rfl
@[simp] theorem State.setVreg_links (s : State) (r : Nat) (m : BitVec 512) (v : VReg) : (s.setVreg r m v).ctx.seq.links = s.ctx.seq.links := rfl
@[simp] theorem State.setVreg_loops (s : State) (r : Nat) (m : BitVec 512) (v : VReg) : (s.setVreg r m v).ctx.seq.loops = s.ctx.seq.loops := rfl
@[simp] theorem State.setVreg_trap (s : State) (r : Nat) (m : BitVec 512) (v : VReg) : (s.setVreg r m v).ctx.seq.trap = s.ctx.seq.trap := rfl
@[simp] theorem State.setVreg_sup (s : State) (r : Nat) (m : BitVec 512) (v : VReg) : (s.setVreg r m v).ctx.seq.sup = s.ctx.seq.sup := rfl
@[simp] theorem State.setVreg_x (s : State) (r : Nat) (m : BitVec 512) (v : VReg) (j : BitVec 5) : (s.setVreg r m v).x j = s.x j := rfl
@[simp] theorem State.setVreg_c (s : State) (r : Nat) (m : BitVec 512) (v : VReg) (j : Nat) : (s.setVreg r m v).c j = s.c j := rfl
@[simp] theorem State.setVreg_kreg (s : State) (r : Nat) (m : BitVec 512) (v : VReg) (j : Nat) : (s.setVreg r m v).kreg j = s.kreg j := rfl
@[simp] theorem State.setVreg_pred (s : State) (r : Nat) (m : BitVec 512) (v : VReg) (j : Nat) : (s.setVreg r m v).pred j = s.pred j := rfl
@[simp] theorem State.setVreg_lc (s : State) (r : Nat) (m : BitVec 512) (v : VReg) (j : Nat) : (s.setVreg r m v).lc j = s.lc j := rfl
@[simp] theorem State.setVreg_stream (s : State) (r : Nat) (m : BitVec 512) (v : VReg) (j : Nat) : (s.setVreg r m v).stream j = s.stream j := rfl
@[simp] theorem State.setVreg_dataQ (s : State) (r : Nat) (m : BitVec 512) (v : VReg) (j : Nat) : (s.setVreg r m v).dataQ j = s.dataQ j := rfl
@[simp] theorem State.setVreg_queue (s : State) (r : Nat) (m : BitVec 512) (v : VReg) (j : Engine) : (s.setVreg r m v).queue j = s.queue j := rfl
@[simp] theorem State.setVreg_hold (s : State) (r : Nat) (m : BitVec 512) (v : VReg) (j : Engine) : (s.setVreg r m v).hold j = s.hold j := rfl
@[simp] theorem State.setVreg_mreg (s : State) (r : Nat) (m : BitVec 512) (v : VReg) (j : Nat) : (s.setVreg r m v).mreg j = s.mreg j := rfl
@[simp] theorem State.setVreg_mat (s : State) (r : Nat) (m : BitVec 512) (v : VReg) (j : BitVec 2) : (s.setVreg r m v).mat j = s.mat j := rfl
@[simp] theorem State.setVreg_ring (s : State) (r : Nat) (m : BitVec 512) (v : VReg) (j : Nat) : (s.setVreg r m v).ring j = s.ring j := rfl

/-! ## setMat -/

@[simp] theorem State.setMat_mem (s : State) (a : BitVec 2) (v : MatAcc) : (s.setMat a v).mem = s.mem := rfl
@[simp] theorem State.setMat_l2 (s : State) (a : BitVec 2) (v : MatAcc) : (s.setMat a v).l2 = s.l2 := rfl
@[simp] theorem State.setMat_cur (s : State) (a : BitVec 2) (v : MatAcc) : (s.setMat a v).cur = s.cur := rfl
@[simp] theorem State.setMat_banks (s : State) (a : BitVec 2) (v : MatAcc) : (s.setMat a v).banks = s.banks := rfl
@[simp] theorem State.setMat_acks (s : State) (a : BitVec 2) (v : MatAcc) : (s.setMat a v).acks = s.acks := rfl
@[simp] theorem State.setMat_ports (s : State) (a : BitVec 2) (v : MatAcc) : (s.setMat a v).ports = s.ports := rfl
@[simp] theorem State.setMat_marks (s : State) (a : BitVec 2) (v : MatAcc) : (s.setMat a v).marks = s.marks := rfl
@[simp] theorem State.setMat_windows (s : State) (a : BitVec 2) (v : MatAcc) : (s.setMat a v).windows = s.windows := rfl
@[simp] theorem State.setMat_l1 (s : State) (a : BitVec 2) (v : MatAcc) : (s.setMat a v).l1 = s.l1 := rfl
@[simp] theorem State.setMat_running (s : State) (a : BitVec 2) (v : MatAcc) : (s.setMat a v).running = s.running := rfl
@[simp] theorem State.setMat_host (s : State) (a : BitVec 2) (v : MatAcc) : (s.setMat a v).host = s.host := rfl
@[simp] theorem State.setMat_power (s : State) (a : BitVec 2) (v : MatAcc) : (s.setMat a v).power = s.power := rfl
@[simp] theorem State.setMat_msc (s : State) (a : BitVec 2) (v : MatAcc) : (s.setMat a v).msc = s.msc := rfl
@[simp] theorem State.setMat_gts (s : State) (a : BitVec 2) (v : MatAcc) : (s.setMat a v).gts = s.gts := rfl
@[simp] theorem State.setMat_fresh (s : State) (a : BitVec 2) (v : MatAcc) : (s.setMat a v).fresh = s.fresh := rfl
@[simp] theorem State.setMat_late (s : State) (a : BitVec 2) (v : MatAcc) : (s.setMat a v).late = s.late := rfl
@[simp] theorem State.setMat_units (s : State) (a : BitVec 2) (v : MatAcc) : (s.setMat a v).units = s.units := rfl
@[simp] theorem State.setMat_pad (s : State) (a : BitVec 2) (v : MatAcc) : (s.setMat a v).ctx.pad = s.ctx.pad := rfl
@[simp] theorem State.setMat_bq (s : State) (a : BitVec 2) (v : MatAcc) : (s.setMat a v).ctx.bq = s.ctx.bq := rfl
@[simp] theorem State.setMat_status (s : State) (a : BitVec 2) (v : MatAcc) : (s.setMat a v).ctx.status = s.ctx.status := rfl
@[simp] theorem State.setMat_job (s : State) (a : BitVec 2) (v : MatAcc) : (s.setMat a v).ctx.job = s.ctx.job := rfl
@[simp] theorem State.setMat_idx (s : State) (a : BitVec 2) (v : MatAcc) : (s.setMat a v).ctx.idx = s.ctx.idx := rfl
@[simp] theorem State.setMat_qnt (s : State) (a : BitVec 2) (v : MatAcc) : (s.setMat a v).ctx.qnt = s.ctx.qnt := rfl
@[simp] theorem State.setMat_fetch (s : State) (a : BitVec 2) (v : MatAcc) : (s.setMat a v).ctx.seq.fetch = s.ctx.seq.fetch := rfl
@[simp] theorem State.setMat_links (s : State) (a : BitVec 2) (v : MatAcc) : (s.setMat a v).ctx.seq.links = s.ctx.seq.links := rfl
@[simp] theorem State.setMat_loops (s : State) (a : BitVec 2) (v : MatAcc) : (s.setMat a v).ctx.seq.loops = s.ctx.seq.loops := rfl
@[simp] theorem State.setMat_trap (s : State) (a : BitVec 2) (v : MatAcc) : (s.setMat a v).ctx.seq.trap = s.ctx.seq.trap := rfl
@[simp] theorem State.setMat_sup (s : State) (a : BitVec 2) (v : MatAcc) : (s.setMat a v).ctx.seq.sup = s.ctx.seq.sup := rfl
@[simp] theorem State.setMat_x (s : State) (a : BitVec 2) (v : MatAcc) (j : BitVec 5) : (s.setMat a v).x j = s.x j := rfl
@[simp] theorem State.setMat_c (s : State) (a : BitVec 2) (v : MatAcc) (j : Nat) : (s.setMat a v).c j = s.c j := rfl
@[simp] theorem State.setMat_kreg (s : State) (a : BitVec 2) (v : MatAcc) (j : Nat) : (s.setMat a v).kreg j = s.kreg j := rfl
@[simp] theorem State.setMat_pred (s : State) (a : BitVec 2) (v : MatAcc) (j : Nat) : (s.setMat a v).pred j = s.pred j := rfl
@[simp] theorem State.setMat_lc (s : State) (a : BitVec 2) (v : MatAcc) (j : Nat) : (s.setMat a v).lc j = s.lc j := rfl
@[simp] theorem State.setMat_stream (s : State) (a : BitVec 2) (v : MatAcc) (j : Nat) : (s.setMat a v).stream j = s.stream j := rfl
@[simp] theorem State.setMat_dataQ (s : State) (a : BitVec 2) (v : MatAcc) (j : Nat) : (s.setMat a v).dataQ j = s.dataQ j := rfl
@[simp] theorem State.setMat_queue (s : State) (a : BitVec 2) (v : MatAcc) (j : Engine) : (s.setMat a v).queue j = s.queue j := rfl
@[simp] theorem State.setMat_hold (s : State) (a : BitVec 2) (v : MatAcc) (j : Engine) : (s.setMat a v).hold j = s.hold j := rfl
@[simp] theorem State.setMat_vreg (s : State) (a : BitVec 2) (v : MatAcc) (j : Nat) : (s.setMat a v).vreg j = s.vreg j := rfl
@[simp] theorem State.setMat_mreg (s : State) (a : BitVec 2) (v : MatAcc) (j : Nat) : (s.setMat a v).mreg j = s.mreg j := rfl
@[simp] theorem State.setMat_ring (s : State) (a : BitVec 2) (v : MatAcc) (j : Nat) : (s.setMat a v).ring j = s.ring j := rfl

/-! ## setRing -/

@[simp] theorem State.setRing_mem (s : State) (g : Nat) (r : TileRing) : (s.setRing g r).mem = s.mem := rfl
@[simp] theorem State.setRing_l2 (s : State) (g : Nat) (r : TileRing) : (s.setRing g r).l2 = s.l2 := rfl
@[simp] theorem State.setRing_cur (s : State) (g : Nat) (r : TileRing) : (s.setRing g r).cur = s.cur := rfl
@[simp] theorem State.setRing_banks (s : State) (g : Nat) (r : TileRing) : (s.setRing g r).banks = s.banks := rfl
@[simp] theorem State.setRing_acks (s : State) (g : Nat) (r : TileRing) : (s.setRing g r).acks = s.acks := rfl
@[simp] theorem State.setRing_ports (s : State) (g : Nat) (r : TileRing) : (s.setRing g r).ports = s.ports := rfl
@[simp] theorem State.setRing_marks (s : State) (g : Nat) (r : TileRing) : (s.setRing g r).marks = s.marks := rfl
@[simp] theorem State.setRing_windows (s : State) (g : Nat) (r : TileRing) : (s.setRing g r).windows = s.windows := rfl
@[simp] theorem State.setRing_l1 (s : State) (g : Nat) (r : TileRing) : (s.setRing g r).l1 = s.l1 := rfl
@[simp] theorem State.setRing_running (s : State) (g : Nat) (r : TileRing) : (s.setRing g r).running = s.running := rfl
@[simp] theorem State.setRing_host (s : State) (g : Nat) (r : TileRing) : (s.setRing g r).host = s.host := rfl
@[simp] theorem State.setRing_power (s : State) (g : Nat) (r : TileRing) : (s.setRing g r).power = s.power := rfl
@[simp] theorem State.setRing_msc (s : State) (g : Nat) (r : TileRing) : (s.setRing g r).msc = s.msc := rfl
@[simp] theorem State.setRing_gts (s : State) (g : Nat) (r : TileRing) : (s.setRing g r).gts = s.gts := rfl
@[simp] theorem State.setRing_fresh (s : State) (g : Nat) (r : TileRing) : (s.setRing g r).fresh = s.fresh := rfl
@[simp] theorem State.setRing_late (s : State) (g : Nat) (r : TileRing) : (s.setRing g r).late = s.late := rfl
@[simp] theorem State.setRing_units (s : State) (g : Nat) (r : TileRing) : (s.setRing g r).units = s.units := rfl
@[simp] theorem State.setRing_pad (s : State) (g : Nat) (r : TileRing) : (s.setRing g r).ctx.pad = s.ctx.pad := rfl
@[simp] theorem State.setRing_bq (s : State) (g : Nat) (r : TileRing) : (s.setRing g r).ctx.bq = s.ctx.bq := rfl
@[simp] theorem State.setRing_status (s : State) (g : Nat) (r : TileRing) : (s.setRing g r).ctx.status = s.ctx.status := rfl
@[simp] theorem State.setRing_job (s : State) (g : Nat) (r : TileRing) : (s.setRing g r).ctx.job = s.ctx.job := rfl
@[simp] theorem State.setRing_idx (s : State) (g : Nat) (r : TileRing) : (s.setRing g r).ctx.idx = s.ctx.idx := rfl
@[simp] theorem State.setRing_qnt (s : State) (g : Nat) (r : TileRing) : (s.setRing g r).ctx.qnt = s.ctx.qnt := rfl
@[simp] theorem State.setRing_fetch (s : State) (g : Nat) (r : TileRing) : (s.setRing g r).ctx.seq.fetch = s.ctx.seq.fetch := rfl
@[simp] theorem State.setRing_links (s : State) (g : Nat) (r : TileRing) : (s.setRing g r).ctx.seq.links = s.ctx.seq.links := rfl
@[simp] theorem State.setRing_loops (s : State) (g : Nat) (r : TileRing) : (s.setRing g r).ctx.seq.loops = s.ctx.seq.loops := rfl
@[simp] theorem State.setRing_trap (s : State) (g : Nat) (r : TileRing) : (s.setRing g r).ctx.seq.trap = s.ctx.seq.trap := rfl
@[simp] theorem State.setRing_sup (s : State) (g : Nat) (r : TileRing) : (s.setRing g r).ctx.seq.sup = s.ctx.seq.sup := rfl
@[simp] theorem State.setRing_x (s : State) (g : Nat) (r : TileRing) (j : BitVec 5) : (s.setRing g r).x j = s.x j := rfl
@[simp] theorem State.setRing_c (s : State) (g : Nat) (r : TileRing) (j : Nat) : (s.setRing g r).c j = s.c j := rfl
@[simp] theorem State.setRing_kreg (s : State) (g : Nat) (r : TileRing) (j : Nat) : (s.setRing g r).kreg j = s.kreg j := rfl
@[simp] theorem State.setRing_pred (s : State) (g : Nat) (r : TileRing) (j : Nat) : (s.setRing g r).pred j = s.pred j := rfl
@[simp] theorem State.setRing_lc (s : State) (g : Nat) (r : TileRing) (j : Nat) : (s.setRing g r).lc j = s.lc j := rfl
@[simp] theorem State.setRing_stream (s : State) (g : Nat) (r : TileRing) (j : Nat) : (s.setRing g r).stream j = s.stream j := rfl
@[simp] theorem State.setRing_dataQ (s : State) (g : Nat) (r : TileRing) (j : Nat) : (s.setRing g r).dataQ j = s.dataQ j := rfl
@[simp] theorem State.setRing_queue (s : State) (g : Nat) (r : TileRing) (j : Engine) : (s.setRing g r).queue j = s.queue j := rfl
@[simp] theorem State.setRing_hold (s : State) (g : Nat) (r : TileRing) (j : Engine) : (s.setRing g r).hold j = s.hold j := rfl
@[simp] theorem State.setRing_vreg (s : State) (g : Nat) (r : TileRing) (j : Nat) : (s.setRing g r).vreg j = s.vreg j := rfl
@[simp] theorem State.setRing_mreg (s : State) (g : Nat) (r : TileRing) (j : Nat) : (s.setRing g r).mreg j = s.mreg j := rfl
@[simp] theorem State.setRing_mat (s : State) (g : Nat) (r : TileRing) (j : BitVec 2) : (s.setRing g r).mat j = s.mat j := rfl

/-! ## What an update writes -/

@[simp] theorem State.advance_fetch (s : State) (n : Nat) : (s.advance n).ctx.seq.fetch = s.ctx.seq.fetch + 4 * n := rfl
@[simp] theorem State.jump_fetch (s : State) (t : Nat) : (s.jump t).ctx.seq.fetch = t := rfl
theorem State.x_zero (s : State) : s.x 0 = 0 := rfl
theorem State.x_setX (s : State) (d k : BitVec 5) (v : DWord) : (s.setX d v).x k = if k = d ∧ d ≠ 0 then v else s.x k := by
  by_cases hd : d = 0
  · subst hd; simp [State.setX]
  · rw [State.setX, if_neg hd]
    by_cases hk : k = 0
    · subst hk; rw [if_neg fun h => hd h.1.symm]; rfl
    · unfold State.x
      simp only [if_neg hk, Sparse.get_set, BitVec.toNat_inj, ne_eq, hd, not_false_eq_true, and_true]
theorem State.c_setC (s : State) (n j : Nat) (v : Cap) : (s.setC n v).c j = if j = n then v else s.c j := Sparse.get_set ..
theorem State.kreg_setK (s : State) (n j : Nat) (v : Word) : (s.setK n v).kreg j = if j = n then v else s.kreg j := Sparse.get_set ..
theorem State.lc_setLc (s : State) (n j : Nat) (v : BitVec 27) : (s.setLc n v).lc j = if j = n then v else s.lc j := Sparse.get_set ..
theorem State.stream_setStream (s : State) (n j : Nat) (v : Stream) :
    (s.setStream n v).stream j = if j = n then v else s.stream j := Sparse.get_set ..
theorem State.dataQ_setDataQ (s : State) (n j : Nat) (v : DataQ) :
    (s.setDataQ n v).dataQ j = if j = n then v else s.dataQ j := Sparse.get_set ..
theorem State.mat_setMat (s : State) (a b : BitVec 2) (v : MatAcc) : (s.setMat a v).mat b = if b = a then v else s.mat b := by
  simp only [State.mat, State.setMat, Sparse.get_set, BitVec.toNat_inj]
theorem State.ring_setRing (s : State) (g j : Nat) (r : TileRing) : (s.setRing g r).ring j = if j = g then r else s.ring j :=
  Sparse.get_set ..
theorem Engine.code_inj {a b : Engine} : a.code = b.code ↔ a = b := by cases a <;> cases b <;> decide
theorem State.queue_setQueue (s : State) (e g : Engine) (l : List Item) :
    (s.setQueue e l).queue g = if g = e then l else s.queue g := by
  simp only [State.queue, State.setQueue, Sparse.get_set, Engine.code_inj]
theorem State.hold_setHold (s : State) (e g : Engine) (h : Hold) : (s.setHold e h).hold g = if g = e then h else s.hold g := by
  simp only [State.hold, State.setHold, Sparse.get_set, Engine.code_inj]
theorem State.vreg_setVreg (s : State) (r j : Nat) (m : BitVec 512) (v : VReg) :
    (s.setVreg r m v).vreg j = if j = r then mergeLanes m (s.vreg r) v else s.vreg j := Sparse.get_set ..

end Sys2Proof.Machine
end

