-- ==== Sys2Proof/Tests/Slice0.lean ====
section
/-! SUPPORT. Tests: words written out from the spec's encodings, ill-formed instructions, witnesses of the statements'
hypotheses, and single steps. -/

open Sys2Proof Sys2Proof.Machine
namespace Sys2Proof.Tests
set_option Elab.async false

/-! ## Words

Each word is written out from the tables of the spec: the opcode map (R82), the forms (R61) and the layouts of the entries,
with every field at a value of its own. -/

theorem test_words_seq_1 : ∀ p ∈ ([
    (0x700B5800, .pfx 3 5 2 5 1),
    (0x00000000, .nop),
    (0x00150710, .br 5 1808),
    (0x00210444, .brq 1 1092),
    (0x003F071E, .call 15 1822),
    (0x00400000, .ret),
    (0x00540459, .jmpq 2 1113),
    (0x00768060, .loopq 13 96),
    (0x00890000, .lbrk 9),
    (0x009DB834, .pset 27 14 1 20),
    (0x00A1551B, .plog 2 21 8 27),
    (0x00B48000, .ppop ⟨9, 0⟩),
    (0x00C80F56, .kld 16 3 854),
    (0x00DB800A, .snq 23 10),
    (0x00E0003E, .rdv 62),
    (0x00F00005, .phase 5),
    (0x01100000, .yield),
    (0x01200000, .jobEnd),
    (0x013001DA, .trap 474),
    (0x01400001, .rft 1),
    (0x015425D8, .csrr 8 1211 0),
    (0x0167A615, .csrw 15 1218 5),
    (0x01700002, .ctxsel 2),
    (0x018E8000, .tstamp 29),
    (0x01925D5D, .qcfg 4 23 10 29)] : List (Word × Instr)), decodeWords p.1 none = .instr p.2 1 := by decide

theorem test_words_seq_2 : ∀ p ∈ ([
    (0x01A00000, .halt),
    (0x02091400, .spawn 18 5),
    (0x021CB001, .tjoin 25 12 1),
    (0x02207C03, .ruinv 31 3),
    (0x0233E80D, .rustat 7 26 13),
    (0x02470400, .glaunch 14 1)] : List (Word × Instr)), decodeWords p.1 none = .instr p.2 1 := by decide

theorem test_words_acc_1 : ∀ p ∈ ([
    (0x200AA36E, .add 21 8 27 14),
    (0x201E3C55, .sub 28 15 2 21),
    (0x2021D93C, .mul 3 22 9 28),
    (0x20357603, .mulh 10 29 16 3),
    (0x204892E0, .and 17 4 23 0),
    (0x205C2FC0, .or 24 11 30 0),
    (0x206FC8A0, .xor 31 18 5 0),
    (0x20736580, .shl 6 25 12 0),
    (0x2086FE60, .shr 13 31 19 0),
    (0x209A1F40, .sra 20 7 26 0),
    (0x20ADB834, .min 27 14 1 20),
    (0x20B1551B, .max 2 21 8 27),
    (0x20C4F02F, .addi 9 28 47),
    (0x20D80C36, .andi 16 3 54),
    (0x20EBA83D, .ori 23 10 61),
    (0x20FF4404, .shli 30 17 4),
    (0x2102E00B, .shri 5 24 11),
    (0x21367E45, .cmp 12 31 18 5),
    (0x21404CD9, .cmpb 19 6 25),
    (0x215D3400, .movq 26 13),
    (0x2160D000, .popq 1 20),
    (0x21746DC0, .divu 8 27 14),
    (0x21878AA0, .remu 15 2 21),
    (0x219B2400, .clz 22 9 0),
    (0x21AEC000, .popc 29 16 0)] : List (Word × Instr)), decodeWords p.1 none = .instr p.2 1 := by decide

theorem test_words_acc_2 : ∀ p ∈ ([
    (0x22025C00, .cmov 4 23),
    (0x2215FA20, .cnarrow 11 30 17),
    (0x22291700, .crights 18 5 24),
    (0x223CB3F2, .cadd 25 12 31 18),
    (0x224FCC06, .cget 31 19 6),
    (0x2253E9B0, .cld 7 26 13 1),
    (0x22670690, .cst 14 1 20 1),
    (0x228AA37B, .ld 21 8 27 1 1 3),
    (0x229E3C53, .st 28 15 2 1 3),
    (0x22A1D93A, .lds 3 22 9 1 1 2),
    (0x22B57612, .sts 10 29 16 1 2),
    (0x22C892FF, .ldq 17 4 23 1 1 7),
    (0x22DC2FDF, .stq 24 11 30 1 1 7),
    (0x22E07E53, .prf 31 18 1 3),
    (0x22F00006, .fence 6),
    (0x2306FC01, .sbind 13 31 1),
    (0x231A1F58, .sset 20 7 26 1 1),
    (0x232DB800, .sring 27 14),
    (0x23310000, .sstop 2),
    (0x2344F00F, .sstat 9 28 15),
    (0x23580C00, .sout 16 3),
    (0x236BA801, .pgdist 23 10 1),
    (0x240F4483, .cpy 30 17 4 1 1),
    (0x2412E163, .cpy2 5 24 11 1 1),
    (0x24267E43, .cpyl2 12 31 18 1 1)] : List (Word × Instr)), decodeWords p.1 none = .instr p.2 1 := by decide

theorem test_words_acc_3 : ∀ p ∈ ([
    (0x24399B20, .chain 19 6 25),
    (0x244D37E1, .mcast 26 13 31 1),
    (0x2450D0EA, .gwin 1 20 7 10),
    (0x24646DC0, .scrub 8 27 14),
    (0x24700000, .wmark),
    (0x24805801, .swarm 22 1),
    (0x24907600, .migr 29 16),
    (0x25025D5B, .atom 4 23 10 1 1 3),
    (0x2515FA30, .atomf 11 30 17 1),
    (0x251048A8, .atomfQ 18 5),
    (0x252CB3ED, .bind 25 12 31 1 5),
    (0x25307C01, .acq 31 1),
    (0x25401C00, .rel 7),
    (0x25570401, .tryacq 14 1 1),
    (0x256A8007, .tlget 21 1 3),
    (0x257E3C45, .tlarm 28 15 2 5),
    (0x2601D921, .lsend 3 22 9 1),
    (0x26157601, .lrecv 10 29 16 1),
    (0x262892E0, .lradd 17 4 23),
    (0x263C2FC1, .lslot 24 11 30 1),
    (0x268FC8A1, .evict 31 18 5 1),
    (0x26936581, .rmap 6 25 12 1),
    (0x26A6FE61, .eqpost 13 31 19 1),
    (0x26BA1F40, .eqpeek 20 7 26),
    (0x26C06DC0, .eqrel 27 14)] : List (Word × Instr)), decodeWords p.1 none = .instr p.2 1 := by decide

theorem test_words_acc_4 : ∀ p ∈ ([
    (0x26D00AA0, .eqcut 2 21),
    (0x27002780, .spill 9 28),
    (0x27104060, .fill 16 3)] : List (Word × Instr)), decodeWords p.1 none = .instr p.2 1 := by decide

theorem test_words_mat : ∀ p ∈ ([
    (0x602C0000, .mzero 3),
    (0x6038C007, .mma 2 1 4 1 1 1),
    (0x6047B007, .mmat 1 7 3 1 1 1),
    (0x605C0012, .mscl 3 1 2),
    (0x606C00AC, .mdrain 3 1 1 12),
    (0x607A8001, .madd 2 5 1),
    (0x60808014, .rskip 1 20),
    (0x60C0003B, .mstat 1 27),
    (0x60DD007B, .rowst 3 2 1 1 27)] : List (Word × Instr)), decodeWords p.1 none = .instr p.2 1 := by decide

theorem test_words_idx : ∀ p ∈ ([
    (0x800CF1E2, .sigcfg 1 9 28 15 2),
    (0x80107410, .sigh 29 16),
    (0x80200000, .bkt),
    (0x80302C02, .repsel 11 2),
    (0x80490000, .repgat 18),
    (0x805CB012, .repscat 25 12 1 2),
    (0x806FCC02, .memb 31 19 2),
    (0x8073E81F, .memba 7 26 1 15),
    (0x80870680, .bmand 14 1 20),
    (0x809AA360, .bmor 21 8 27),
    (0x80AE3C00, .bmpfx 28 15),
    (0x80B1D920, .isect 3 22 9),
    (0x80C57600, .union 10 29 16),
    (0x80D892E2, .spdot 17 4 23 2),
    (0x80E06000, .contract 24),
    (0x80FFC800, .ixld 31 18),
    (0x81036400, .ixst 6 25),
    (0x8116FC03, .ixmov 13 31 3),
    (0x812A1C02, .ixcnt 20 7 2)] : List (Word × Instr)), decodeWords p.1 none = .instr p.2 1 := by decide

theorem test_words_qnt : ∀ p ∈ ([
    (0xA00DB801, .had 27 14 1),
    (0xA0303EA0, .qsel 1 245),
    (0xA0448380, .ctbl 9 28),
    (0xA0680C05, .cvtx 16 3 1 1),
    (0xA07BABA7, .cvtn 23 10 29 7),
    (0xA08F4401, .qhdr 30 17 1),
    (0xA092E162, .qerr 5 24 11 2),
    (0xA0A60001, .qstat 12 1),
    (0xA0B99801, .hadw 19 6 1)] : List (Word × Instr)), decodeWords p.1 none = .instr p.2 1 := by decide

theorem test_pairs_seq : ∀ p ∈ ([
    (0x08610009, 0x1DABCDE1, .loop 2 9 0x5ABCDE1),
    (0x0900001A, 0x1813BEEF, .wait 1 10 19 0xBEEF)] : List (Word × Word × Instr)), decodeWords p.1 (some p.2.1) = .instr p.2.2 2 := by decide

theorem test_pairs_acc : ∀ p ∈ ([
    (0x291A82C5, 0x3DABCDE1, .li 21 0x2C5 0x5ABCDE1),
    (0x29250000, 0x3B456789, .lih 10 0x3456789)] : List (Word × Word × Instr)), decodeWords p.1 (some p.2.1) = .instr p.2.2 2 := by decide

theorem test_pairs_vec_1 : ∀ p ∈ ([
    (0x4802D684, 0x59CCDBD9, .fadd ⟨11, 22, 33, 1, 6, 1, 2, 1, 45, 3, 5, 9⟩),
    (0x48141D90, 0x5A365C6A, .fsub ⟨16, 29, 36, 2, 1, 2, 3, 0, 46, 0, 6, 10⟩),
    (0x4825649C, 0x5B99DEFB, .fmul ⟨21, 36, 39, 3, 4, 3, 0, 3, 47, 1, 7, 11⟩),
    (0x4836ABA8, 0x5CE3610C, .ffma ⟨26, 43, 42, 4, 7, 0, 1, 2, 48, 2, 0, 12⟩),
    (0x4847F2B4, 0x5D4CE39D, .fmin ⟨31, 50, 45, 5, 2, 1, 2, 1, 49, 3, 1, 13⟩),
    (0x485939C0, 0x5EB6642E, .fmax ⟨36, 57, 48, 6, 5, 2, 3, 0, 50, 0, 2, 14⟩),
    (0x486A40CC, 0x5F19E6BF, .fabs ⟨41, 0, 51, 7, 0, 3, 0, 3, 51, 1, 3, 15⟩),
    (0x487B87D8, 0x58636940, .fneg ⟨46, 7, 54, 0, 3, 0, 1, 2, 52, 2, 4, 0⟩),
    (0x488CCEE4, 0x59CCEBD1, .frcp ⟨51, 14, 57, 1, 6, 1, 2, 1, 53, 3, 5, 1⟩),
    (0x489E15F0, 0x5A366C62, .frsq ⟨56, 21, 60, 2, 1, 2, 3, 0, 54, 0, 6, 2⟩),
    (0x48AF5CFC, 0x5B99EEF3, .fexp2 ⟨61, 28, 63, 3, 4, 3, 0, 3, 55, 1, 7, 3⟩),
    (0x48B0A308, 0x5CE37104, .flog2 ⟨2, 35, 2, 4, 7, 0, 1, 2, 56, 2, 0, 4⟩),
    (0x48C1EA14, 0x5D4CF395, .ftanh ⟨7, 42, 5, 5, 2, 1, 2, 1, 57, 3, 1, 5⟩),
    (0x48D33120, 0x5EB67426, .fcmp ⟨12, 49, 8, 6, 5, 2, 3, 0, 58, 0, 2, 6⟩),
    (0x4904782C, 0x5F19F6B7, .iadd ⟨17, 56, 11, 7, 0, 3, 0, 3, 59, 1, 3, 7⟩),
    (0x4915BF38, 0x58637948, .isub ⟨22, 63, 14, 0, 3, 0, 1, 2, 60, 2, 4, 8⟩),
    (0x4926C644, 0x59CCFBD9, .imul ⟨27, 6, 17, 1, 6, 1, 2, 1, 61, 3, 5, 9⟩),
    (0x49380D50, 0x5A367C6A, .imad ⟨32, 13, 20, 2, 1, 2, 3, 0, 62, 0, 6, 10⟩),
    (0x4949545C, 0x5B99FEFB, .imin ⟨37, 20, 23, 3, 4, 3, 0, 3, 63, 1, 7, 11⟩),
    (0x495A9B68, 0x5CE3010C, .imax ⟨42, 27, 26, 4, 7, 0, 1, 2, 0, 2, 0, 12⟩),
    (0x496BE274, 0x5D4C839D, .vecAnd ⟨47, 34, 29, 5, 2, 1, 2, 1, 1, 3, 1, 13⟩),
    (0x497D2980, 0x5EB6042E, .vecOr ⟨52, 41, 32, 6, 5, 2, 3, 0, 2, 0, 2, 14⟩),
    (0x498E708C, 0x5F1986BF, .vecXor ⟨57, 48, 35, 7, 0, 3, 0, 3, 3, 1, 3, 15⟩),
    (0x499FB798, 0x58630896, .lop3 ⟨62, 55, 38, 0, 3, 0, 1, 2, 4, 150⟩),
    (0x49A0FEA4, 0x59CC8BD1, .vecShl ⟨3, 62, 41, 1, 6, 1, 2, 1, 5, 3, 5, 1⟩)] : List (Word × Word × Instr)), decodeWords p.1 (some p.2.1) = .instr p.2.2 2 := by decide

theorem test_pairs_vec_2 : ∀ p ∈ ([
    (0x49B205B0, 0x5A360C62, .vecShr ⟨8, 5, 44, 2, 1, 2, 3, 0, 6, 0, 6, 2⟩),
    (0x49C34CBC, 0x5B998EF3, .vecSra ⟨13, 12, 47, 3, 4, 3, 0, 3, 7, 1, 7, 3⟩),
    (0x49D493C8, 0x5CE31104, .fshl ⟨18, 19, 50, 4, 7, 0, 1, 2, 8, 2, 0, 4⟩),
    (0x49E5DAD4, 0x5D4C9395, .fshr ⟨23, 26, 53, 5, 2, 1, 2, 1, 9, 3, 1, 5⟩),
    (0x49F721E0, 0x5EB61426, .vecPopc ⟨28, 33, 56, 6, 5, 2, 3, 0, 10, 0, 2, 6⟩),
    (0x4A0868EC, 0x5F1996B7, .vecClz ⟨33, 40, 59, 7, 0, 3, 0, 3, 11, 1, 3, 7⟩),
    (0x4A19AFF8, 0x58631948, .icmp ⟨38, 47, 62, 0, 3, 0, 1, 2, 12, 2, 4, 8⟩),
    (0x4A8AF604, 0x59CC9BD9, .mov ⟨43, 54, 1, 1, 6, 1, 2, 1, 13, 3, 5, 9⟩),
    (0x4A9C3D10, 0x5A361C6A, .sel ⟨48, 61, 4, 2, 1, 2, 3, 0, 14, 0, 6, 10⟩),
    (0x4AAD441C, 0x5B999EFB, .bcst ⟨53, 4, 7, 3, 4, 3, 0, 3, 15, 1, 7, 11⟩),
    (0x4ABE8B28, 0x5CE3210C, .perm ⟨58, 11, 10, 4, 7, 0, 1, 2, 16, 2, 0, 12⟩),
    (0x4ACFD234, 0x5D4CA39D, .rot ⟨63, 18, 13, 5, 2, 1, 2, 1, 17, 3, 1, 13⟩),
    (0x4AD11940, 0x5EB6242E, .cvt ⟨4, 25, 16, 6, 5, 2, 3, 0, 18, 0, 2, 14⟩),
    (0x4B02604C, 0x5F19A6BF, .rsum ⟨9, 32, 19, 7, 0, 3, 0, 3, 19, 1, 3, 15⟩),
    (0x4B13A758, 0x58632940, .rmax ⟨14, 39, 22, 0, 3, 0, 1, 2, 20, 2, 4, 0⟩),
    (0x4B24EE64, 0x59CCABD1, .rmin ⟨19, 46, 25, 1, 6, 1, 2, 1, 21, 3, 5, 1⟩),
    (0x4B363570, 0x5A362C62, .scan ⟨24, 53, 28, 2, 1, 2, 3, 0, 22, 0, 6, 2⟩),
    (0x4B877C7C, 0x5B99AEF3, .vcmpb ⟨29, 60, 31, 3, 4, 3, 0, 3, 23, 1, 7, 3⟩),
    (0x4B988388, 0x5CE35284, .ldt ⟨34, 3, 34, 4, 7, 0, 1, 2, 165, 0, 4⟩),
    (0x4BA9CA94, 0x5D4CB395, .mset ⟨39, 10, 37, 5, 2, 1, 2, 1, 25, 3, 1, 5⟩)] : List (Word × Word × Instr)), decodeWords p.1 (some p.2.1) = .instr p.2.2 2 := by decide

theorem test_pairs_mat : ∀ p ∈ ([
    (0x68080198, 0x7E39B6D8, .shape 2 1 9 8 99 77 5 11 6),
    (0x68128006, 0x7D575C3C, .ringdef 5 0 6 0x2AB 21 0xC3 6),
    (0x68966005, 0x7EC80000, .atts 1 4 6 1 0 1 13 9),
    (0x68AC5002, 0x78500000, .attv 3 5 1 10),
    (0x68BB9002, 0x7B600000, .attm 2 7 1 1 0 6 12)] : List (Word × Word × Instr)), decodeWords p.1 (some p.2.1) = .instr p.2.2 2 := by decide

theorem test_pairs_qnt : ∀ p ∈ ([
    (0xA814C8E0, 0xBE590000, .qst 9 18 7 101 2 1),
    (0xA8237560, 0xBCD6A000, .qstm 6 29 11 77 1 2 5),
    (0xA859B060, 0xBFF80000, .deq 19 12 3 127 2)] : List (Word × Word × Instr)), decodeWords p.1 (some p.2.1) = .instr p.2.2 2 := by decide

/-- The examples that the spec itself gives with their words (R64, R137, R141, R172, R186, R233 to R250 and others). -/
theorem test_spec_words : ∀ p ∈ ([
    (0x20C29BFD, .addi 5 6 (-3)),
    (0x0015FFF0, .br 5 (-16)),
    (0x00E00005, .rdv 5),
    (0x22F00002, .fence 2),
    (0x240308A2, .cpy 6 2 5 1 0),
    (0x25100CA0, .atomf 0 3 5 0),
    (0x25100C48, .atomfQ 3 2),
    (0x252488CA, .bind 9 2 6 1 2),
    (0x25302400, .acq 9 0),
    (0x25522400, .tryacq 4 9 0),
    (0x25402400, .rel 9),
    (0x25628000, .tlget 5 0 0),
    (0x25628005, .tlget 5 1 1),
    (0x25701800, .tlarm 0 6 0 0),
    (0x257098E1, .tlarm 1 6 7 1),
    (0xA0029001, .had 5 4 1),
    (0xA0B39801, .hadw 7 6 1),
    (0xA03000E0, .qsel 0 7),
    (0xA0408080, .ctbl 1 4),
    (0xA0788043, .cvtn 17 0 2 3),
    (0x60313004, .mma 0 2 3 1 0 0),
    (0x60500010, .mscl 0 1 0),
    (0x8001801F, .sigcfg 0 3 0 0 31),
    (0x268190E0, .evict 3 4 7 0),
    (0x26949141, .rmap 9 4 10 1),
    (0x27000CA0, .spill 3 5),
    (0x27100CC0, .fill 3 6),
    (0x25038CB0, .atom 7 3 5 1 0 0)] : List (Word × Instr)), decodeWords p.1 none = .instr p.2 1 := by decide

theorem test_spec_pairs : ∀ p ∈ ([
    (0x29130000, 0x38012345, .li 6 0 0x12345),
    (0x09000003, 0x1800C350, .wait 0 3 0 50000),
    (0x4990C004, 0x58000496, .lop3 ⟨3, 0, 1, 0, 0, 0, 0, 0, 2, 0x96⟩),
    (0x4B920300, 0x58380600, .ldt ⟨8, 3, 0, 0, 1, 3, 0, 0, 12, 0, 0⟩),
    (0x68000022, 0x7FFFEC00, .shape 0 0 2 2 127 127 3 0 0),
    (0x68108002, 0x788033F6, .ringdef 1 0 2 64 3 63 3)] : List (Word × Word × Instr)), decodeWords p.1 (some p.2.1) = .instr p.2.2 2 := by decide

/-- The encoder writes the same words. -/
theorem test_encode : encode (.addi 5 6 (-3)) = [0x20C29BFD] ∧ encode (.li 6 0 0x12345) = [0x29130000, 0x38012345] ∧
    encode (.cpy 6 2 5 1 0) = [0x240308A2] ∧ encode (.ringdef 1 0 2 64 3 63 3) = [0x68108002, 0x788033F6] := by decide

/-- What R70 refuses: reserved engines, unassigned opcodes, wrong lengths, a head without its tail, a stray tail, a reserved
mode of a prefix, reserved fields; and too few bytes. -/
theorem test_refused : decodeWords 0xC0000000 none = .bad .reservedEngine ∧ decodeWords 0xFFFFFFFF none = .bad .reservedEngine ∧
    decodeWords 0x01B00000 none = .bad .unassignedOp ∧ decodeWords 0x21B00000 none = .bad .unassignedOp ∧
    decodeWords 0x48E00000 (some 0x58000000) = .bad .unassignedOp ∧ decodeWords 0x60E00000 none = .bad .unassignedOp ∧
    decodeWords 0x81300000 none = .bad .unassignedOp ∧ decodeWords 0xA0C00000 none = .bad .unassignedOp ∧
    decodeWords 0x21100000 none = .bad .wrongLength ∧ decodeWords 0x28000000 none = .bad .wrongLength ∧
    decodeWords 0x29100000 none = .bad .truncated ∧ decodeWords 0x29100000 (some 0x58000000) = .bad .noTail ∧
    decodeWords 0x38000000 none = .bad .strayTail ∧ decodeWords 0x100E0000 none = .bad .badPfx ∧
    decodeWords 0x10018000 none = .bad .badPfx ∧ decodeWords 0x10100000 none = .bad .badPfx ∧
    decodeWords 0x00000001 none = .bad .reservedField ∧ decodeWords 0x10000001 none = .bad .reservedField ∧
    decodeBytes [0, 0, 0] = .bad .truncated := by decide

/-! ## Well-formed instructions

One ill-formed term for each check of the fields, with the cause that the spec gives it, and forms at the limits that no
check refuses (R62, R63, R66, R70). -/

theorem test_ill_formed_seq_1 : ∀ p ∈ ([
    (.pfx 6 0 0 0 0, .illegal), (.pfx 1 7 0 0 0, .illegal), (.pfx 1 0 3 0 0, .illegal),
    (.pfx 0 0 0 0 0, .orphanPrefix), (.contract 9, .illegalOperand), (.loop 4 1 1, .illegalOperand),
    (.loop 0 0 1, .illegalOperand), (.loopq 4 1, .illegalOperand), (.loopq 0 0, .illegalOperand),
    (.pset 1 0 0 8, .illegalOperand), (.pset 1 1 0 0, .illegal), (.pset 1 0 1 1, .illegal),
    (.pset 1 0 1 2, .illegal), (.pset 8 0 0 0, .illegalOperand), (.pset 1 4 0 3, .illegalOperand),
    (.pset 1 16 0 6, .illegalOperand), (.pset 1 0 16 4, .illegalOperand), (.plog 1 0 0 5, .illegalOperand),
    (.plog 1 1 1 4, .illegal), (.plog 8 0 0 0, .illegalOperand), (.plog 1 8 0 1, .illegalOperand),
    (.plog 1 0 8 2, .illegalOperand), (.ppop ⟨8, 0⟩, .illegalOperand), (.ppop ⟨1, 1⟩, .illegalOperand), (.kld 16 0 0, .illegalOperand),
    (.kld 0 4 0, .illegalOperand), (.kld 0 2 16, .illegalOperand), (.kld 0 3 16, .illegalOperand),
    (.snq 16 0, .illegalOperand), (.snq 0 3, .illegalOperand), (.rdv 0, .illegalOperand),
    (.wait 0 0 0 0, .illegalOperand), (.csrr 1 0x004 0, .illegalOperand), (.csrr 1 0x000 1, .illegalOperand),
    (.csrw 1 0x209 0, .illegalOperand), (.csrw 1 0x001 3, .illegalOperand), (.qcfg 9 1 2 0, .illegalOperand),
    (.qcfg 0 1 2 2, .illegalOperand), (.qcfg 0 1 0 1, .illegalOperand), (.qcfg 0 0 2 0, .illegalOperand),
    (.qcfg 0 1 6 0, .illegalOperand)] : List (Instr × Cause)), wordFault p.1 = some p.2 ∧ wellFormed p.1 = false := by decide

theorem test_ill_formed_seq_2 : ∀ p ∈ ([
    (.qcfg 0 2 2 0, .illegalOperand), (.qcfg 8 3 0 0, .illegalOperand), (.qcfg 8 1 1 0, .illegalOperand),
    (.spawn 0 16, .illegalOperand), (.glaunch 0 16, .illegalOperand), (.ruinv 0 3, .illegalOperand),
    (.rustat 0 0 10, .illegalOperand)] : List (Instr × Cause)), wordFault p.1 = some p.2 ∧ wellFormed p.1 = false := by decide

theorem test_ill_formed_acc_1 : ∀ p ∈ ([
    (.add 0 0 0 2, .illegalOperand), (.mulh 0 0 0 3, .illegalOperand), (.and 0 0 0 1, .illegalOperand),
    (.min 0 0 0 2, .illegalOperand), (.cmp 0 0 0 6, .illegalOperand), (.cmpb 0 0 6, .illegalOperand),
    (.movq 8 0, .illegalOperand), (.popq 0 8, .illegalOperand), (.clz 0 0 1, .illegalOperand),
    (.cmov 16 0, .illegalOperand), (.cmov 0 16, .illegalOperand), (.cnarrow 16 0 0, .illegalOperand),
    (.crights 0 16 0, .illegalOperand), (.cadd 0 0 0 2, .illegalOperand), (.cget 0 16 0, .illegalOperand),
    (.cget 0 0 8, .illegalOperand), (.cld 16 0 0 0, .illegalOperand), (.cst 0 16 0 0, .illegalOperand),
    (.ld 0 0 0 0 1 3, .illegal), (.ld 0 16 0 0 0 0, .illegalOperand), (.st 0 16 0 0 0, .illegalOperand),
    (.lds 0 0 0 0 1 3, .illegal), (.ldq 0 0 0 0 0 6, .illegalOperand), (.ldq 8 0 0 0 0 0, .illegalOperand),
    (.stq 0 16 0 0 0 0, .illegalOperand), (.prf 16 0 0 0, .illegalOperand), (.prf 0 0 0 2, .illegalOperand),
    (.fence 5, .illegalOperand), (.sbind 16 0 0, .illegalOperand), (.sbind 0 16 0, .illegalOperand),
    (.sbind 0 0 2, .illegalOperand), (.sset 16 0 0 0 1, .illegalOperand), (.sset 0 16 0 0 0, .illegalOperand),
    (.sring 8 0, .illegalOperand), (.sring 0 16, .illegalOperand), (.sstop 16, .illegalOperand),
    (.sstat 0 16 0, .illegalOperand), (.sstat 0 0 4, .illegalOperand), (.sout 16 0, .illegalOperand),
    (.sout 0 8, .illegalOperand)] : List (Instr × Cause)), wordFault p.1 = some p.2 ∧ wellFormed p.1 = false := by decide

theorem test_ill_formed_acc_2 : ∀ p ∈ ([
    (.pgdist 16 0 0, .illegalOperand), (.cpy 16 0 0 0 0, .illegalOperand), (.cpy2 0 16 0 0 0, .illegalOperand),
    (.cpyl2 0 16 0 0 0, .illegalOperand), (.chain 0 0 16, .illegalOperand), (.mcast 0 16 0 0, .illegalOperand),
    (.gwin 16 0 0 0, .illegalOperand), (.scrub 0 16 0, .illegalOperand), (.swarm 1 1, .illegal),
    (.migr 16 0, .illegalOperand), (.atom 1 0 0 0 0 0, .illegal), (.atom 0 16 0 1 0 0, .illegalOperand),
    (.atomf 1 0 0 0, .illegal), (.atomfQ 0 8, .illegalOperand), (.bind 0 16 0 0 0, .illegalOperand),
    (.bind 0 0 0 0 5, .illegalOperand), (.tlarm 4 0 0 4, .illegalOperand), (.tlarm 0 0 0 5, .illegalOperand),
    (.tlarm 0 0 4 0, .illegalOperand), (.tlarm 0 0 1 2, .illegalOperand), (.tlarm 0 1 0 4, .illegalOperand),
    (.lsend 16 0 0 1, .illegalOperand), (.lrecv 0 16 0 0, .illegalOperand), (.lradd 16 0 0, .illegalOperand),
    (.lslot 0 1 0 1, .illegal), (.lslot 16 0 0 0, .illegalOperand), (.evict 16 0 0 0, .illegalOperand),
    (.rmap 0 16 0 0, .illegalOperand), (.eqpost 1 0 0 0, .illegal), (.eqpost 0 16 0 1, .illegalOperand),
    (.eqpeek 0 16 0, .illegalOperand), (.eqrel 16 0, .illegalOperand), (.eqcut 16 0, .illegalOperand),
    (.spill 16 0, .illegalOperand), (.fill 16 0, .illegalOperand)] : List (Instr × Cause)), wordFault p.1 = some p.2 ∧ wellFormed p.1 = false := by decide

theorem test_ill_formed_vec_1 : ∀ p ∈ ([
    (.fadd ⟨0, 0, 0, 0, 0, 0, 0, 0, 0, 0, 0, 3⟩, .illegalOperand),
    (.fadd ⟨0, 0, 0, 0, 0, 0, 0, 0, 1, 0, 0, 0⟩, .illegal), (.fadd ⟨0, 0, 0, 0, 0, 0, 0, 0, 0, 1, 0, 0⟩, .illegal),
    (.fadd ⟨0, 0, 0, 0, 0, 0, 0, 3, 0, 0, 0, 0⟩, .illegalOperand),
    (.fadd ⟨63, 0, 0, 1, 0, 0, 0, 0, 0, 0, 0, 0⟩, .illegalOperand),
    (.fadd ⟨0, 7, 0, 0, 1, 0, 0, 0, 0, 0, 0, 0⟩, .illegalOperand),
    (.fadd ⟨0, 16, 0, 0, 0, 1, 0, 0, 0, 0, 0, 0⟩, .illegalOperand),
    (.fadd ⟨0, 0, 8, 0, 0, 0, 2, 0, 0, 0, 0, 0⟩, .illegalOperand),
    (.fadd ⟨0, 0, 16, 0, 0, 0, 3, 0, 0, 0, 0, 0⟩, .illegalOperand),
    (.ffma ⟨0, 0, 0, 1, 0, 0, 0, 0, 60, 0, 0, 0⟩, .illegalOperand),
    (.fabs ⟨0, 0, 1, 0, 0, 0, 0, 0, 0, 0, 0, 0⟩, .illegal),
    (.fcmp ⟨0, 0, 0, 0, 0, 0, 0, 0, 0, 0, 0, 0⟩, .illegalOperand),
    (.fcmp ⟨8, 0, 0, 0, 0, 0, 0, 0, 0, 0, 0, 0⟩, .illegalOperand),
    (.fcmp ⟨1, 0, 0, 0, 0, 0, 0, 1, 0, 0, 0, 0⟩, .illegalOperand),
    (.fcmp ⟨1, 0, 0, 1, 0, 0, 0, 0, 0, 0, 0, 0⟩, .illegalOperand),
    (.icmp ⟨1, 0, 0, 0, 0, 0, 0, 0, 0, 0, 0, 6⟩, .illegalOperand),
    (.iadd ⟨0, 0, 0, 0, 0, 0, 0, 0, 0, 0, 0, 2⟩, .illegalOperand),
    (.imul ⟨0, 0, 0, 0, 0, 0, 0, 0, 0, 0, 0, 4⟩, .illegalOperand),
    (.vecAnd ⟨0, 0, 0, 0, 0, 0, 0, 0, 0, 0, 0, 1⟩, .illegalOperand),
    (.vecPopc ⟨0, 0, 0, 0, 0, 0, 1, 0, 0, 0, 0, 0⟩, .illegal),
    (.mov ⟨0, 0, 0, 0, 0, 0, 0, 0, 0, 0, 0, 1⟩, .illegalOperand),
    (.sel ⟨0, 0, 0, 0, 0, 0, 0, 0, 8, 0, 0, 0⟩, .illegalOperand),
    (.sel ⟨0, 0, 0, 0, 0, 0, 0, 0, 0, 1, 0, 0⟩, .illegalOperand),
    (.bcst ⟨0, 0, 0, 0, 0, 0, 0, 0, 1, 0, 0, 0⟩, .illegalOperand),
    (.rot ⟨0, 0, 0, 0, 0, 0, 0, 0, 16, 3, 0, 0⟩, .illegalOperand),
    (.cvt ⟨0, 0, 0, 0, 0, 0, 0, 0, 0, 0, 0, 10⟩, .illegalOperand),
    (.cvt ⟨0, 0, 1, 0, 0, 0, 0, 0, 0, 0, 0, 0⟩, .illegal), (.rsum ⟨0, 0, 0, 0, 0, 0, 0, 0, 0, 0, 0, 2⟩, .illegal),
    (.rmax ⟨0, 0, 0, 0, 0, 0, 0, 0, 0, 0, 0, 2⟩, .illegalOperand),
    (.scan ⟨0, 0, 0, 0, 0, 0, 0, 0, 0, 0, 0, 4⟩, .illegalOperand),
    (.vcmpb ⟨1, 0, 0, 0, 0, 0, 0, 0, 0, 0, 0, 0⟩, .illegal),
    (.vcmpb ⟨0, 0, 0, 0, 0, 0, 0, 0, 0, 0, 0, 3⟩, .illegalOperand),
    (.vcmpb ⟨0, 0, 0, 1, 0, 0, 0, 0, 0, 0, 0, 0⟩, .illegalOperand),
    (.mset ⟨1, 0, 0, 0, 0, 0, 0, 0, 0, 0, 0, 7⟩, .illegalOperand),
    (.mset ⟨1, 8, 0, 0, 0, 0, 0, 0, 0, 0, 0, 1⟩, .illegalOperand),
    (.mset ⟨1, 0, 0, 0, 0, 0, 0, 0, 0, 0, 0, 6⟩, .illegalOperand),
    (.mset ⟨1, 1, 0, 0, 0, 0, 0, 0, 0, 3, 0, 6⟩, .illegal), (.lop3 ⟨0, 0, 0, 7, 7, 0, 0, 0, 1, 0⟩, .illegalOperand),
    (.lop3 ⟨0, 0, 0, 0, 0, 0, 0, 3, 0, 0⟩, .illegalOperand), (.ldt ⟨0, 0, 0, 0, 0, 3, 0, 0, 4, 0, 4⟩, .illegal)] : List (Instr × Cause)), wordFault p.1 = some p.2 ∧ wellFormed p.1 = false := by decide

theorem test_ill_formed_vec_2 : ∀ p ∈ ([
    (.ldt ⟨0, 0, 1, 0, 0, 3, 0, 0, 4, 0, 0⟩, .illegal), (.ldt ⟨0, 0, 0, 0, 0, 3, 0, 0, 3, 0, 0⟩, .illegalOperand),
    (.ldt ⟨0, 0, 0, 2, 2, 3, 0, 0, 4, 0, 0⟩, .illegalOperand),
    (.ldt ⟨0, 0, 0, 0, 0, 1, 0, 0, 4, 0, 0⟩, .illegalOperand),
    (.ldt ⟨0, 15, 0, 0, 0, 3, 0, 0, 4, 0, 1⟩, .illegalOperand),
    (.ldt ⟨0, 0, 0, 0, 0, 3, 0, 0, 4, 0, 2⟩, .illegalOperand),
    (.ldt ⟨0, 0, 0, 0, 0, 3, 0, 0, 4, 0, 3⟩, .illegalOperand)] : List (Instr × Cause)), wordFault p.1 = some p.2 ∧ wellFormed p.1 = false := by decide

theorem test_ill_formed_others_1 : ∀ p ∈ ([
    (.shape 0 0 2 0 0 0 0 0 0, .illegalOperand), (.shape 0 0 7 7 0 0 0 0 0, .illegalOperand),
    (.shape 0 0 5 4 0 0 0 0 0, .illegalOperand), (.shape 0 0 2 1 0 0 0 0 0, .illegalOperand),
    (.ringdef 0 1 1 0 0 0 0, .illegal), (.ringdef 0 0 7 0 0 0 0, .illegalOperand),
    (.ringdef 0 0 10 0 0 0 0, .illegalOperand), (.ringdef 0 0 2 767 1 0 0, .illegalOperand), (.mscl 0 1 1, .illegal),
    (.mdrain 0 0 0 24, .illegalOperand), (.atts 0 0 0 0 0 0 0 15, .illegalOperand),
    (.attv 0 0 0 15, .illegalOperand), (.attm 0 0 0 0 0 0 15, .illegalOperand), (.mstat 0 24, .illegalOperand),
    (.rowst 0 0 0 1 1, .illegal), (.rowst 0 1 0 0 0, .illegal), (.rowst 0 0 0 0 24, .illegalOperand),
    (.repsel 0 3, .illegalOperand), (.memb 0 0 3, .illegalOperand), (.memb 1 0 2, .illegal), (.memb 0 1 0, .illegal),
    (.isect 15 16 17, .illegalOperand), (.union 16 17 17, .illegalOperand), (.spdot 0 14 0 0, .illegalOperand),
    (.spdot 0 0 0 3, .illegalOperand), (.ixld 16 16, .illegalOperand), (.ixld 0 15, .illegalOperand),
    (.ixst 15 0, .illegalOperand), (.ixst 16 16, .illegalOperand), (.ixmov 0 0 3, .illegalOperand),
    (.ixmov 0 1 1, .illegal), (.ixmov 16 0 0, .illegalOperand), (.ixcnt 0 1 1, .illegal), (.ixcnt 1 0 2, .illegal),
    (.ixcnt 0 16 2, .illegalOperand), (.ixcnt 1 0 3, .illegal), (.had 24 0 0, .illegalOperand),
    (.hadw 0 24 0, .illegalOperand), (.qst 16 0 0 0 0 0, .illegalOperand), (.qst 0 24 0 0 0 0, .illegalOperand)] : List (Instr × Cause)), wordFault p.1 = some p.2 ∧ wellFormed p.1 = false := by decide

theorem test_ill_formed_others_2 : ∀ p ∈ ([
    (.qst 0 0 16 0 0 0, .illegalOperand), (.qst 0 0 0 0 3 0, .illegalOperand), (.qst 0 0 0 0 0 3, .illegalOperand),
    (.qstm 0 0 0 0 0 0 3, .illegalOperand), (.qsel 0 0, .illegalOperand), (.qsel 0 8, .illegalOperand),
    (.ctbl 4 0, .illegalOperand), (.ctbl 0 13, .illegalOperand), (.deq 24 0 0 0 0, .illegalOperand),
    (.deq 0 16 0 0 0, .illegalOperand), (.deq 0 0 0 0 3, .illegalOperand), (.cvtx 0 24 0 0, .illegalOperand),
    (.cvtx 0 0 0 3, .illegalOperand), (.cvtn 0 0 0 0, .illegalOperand), (.cvtn 0 0 0 7, .illegalOperand),
    (.cvtn 0 0 16 1, .illegalOperand), (.qhdr 0 16 0, .illegalOperand), (.qerr 0 0 0 3, .illegalOperand),
    (.qstat 24 0, .illegalOperand)] : List (Instr × Cause)), wordFault p.1 = some p.2 ∧ wellFormed p.1 = false := by decide

theorem test_well_formed : ∀ i ∈ ([
    .pfx 5 6 2 7 1, .pset 7 3 15 4, .pset 7 15 15 7, .plog 7 7 7 3, .plog 7 7 0 4, .kld 15 3 15, .kld 15 1 1023,
    .csrw 31 0x37F 2, .qcfg 8 4 0 0, .qcfg 7 5 1 0, .loop 3 1023 0, .contract 8, .rustat 0 0 9, .add 31 31 31 1,
    .mulh 0 0 0 2, .cmp 0 0 0 5, .ld 0 15 0 0 0 3, .ld 0 15 0 0 1 2, .ldq 7 31 0 1 1 5, .fence 4, .cpy 31 31 0 1 1,
    .atom 1 0 0 0 0 7, .tlarm 3 31 3 0, .fadd ⟨54, 55, 15, 1, 0, 0, 3, 0, 0, 0, 0, 0⟩,
    .fcmp ⟨7, 0, 0, 0, 0, 0, 0, 0, 0, 0, 0, 0⟩, .fcmp ⟨63, 0, 0, 0, 0, 0, 0, 0, 0, 0, 0, 15⟩,
    .ldt ⟨0, 14, 0, 0, 7, 3, 0, 0, 4, 0, 1⟩, .ringdef 0 0 2 767 0 7 0, .shape 0 0 9 4 0 0 0 0 0, .mdrain 0 0 0 23,
    .isect 16 17 18, .ixmov 15 15 0, .qsel 0 0xF7, .ctbl 3 12] : List Instr), wellFormed i = true := by decide

/-! ## The hypotheses of the statements can be met

For every statement with hypotheses, a state and operands that meet them: clause by clause, with the fields at their limits
where a clause has limits. -/

/-- A live job at supervisor level with the first 2 MiB as its code, at the word 0x40. -/
def live : State := { State.reset with
  ctx.status := .live, ctx.job.code := loadCode, ctx.job.direct := true, ctx.seq.sup := true, ctx.seq.fetch := 0x40
  ctx.job.uid := 1, units.nextUid := 2, asidRoot := BitVec.ofNat 64 loadRoot }

/-- The same at task level. -/
def user : State := { live with ctx.seq.sup := false }

/-- An engine's queue holds a word. -/
def State.busy (s : State) (e : Engine) : State := s.setQueue e [.instr (.movq 0 1) 0 1 0 0 [] true]

/-- A computation runs to its end, and what it answers and leaves is as `p` says. -/
def ran {α : Type} (r : EStateM.Result Stop State α) (p : α → State → Bool) : Bool :=
  match r with
  | .ok a s => p a s
  | .error _ _ => false

theorem witness_branches :
    (∀ i ∈ [Instr.nop, .br 0 4, .br 1 4, .br 0 0x7FFF, .br 0 (-17), .call 0 4, .ret], live.runsSeq i) ∧ brCond live 1 = false ∧
    brCond live 0 = true ∧ live.inCode (0x40 + 4 * (0x7FFF#16).toInt) ∧ live.inCode 0x1FFFFC ∧ ¬ live.inCode 0x1FFFFD ∧
    ¬ live.inCode (0x40 + 4 * (-17#16).toInt) ∧
    ({ live with ctx.seq.links := [0x1FFFFC] }).runsSeq .ret ∧ ({ live with ctx.seq.links := List.replicate 8 0 }).ldepth = 8 ∧
    live.ldepth < 8 := by decide +kernel

theorem witness_queue_branches :
    let s := { live with ctx.bq.producer := some .vec, ctx.bq.bits := [false, true, false, true] }
    s.runsSeq (.brq 0 1) ∧ s.runsSeq (.brq 1 1) ∧ s.runsSeq (.jmpq 3 0x7FFF) ∧ s.runsSeq (.jmpq 0 0) ∧ s.ctx.seq.bits = [] ∧
    s.ctx.bq.producer.isSome ∧ false = (0#1).getLsbD 0 ∧ false ≠ (1#1).getLsbD 0 ∧
    s.inCode (s.ctx.seq.fetch + 4 * ((0x7FFF#16).toInt + bitsValue [false, true, false, true])) ∧
    ({ live with ctx.bq.producer := some .acc }).ctx.bq.bits = [] := by decide +kernel

/-- A loop on lc1 with a body of four words. -/
def looped : State := { live with ctx.seq.loops := [⟨1, 0x40, 0x50, 0, .counted⟩] }

theorem witness_loops :
    live.runsSeq (.loop 3 1 0x7FFFFFF) ∧ live.runsSeq (.loop 0 1023 0) ∧ live.runsSeq (.loopq 3 1023) ∧
    live.loopFits 3 (0x40 + 8 + 4) ∧ looped.loopFits 0 0x50 ∧ ¬ looped.loopFits 0 0x54 ∧ ¬ looped.loopFits 1 0x50 ∧
    looped.runsSeq (.lbrk 0) ∧ looped.innerLoop = some ⟨1, 0x40, 0x50, 0, .counted⟩ ∧ live.innerLoop = none ∧
    brCond looped 0 = true ∧ brCond looped 1 = false := by decide +kernel

theorem witness_predicates :
    (∀ i ∈ [Instr.pset 0 0 0 0, .pset 7 0 0 1, .pset 7 3 0 2, .pset 1 3 0 3, .pset 1 3 15 4, .pset 1 3 15 5, .pset 1 15 15 6,
        .pset 1 15 15 7, .plog 7 7 7 0, .plog 1 2 3 1, .plog 1 2 3 2, .plog 1 2 3 3, .plog 1 7 0 4, .ppop ⟨7, 0⟩, .kld 15 0 0x3FF,
        .kld 0 1 0, .kld 15 2 15, .kld 15 3 15, .snq 15 0, .snq 0 1, .snq 0 2], live.runsSeq i) ∧
    live.ctx.job.direct = true := by decide +kernel

theorem witness_meetings :
    (∀ m : BitVec 6, m ≠ 0 → live.runsSeq (.rdv m)) ∧ live.runsSeq (.phase 1) ∧ live.runsSeq (.phase 0) ∧
    ((namedEngines 0x3F).all live.idleEngine) ∧ (State.busy live .mat).idleEngine .mat = false ∧
    (State.busy live .mat).runsSeq (.rdv 8) ∧
    ((namedEngines 8).all fun e => (State.busy live .mat).idleEngine e || (State.busy live .mat).room e 1) ∧
    inMask 8 .mat = true := by decide +kernel

/-- Two contexts on the core: the other ready, at a higher priority. -/
def pair : State := { live with banks := [(1, { live.ctx with prio := 5, job.uid := 2 })] }

theorem witness_scheduling :
    live.runsSeq (.wait 1 1 0 0) ∧ live.tlarmQueued = false ∧
    ({ live with ctx.seq.slots := [(0, .gts 5)] }).ctx.seq.slots.get WaitSlot.unarmed 0 ≠ .unarmed ∧
    live.runsSeq .jobEnd ∧ live.ctx.seq.intrap = false ∧ live.runsSeq .halt ∧ live.drained = true ∧ live.ctx.vec.slots = [] ∧
    ({ live with ctx.seq.intrap := true }).runsSeq (.rft 1) ∧ live.runsSeq (.ctxsel 0) ∧ 4 * live.cur.core + 0 = live.cur ∧
    pair.runsSeq (.ctxsel 1) ∧ (pair.bankCtx 1).status = .live ∧ pair.bankOff.get false 1 = false ∧
    pair.landingsSettled = true ∧ live.runsSeq .yield ∧ live.highest (live.others live.cur) = none ∧
    pair.highest (pair.others pair.cur) = some 1 ∧
    (let t := { pair with ctx.vec.slots := [⟨0, 1, 1, 0, 3, .pad 0, none, none, 0⟩] }
     t.highest (t.others t.cur) = some 1 ∧ t.landingsSettled = false) := by decide +kernel

theorem witness_system_registers :
    (∀ i ∈ [0x000#12, 0x37F, 0x003, 0x100, 0x219].map fun r => Instr.csrr 31 r 0, live.runsSeq i) ∧
    (∀ i ∈ [0x001#12, 0x002, 0x012, 0x018, 0x01B, 0x030, 0x100, 0x000, 0x003, 0x011, 0x014, 0x020, 0x021, 0x022, 0x023, 0x024,
      0x028, 0x02B, 0x031, 0x035].flatMap fun r => [Instr.csrw 1 r 0, .csrw 1 r 1, .csrw 1 r 2], live.runsSeq i) ∧
    live.ctx.seq.sup = true ∧ live.idleEngine .acc = true ∧ live.xBusy 31 = false ∧ semOf 0x000 = none ∧ semOf 0x37F = some 63 ∧
    (State.busy live .acc).idleEngine .acc = false ∧ (State.busy live .acc).room .acc 1 = true ∧
    taskMayRead 0x000 = true ∧ (user.ctx.seq.sup || taskMayRead 0x340) = false ∧ user.runsSeq (.csrr 1 0x340 0) ∧
    (user.ctx.seq.sup || taskMayWrite 0x001) = false ∧ user.runsSeq (.csrw 1 0x001 0) ∧ live.runsSeq (.tstamp 31) ∧
    live.queue .acc = [] ∧ ran (writeCsr 0x002 (csrValue 0 (live.peekCsr 0x002) (live.x 1)) live) (fun _ _ => true) := by decide +kernel

theorem witness_queue_binding :
    (∀ i ∈ [Instr.qcfg 0 1 5 0, .qcfg 7 5 1 0, .qcfg 0 0 0 1, .qcfg 8 4 0 0, .qcfg 8 0 0 1], live.runsSeq i) ∧ live.drained = true ∧
    (live.dataQ 7).entries = [] ∧ (live.dataQ 7).reserved = [] ∧ live.ctx.bq.bits = [] ∧
    ((live.setDataQ 7 { bind := none, entries := [[]] }).dataQ 7).entries ≠ [] ∧
    ({ live with ctx.bq.bits := [true] }).ctx.bq.bits ≠ [] := by decide +kernel

/-- An object table of address space 1: objects 1 to 6 of one page each, data, capabilities, remap, egress, gather and
scatter windows, in the frames 9 to 14. -/
def tables : Memory :=
  let objects := [(6, tySwin), (5, tyGwin), (4, tyEgress), (3, tyRemap), (2, tyCaps), (1, tyData)]
  let pages := objects.foldl (fun m p => Memory.write m (loadList + 0x100 * p.1) (natToBytes 8 (8 + p.1))) []
  let entries := objects.foldl (fun m p =>
    (Memory.write m (loadTable + 32 * p.1 + 8) (natToBytes 8 (loadList + 0x100 * p.1))).write (loadTable + 32 * p.1)
      (natToBytes 8 (2 ^ 63 + 2 ^ 48 * p.2 + pageSize))) pages
  entries.write (loadRoot + 16) (natToBytes 8 (2 ^ 63 + 16) ++ natToBytes 8 loadTable)

/-- A capability with every right on object `k`, of a type, at an offset. -/
def capOn (k ty at' : Nat) : Cap :=
  { cursor := BitVec.ofNat 64 at', rights := 0xFF, upper := 0x200000, type := BitVec.ofNat 4 ty, asid := 1, obj := BitVec.ofNat 32 k }

/-- `live` with the object table, and capabilities on its objects in c1 to c6. -/
def objs : State := { live with
  mem := tables
  ctx.acc.c := [(1, capOn 1 tyData 0), (2, capOn 2 tyCaps 0), (3, capOn 3 tyRemap 0), (4, capOn 4 tyEgress 0),
    (5, capOn 5 tyGwin 0), (6, capOn 6 tySwin 0)] }

/-- A launch record of a type whose code object is the job's own. -/
def record (type : Nat) : Bytes := natToBytes 16 type ++ loadCode.bytes ++ List.replicate 208 0

/-- A job with a ticket in its last slot for launch 7. -/
def ticketed (res : Option DWord) : State := { live with
  ctx.units.tickets := [(7, some (7, 0x107))], ctx.acc.x := [(1, 0x107)]
  units.launches := [{ n := 7, wq := 0, spawner := some 1, result := res, counters := [(9, 5)] }], units.nextLaunch := 8 }

theorem witness_launches :
    (let s := { objs with mem := tables.write 0x1200000 (record 0) }
     s.queue .acc = [] ∧ s.idleEngine .acc = true ∧ s.xBusy 31 = false ∧ s.cBusy 1 = false ∧ s.ctx.job.task = false ∧
     s.runsSeq (.spawn 31 1) ∧ s.capCheck (s.c 1) 0 256 [tyData] (rightsOf [rR]) = none ∧ capOffset (s.c 1) 0 % 64 = 0 ∧
     s.wackCount = 0 ∧ s.readDirect (s.c 1) (capOffset (s.c 1) 0) 256 = .bytes (record 0) ∧ (parseRec (record 0)).type < 2 ∧
     (parseRec (record 0)).code.asid = s.ctx.job.code.asid ∧ (parseRec (record 0)).sup = false ∧ s.freeTicket = some 0 ∧
     s.spawnedCount < 256) ∧
    ({ objs with mem := tables.write 0x1200000 (record 2) }).runsSeq (.glaunch 31 1) ∧ (parseRec (record 2)).type = 2 ∧
    (parseRec (record 2)).code.asid = 1 ∧
    (let s := ticketed (some 5)
     s.runsSeq (.tjoin 2 1 0) ∧ s.runsSeq (.tjoin 2 1 1) ∧ s.ctx.job.task = false ∧ s.ticketOf (s.x 1) = some (7, 7) ∧
     s.launchOf 7 ≠ none ∧ (s.launchOf 7).bind (·.result) = some 5 ∧ s.runsSeq (.rustat 2 1 9) ∧
     s.statCounters 1 (s.x 1) = some [(9, 5)] ∧ s.statCounters 0 0 = some [] ∧
     s.queue .acc = [] ∧ s.idleEngine .acc = true ∧ s.xBusy 2 = false ∧ s.xBusy 1 = false) ∧
    ((ticketed none).launchOf 7).map (·.result) = some none ∧ (ticketed none).ticketOf ((ticketed none).x 1) = some (7, 7) ∧
    live.runsSeq (.ruinv 0 2) ∧ invBad 0 (live.x 0) = false ∧ invBad 1 0xFFFF = false ∧ invBad 2 0xFFFFFFF = false ∧
    ((List.range 4).all fun k => !(live.bushelOf k).any fun e =>
      invNames live.ctx.job.code.asid.toNat 2 (live.x 0) e && live.tagBusy k e.tag) = true := by decide +kernel

/-- Traps are vectored to the word 0x1FFFFC. -/
def vectors : State := { live with ctx.seq.tvec := 0x1FFFFD }

theorem witness_traps :
    vectors.runsSeq (.trap 0x3FF) ∧ vectors.landingsSettled = true ∧ vectors.ctx.seq.intrap = false ∧
    vectors.ctx.seq.tvec.getLsbD 0 = true ∧ vectors.ctx.seq.pfx = none ∧
    ¬ (vectors.ctx.job.task = true ∧ Cause.illegal = .pageNonresident) ∧ Cause.illegal ≠ .commitOverflow ∧
    vectors.vectored = true ∧ vectors.ctx.seq.fetch < 2 ^ 64 ∧ live.vectored = false ∧ live.landingsSettled = true ∧
    ({ vectors with ctx.seq.intrap := true }).ctx.seq.intrap = true ∧
    (∀ i ∈ [Instr.halt, .rft 0, .rft 1, .ctxsel 3], user.runsSeq i) ∧ user.ctx.seq.sup = false ∧
    (∀ i ∈ [Instr.scrub 0 15 0, .migr 15 0, .spill 15 0, .fill 15 0], user.takes .acc i (0, 0, true)) := by decide +kernel

theorem witness_ill_formed :
    live.ctx.seq.pfx = none ∧
    (∀ p ∈ [(Instr.pset 1 0 0 8, Cause.illegalOperand), (.pset 1 1 0 0, .illegal), (.plog 1 8 0 0, .illegalOperand), (.ppop ⟨8, 0⟩, .illegalOperand),
      (.snq 16 0, .illegalOperand), (.kld 0 4 0, .illegalOperand), (.qcfg 9 1 2 0, .illegalOperand), (.loopq 4 1, .illegalOperand),
      (.add 0 0 0 2, .illegalOperand), (.sub 0 0 0 2, .illegalOperand), (.cmp 0 0 0 6, .illegalOperand), (.cget 0 16 0, .illegalOperand),
      (.cadd 0 0 0 2, .illegalOperand), (.sstat 0 0 4, .illegalOperand), (.movq 8 0, .illegalOperand), (.popq 0 8, .illegalOperand)],
      wordFault p.1 = some p.2) ∧
    (State.busy live .acc).queue .acc ≠ [] ∧ (State.busy live .acc).room .acc 1 = true ∧
    (let s := { live.setQueue .vec [.marker .illegal 0x3C 1] with operand.eng := .vec }
     s.queue .vec = .marker .illegal 0x3C 1 :: [] ∧ s.heldBy .vec = false ∧ s.runs = true) := by decide +kernel

/-- `live` behind a prefix of an engine with rounding and saturation modes and a predicate that holds. -/
def prefixed (eng : BitVec 3) (rnd : BitVec 3) (sat : BitVec 2) : State :=
  { live with ctx.seq.pfx := some { eng := eng, rnd := rnd, sat := sat, pred := 0, sense := 0, addr := 0x3C } }

theorem witness_acc_integers :
    live.xFree [31, 0, 31] ∧
    (∀ i ∈ [Instr.add 31 1 31 1, .sub 0 1 2 0, .mul 1 2 3 1, .mulh 1 2 3 2, .mulh 1 2 3 0, .mulh 1 2 3 1, .and 1 2 3 0, .or 1 2 3 0, .xor 1 2 3 0,
      .shl 1 2 3 0, .shr 1 2 3 0, .sra 1 2 3 0, .min 1 2 3 1, .max 1 2 3 0, .addi 1 2 0x3FF, .andi 1 2 0x200, .ori 1 2 0x3FF,
      .shli 1 2 63, .shri 1 2 63, .li 1 0x3FF 0x7FFFFFF, .lih 1 0x7FFFFFF, .clz 1 2 0, .popc 1 2 0, .cmp 1 2 3 5, .cmpb 2 3 5,
      .movq 7 31, .popq 31 7, .divu 1 2 3, .remu 1 2 3], live.takes .acc i (0, 0, true)) := by decide +kernel

theorem witness_acc_saturation :
    (∀ i ∈ [Instr.add 31 1 31 1, .sub 0 1 2 0, .mul 1 2 3 1, .addi 1 2 0x3FF], (prefixed 1 0 1).takes .acc i (0, 1, true)) ∧
    (∀ i ∈ [Instr.add 31 1 31 1, .sub 0 1 2 0, .mul 1 2 3 1, .addi 1 2 0x3FF], (prefixed 1 0 2).takes .acc i (0, 2, true)) := by decide +kernel

theorem witness_acc_queues :
    ({ live with ctx.bq.producer := some .acc, ctx.bq.bits := List.replicate 15 true }).ctx.bq.bits.length < 16 ∧
    (let s := live.setDataQ 7 { bind := some (.acc, .qnt), entries := List.replicate 3 [] }
     (s.dataQ 7).bind = some (.acc, .qnt) ∧ (s.dataQ 7).hasRoom = true ∧ s.takes .acc (.movq 7 31) (0, 0, true)) ∧
    (let s := live.setDataQ 7 { bind := some (.vec, .acc), entries := [[1]] }
     (s.dataQ 7).bind = some (.vec, .acc) ∧ (s.dataQ 7).entries = [1] :: [] ∧ s.takes .acc (.popq 31 7) (0, 0, true)) ∧
    (live.setX 3 1).x 3 ≠ 0 ∧ (live.setX 3 1).takes .acc (.divu 1 2 3) (0, 0, true) ∧ live.x 3 = 0 := by decide +kernel

theorem witness_capabilities :
    live.xFree [31, 31] ∧ live.cFree [15, 15] ∧
    (∀ i ∈ [Instr.cmov 15 15, .cnarrow 15 0 31, .crights 15 15 31, .cadd 15 15 31 1, .cget 31 15 7], live.takes .acc i (0, 0, true)) ∧
    (let c := (objs.setX 1 0x200000).c 1
     c.type.toNat < 7 ∧ c.asid = objs.ctx.job.code.asid ∧ c.lower.toNat ≤ c.cursor.toNat ∧
     c.cursor.toNat + ((objs.setX 1 0x200000).x 1).toNat ≤ c.upper.toNat) := by decide +kernel


/-- Scratchpad addresses at the last and the first word. -/
def padded : State := ((live.setX 1 0x17FFF8).setX 2 (-1)).setX 3 0x17FFF9

theorem witness_scratchpad :
    (∀ i ∈ [Instr.lds 4 1 0 1 0 3, .lds 4 1 2 0 0 2, .lds 4 0 31 1 0 0, .sts 1 1 0 1 3], padded.takes .acc i (0, 0, true)) ∧
    padded.xFree [4, 1, 0] ∧ padded.padReady 0x17FFF8 8 ∧ padded.padReady 0x17FFF7 4 ∧ padded.padReady 31 1 ∧
    padded.padBadIn 0x17FFF8 8 = none ∧ padded.padBadIn 0x17FFF7 4 = none := by decide +kernel

theorem witness_scratchpad_out_of_bounds :
    (∀ i ∈ [Instr.lds 4 0 2 0 0 3, .lds 4 3 0 1 0 3, .sts 4 3 0 1 3, .lds 4 1 0 1 0 3], padded.takes .acc i (0, 0, true)) ∧
    padded.xFree [4, 0, 2] ∧ (padded.x 0).toNat + (padded.x 2).toInt < 0 ∧ (0x180000 : Int) < (padded.x 3).toNat + ((0 * 8 : Nat) : Int) + (8 : Nat) ∧
    ((padBanks 0x17FFF8 8).any fun j => (0x80#8).getLsbD j) = true := by decide +kernel

/-- `objs` with eight bytes at the start of object 1, and an index of 8 in x1. -/
def loaded : State := { objs with mem := tables.write 0x1200000 [1, 2, 3, 4, 5, 6, 7, 0x80], ctx.acc.x := [(1, 8), (2, 0x1FFFF8)] }

theorem lies_by_walk {s : State} {h : HolderId} {c : Cap} {o n a : Nat}
    (p : 0 < n ∧ o % pageSize + n ≤ pageSize ∧ (s.holder h).find c.obj.toNat (o / pageSize) = none ∧ s.late = false)
    (q : (match s.walk c o with
      | .ok t => t.place o == .at a && t.place (o + n - 1) == .at (a + n - 1)
      | .error _ => false) = true) : s.lies h c o n a := by
  refine ⟨p.1, p.2.1, ?_⟩
  split at q
  · next t ht =>
    simp only [Bool.and_eq_true, beq_iff_eq] at q
    exact ⟨t, .inr ⟨p.2.2.1, p.2.2.2, ht⟩, q⟩
  · cases q

theorem gives_plain {s : State} {h : HolderId} {c : Cap} {o n a : Nat} {l1 : Bool} {v : Bytes} (p : s.lies h c o n a)
    (q : s.marked c o n = false ∧ s.follows c o n = false ∧ c.type.toNat ≠ tyGwin ∧ s.reachable a ∧
      s.badGap a n (s.heldOf c o n) = none ∧
      v = mergeHeld (s.heldOf c o n) (if l1 = true then s.l1Read a n else s.mem.read a n)) :
    s.gives h c o n l1 v := by
  unfold State.gives
  rw [if_neg q.2.2.1]
  exact ⟨q.1, q.2.1, a, p, q.2.2.2⟩

theorem canWrite_plain {s : State} {h : HolderId} {c : Cap} {o a : Nat} {b : Bytes} (p : s.lies h c o b.length a)
    (q : s.marked c o b.length = false ∧ s.ctx.job.task = false ∧ c.type.toNat ≠ tySwin ∧ s.follows c o b.length = false ∧
      s.reachable a) : s.canWrite h c o b := by
  unfold State.canWrite
  rw [if_neg (by simp [q.2.1]), if_neg q.2.2.1]
  exact ⟨q.1, p.1, q.2.2.2.1, a, p, q.2.2.2.2⟩

theorem witness_reads_at_hand :
    loaded.gives (.accessQueue 1) (loaded.c 1) 0 8 true [1, 2, 3, 4, 5, 6, 7, 0x80] ∧
    loaded.gives (.accessQueue 1) (loaded.c 1) 0x1FFFF8 8 true (List.replicate 8 0) ∧
    loaded.gives (.accessQueue 2) (loaded.c 2) 32 32 false (List.replicate 32 0) ∧
    loaded.canWrite (.accessQueue 1) (loaded.c 1) 8 (natToBytes 8 8) ∧
    loaded.canWrite (.accessQueue 2) (loaded.c 2) 32 (loaded.c 1).bytes :=
  ⟨gives_plain (lies_by_walk (a := 0x1200000) (by decide +kernel) (by decide +kernel)) (by decide +kernel),
    gives_plain (lies_by_walk (a := 0x13FFFF8) (by decide +kernel) (by decide +kernel)) (by decide +kernel),
    gives_plain (lies_by_walk (a := 0x1400020) (by decide +kernel) (by decide +kernel)) (by decide +kernel),
    canWrite_plain (lies_by_walk (a := 0x1200008) (by decide +kernel) (by decide +kernel)) (by decide +kernel),
    canWrite_plain (lies_by_walk (a := 0x1400020) (by decide +kernel) (by decide +kernel)) (by decide +kernel)⟩

/-- R448: a dirty line of which one sector has become uncorrectable is written back without it: HBM4E keeps that sector's
older bytes, which can be read again, the line's other sectors are written, and a machine check names the line. -/
theorem test_write_back_keeps_older_bytes :
    let s := State.setSlice { live with bad := [0x90000], mem := (live.mem.write 0x1200000 [7]).write 0x1200020 [8] } 0
      { lines := [{ line := mscLine 0x1200000, way := 0, dirty := some 0
                    under := [(0x90000, List.replicate 32 5), (0x90001, List.replicate 32 6)] }] }
    let t := s.mscFlushAll 0
    t.mem.get 0x1200000 = 5 ∧ t.mem.get 0x1200020 = 8 ∧ t.bad = [] ∧ (t.slice 0).cnt.get 0 2 = 1 ∧
    (t.host.rings.flatMap fun r => r.2.waiting.map fun e => (e.kind, e.p0, e.p1)) = [(kMcheck, 1, 0x1200000)] := by
  decide +kernel

/-- R447, R458, R469: a load of an uncorrectable sector of HBM4E raises its fault, counts under ECCUNC, and posts an ERROR
event of type 1 with the sector's address and unit 0. -/
theorem test_uncorrectable_load_is_reported :
    (match execLd 4 1 0 1 0 3 { loaded with bad := [0x90000] } with
    | .next t => t.ctx.seq.trap.tcause.toNat % 256 == 0x0D && (t.slice 0).cnt.get 0 7 == 1 &&
        (t.host.rings.flatMap fun r => r.2.waiting.map fun e => (e.kind, e.p0, e.p1)) ==
          [(kError, BitVec.ofNat 64 (2 ^ 60 + 0x1200000), 0)]
    | _ => false) = true := by decide +kernel

theorem witness_loads :
    loaded.takes .acc (.ld 4 1 0 1 0 3) (0, 0, true) ∧ loaded.xFree [4, 0] ∧ loaded.cFree [4, 1] ∧ loaded.late = false ∧
    loaded.capCheck (loaded.c 1) 0 8 [tyData, tyGwin] (rightsOf [rR]) = none ∧
    loaded.marked (loaded.c 1) (capOffset (loaded.c 1) 0) 8 = false ∧ loaded.ctx.acc.loads.length < 32 ∧
    ran (readObj (.accessQueue 1) (loaded.c 1) 0 8 true (loaded.advance 1)) (fun g u =>
      g == .bytes [1, 2, 3, 4, 5, 6, 7, 0x80] && u.ctx.stuck == 0 && u.hold .acc == {}) = true ∧
    loaded.capCheck (loaded.c 1) 0x1FFFF8 8 [tyData, tyGwin] (rightsOf [rR]) = none ∧
    ran (readObj (.accessQueue 1) (loaded.c 1) 0x1FFFF8 8 true (loaded.advance 1)) (fun g u =>
      g == .bytes (List.replicate 8 0) && u.ctx.stuck == 0 && u.hold .acc == {}) = true := by decide +kernel

theorem witness_capability_loads :
    loaded.takes .acc (.cld 4 2 1 1) (0, 0, true) ∧ loaded.cFree [4, 2] ∧
    loaded.capCheck (loaded.c 2) 32 32 [tyCaps] (rightsOf [rLC]) = none ∧ capOffset (loaded.c 2) 32 % 32 = 0 ∧
    loaded.marked (loaded.c 2) 32 32 = false ∧
    ran (readObj (.accessQueue 2) (loaded.c 2) 32 32 false (loaded.advance 1)) (fun g u =>
      g == .bytes (List.replicate 32 0) && u.ctx.stuck == 0 && u.hold .acc == {}) = true := by decide +kernel

/-- `loaded` with the page of object 1 in the holder of its access queue. -/
def translated : State := match readObj (.accessQueue 1) (loaded.c 1) 0 8 true loaded with | .ok _ u => u | .error _ u => u

theorem witness_object_accesses :
    ran (readObj (.accessQueue 1) (loaded.c 1) 0x1FFFF8 8 true loaded) (fun _ _ => true) ∧
    loaded.ctx.job.task = false ∧ (loaded.c 1).type.toNat ≠ tySwin ∧ 0x1FFFF8 % pageSize + 8 ≤ pageSize ∧
    (((translated.holder (.accessQueue 1)).find 1 0).any fun t =>
      t.place 0x1FFFFF == .at 0x13FFFFF && t.place 0x1FFFF8 == .at (0x13FFFFF + 1 - 8)) = true ∧
    translated.quarterGated 0x13FFFF8 = false ∧ translated.follows (translated.c 1) 0x1FFFF8 8 = false ∧
    translated.reach (packageOf 0x13FFFF8) = .ok ∧
    ran ((writeObj (.accessQueue 1) (translated.c 1) 0x1FFFF8 [1, 2, 3, 4, 5, 6, 7, 8]) translated) (fun _ _ => true) ∧
    ran ((writeObj (.accessQueue 1) (translated.c 1) 0 [1]) { translated with ctx.job.task := true }) (fun _ _ => true) := by
  decide +kernel

/-- `loaded` with q[7] from ACC to QNT and q[6] from VEC to ACC, which holds an entry. -/
def queued : State :=
  (loaded.setDataQ 7 { bind := some (.acc, .qnt), entries := List.replicate 3 [] }).setDataQ 6
    { bind := some (.vec, .acc), entries := [List.replicate 2048 7] }

theorem witness_stores :
    loaded.takes .acc (.st 1 1 1 1 3) (0, 0, true) ∧ loaded.xFree [1, 1, 1] ∧ loaded.cFree [1, 1] ∧
    loaded.capCheck (loaded.c 1) 8 8 [tyData, tySwin] (rightsOf [rW]) = none ∧
    loaded.marked (loaded.c 1) (capOffset (loaded.c 1) 8) 8 = false ∧
    ran ((writeObj (.accessQueue 1) (loaded.c 1) 8 (natToBytes 8 8)) (loaded.advance 1)) (fun _ u =>
      u.ctx.stuck == 0 && u.hold .acc == {}) = true ∧
    loaded.takes .acc (.cst 1 2 1 1) (0, 0, true) ∧ loaded.capCheck (loaded.c 2) 32 32 [tyCaps] (rightsOf [rSC]) = none ∧
    loaded.marked (loaded.c 2) 32 32 = false ∧
    ran ((writeObj (.accessQueue 2) (loaded.c 2) 32 (loaded.c 1).bytes) (loaded.advance 1)) (fun _ u =>
      u.ctx.stuck == 0 && u.hold .acc == {}) = true := by decide +kernel

theorem witness_queue_transfers :
    (∀ i ∈ [Instr.ldq 7 1 0 1 1 5, .stq 6 1 0 1 1 5, .ldq 7 1 0 1 0 5, .stq 6 1 0 1 0 5], queued.takes .acc i (0, 0, true)) ∧
    queued.padReady 8 2048 ∧ queued.padBadIn 8 2048 = none ∧ (queued.dataQ 7).bind = some (.acc, .qnt) ∧ (queued.dataQ 7).hasRoom = true ∧
    (queued.dataQ 6).bind = some (.vec, .acc) ∧ (queued.dataQ 6).entries = List.replicate 2048 7 :: [] ∧
    queued.capCheck (queued.c 1) 0 2048 [tyData, tyGwin] (rightsOf [rR]) = none ∧ queued.late = false ∧
    queued.capCheck (queued.c 1) 0 2048 [tyData, tySwin] (rightsOf [rW]) = none ∧
    queued.marked (queued.c 1) 0 2048 = false ∧
    ran (readObj (.accessQueue 1) (queued.c 1) 0 2048 true (queued.advance 1)) (fun g u =>
      (match g with | .bytes b => b.length == 2048 | _ => false) && u.ctx.stuck == 0 && u.hold .acc == {}) = true ∧
    ran ((writeObj (.accessQueue 1) (queued.c 1) 0 (List.replicate 64 7)) (queued.advance 1)) (fun _ u =>
      u.ctx.dq == queued.ctx.dq && u.ctx.stuck == 0 && u.hold .acc == {}) = true := by decide +kernel

theorem witness_prefetch_and_fence :
    (∀ i ∈ [Instr.prf 1 31 1 0, .prf 0 0 0 1, .fence 0, .fence 4], loaded.takes .acc i (0, 0, true)) ∧ loaded.cFree [1, 0] ∧
    loaded.wackCount = 0 ∧ loaded.ctx.acc.loads = [] ∧ loaded.ctx.acc.storeFail = none ∧ loaded.ctx.units.err.get none 2 = none := by
  decide +kernel

/-- The descriptor of an input stream of two blocks of 64 BF16 elements for VEC, at a base; and of the same with MX block
headers for MAT (R189). -/
def descOf (w base hbase : Nat) : Bytes :=
  natToBytes 8 w ++ [64, 2, 1, 1].flatMap (natToBytes 4) ++ [128, 0, 0, base].flatMap (natToBytes 8) ++ natToBytes 8 hbase

/-- Streams s0 (idle) and s1 (running for MAT), descriptors at 0 and in the last 64 bytes of the scratchpad. -/
def streams : State := (({ queued with
  ctx.pad := (Memory.write [] 0 (descOf 0x224 0x1000 0)).write 0x17FFC0 (descOf 0x4384 0x1000 0x2000)
  ctx.acc.x := [(1, 0x17FFC0), (2, 0x200000)] }).setStream 1 { st := .run, desc := { engn := 3 } }).setStream 0
  { dcap := capOn 1 tyData 0, hcap := capOn 1 tyData 0 }

theorem witness_streams :
    (∀ i ∈ [Instr.sbind 15 1 0, .sbind 15 1 1, .sset 0 1 0 1 1, .sset 0 0 0 1 1, .sring 0 0, .sring 7 1, .sstop 1, .sstat 4 1 3,
      .pgdist 7 2 0, .pgdist 7 2 1], streams.takes .acc i (0, 0, true)) ∧ (streams.stream 0).st = .idle ∧ (streams.stream 1).st = .run ∧
    (streams.stream 1).desc.out = false ∧ (streams.stream 1).desc.engn = 3 ∧ streams.ctx.acc.pumps.get none 7 = none ∧
    streams.padReady 0x17FFC0 64 ∧ streams.padBadIn 0x17FFC0 64 = none ∧ streams.pumpAwaits 0 = false ∧
    (streams.x 2).toNat ≤ 0x200000 := by decide +kernel

theorem witness_stream_descriptors (o : Nat) (ho : o = 0 ∨ o = 0x17FFC0) :
    descReserved (streams.ctx.pad.read o 64) = false ∧ (StreamDesc.ofBytes (streams.ctx.pad.read o 64)).bad = false ∧
    streams.spanCheck (StreamDesc.ofBytes (streams.ctx.pad.read o 64)) (streams.stream 0).dcap
      (StreamDesc.ofBytes (streams.ctx.pad.read o 64)).span = none ∧
    ((StreamDesc.ofBytes (streams.ctx.pad.read o 64)).hdr = 0 ∨
      streams.spanCheck (StreamDesc.ofBytes (streams.ctx.pad.read o 64)) (streams.stream 0).hcap
        ((StreamDesc.ofBytes (streams.ctx.pad.read o 64)).hdrSpan 0) = none) := by
  obtain rfl | rfl := ho <;> decide +kernel

/-- A running output stream of ACC to the scratchpad, with 1024 elements of a byte in a block. -/
def outStream : State := queued.setStream 0 { st := .run, desc := { StreamDesc.ofBytes (descOf 0x1 0 0) with engn := 1, fmt := 3, cnt0 := 2048, sp := true } }

/-- Where no sector of a dirty line has become uncorrectable. -/
theorem witness_backed : loaded.backed = true ∧ queued.backed = true ∧ streams.backed = true ∧ live.backed = true := by decide +kernel

theorem witness_stream_output :
    outStream.takes .acc (.sout 0 6) (0, 0, true) ∧ (outStream.stream 0).desc.fmt < 8 ∧
    (outStream.dataQ 6).bind = some (.vec, .acc) ∧ (outStream.dataQ 6).entries = List.replicate 2048 7 :: [] ∧
    ran ((writeStream .acc 0 { bytes := List.replicate 2048 7, hdrs := [] }) (outStream.advance 1)) (fun _ u =>
      u.ctx.dq == outStream.ctx.dq && u.ctx.stuck == 0 && u.hold .acc == {}) = true := by decide +kernel


/-- `objs` with lengths, references and words in x1 to x12, a 2-dimensional descriptor in the last 64 bytes of the
scratchpad, the multicast group 0, the slice 0 granted, and port 3 up towards package 5. -/
def cmds : State := { objs with
  ctx.acc.x := [(1, 0x200000), (2, 0x180000), (3, 0x17FFC0), (4, 0xFFFFFFFF), (5, 64), (6, 0x100000000), (7, 0x100000001),
    (8, 0x1000000), (9, 0x3F800000), (10, 3), (11, 0x17FFF0), (12, 0x8000000F00000003), (13, 0x17F800)]
  ctx.pad := Memory.write [] 0x17FFC0 ([64, 2, 1, 0].flatMap (natToBytes 4) ++ [128, 0, 64, 0, 0, 0].flatMap (natToBytes 8))
  ctx.units.l2mask := 1, ctx.units.l2hi := 0x400000
  units.mcast := [{ table := 0, entry := 0, ranks := [0] }]
  units.link.ports := [(3, { up := true, pkg := 5 })] }

theorem witness_copies :
    cmds.copyRoom = true ∧ cmds.xFree [0, 1, 2] ∧ cmds.cFree [0, 1] ∧
    (∀ i ∈ [Instr.cpy 1 1 1 0 0, .cpy 0 0 2 1 1, .cpy 1 0 2 0 1, .cpy2 1 0 3 0 1, .cpyl2 0 1 1 0 0, .cpyl2 0 0 2 1 1, .mcast 0 1 2 0],
      cmds.takes .acc i (0, 0, true)) ∧
    (cmds.sideArg 0 1).bad cmds = false ∧ (cmds.sideArg 1 0).bad cmds = false ∧ cmds.armsBad true true = false ∧
    (cmds.sideArg 0 1).check cmds 0 0x200000 rCD = none ∧ (cmds.sideArg 0 1).check cmds 0 0x200000 rCS = none ∧
    (cmds.sideArg 1 0).check cmds 0 0x180000 rCS = none ∧ (cmds.sideArg 1 0).check cmds 0 0x180000 rCD = none := by decide +kernel

theorem witness_other_copies :
    cmds.padReady 0x17FFC0 64 ∧ cmds.padBadIn 0x17FFC0 64 = none ∧ desc2Bad (cmds.ctx.pad.read 0x17FFC0 64) = false ∧
    (cmds.sideArg 0 1).check cmds 0 192 rCD = none ∧ patternSpan 0 64 0 64 2 1 = (0, 127) ∧
    l2RefBad (cmds.x 0) = false ∧ cmds.l2Check (cmds.x 0) 0 0x400000 = none ∧ (cmds.mcGroup 0).isSome = true ∧
    ((cmds.x 0).extractLsb' 40 24 = 0 ∧ (cmds.x 0).extractLsb' 21 11 = 0) ∧ padRange 0 0x180000 = none := by decide +kernel

theorem witness_copy_class :
    (∀ i ∈ [Instr.wmark, .swarm 0 1, .swarm 11 0, .chain 1 1 1, .gwin 5 1 6 1, .gwin 6 1 7 1, .gwin 5 1 0 1, .scrub 0 1 8 , .migr 1 10],
      cmds.takes .acc i (0, 0, true)) ∧ cmds.ownRefBad (cmds.x 11) = false ∧ refOff (cmds.x 11) + 16 = 0x180000 ∧
    cmds.cFree [1, 5, 6] ∧ cmds.ctx.units.wmark = false ∧ cmds.ctx.units.swarm = none ∧ cmds.ctx.seq.sup = true ∧
    cmds.capKind (cmds.c 1) [tyData] [rR, rW] = none ∧ cmds.capKind (cmds.c 1) [tyData] [rCS] = none ∧
    cmds.capKind (cmds.c 1) [tyData] [rCD] = none ∧ (cmds.x 6).extractLsb' 2 30 = 0 ∧ (cmds.x 7).extractLsb' 2 30 = 0 := by decide +kernel

theorem witness_windows :
    cmds.capKind (cmds.c 5) [tyGwin, tySwin] [rCD] = none ∧ cmds.capKind (cmds.c 6) [tyGwin, tySwin] [rCD] = none ∧
    cmds.capCheck (cmds.c 1) 0 4 [tyData] (rightsOf [rR]) = none ∧ cmds.windowShort (cmds.c 5) 1 = none ∧
    cmds.windowShort (cmds.c 6) 2 = none ∧
    (let s := cmds.setX 8 0x200000
     s.takes .acc (.scrub 0 1 8) (0, 0, true) ∧ s.capCheck (s.c 1) 0 0x200000 [tyData] (rightsOf [rCS, rCD]) = none ∧
     refOff (s.x 0) + 16 + (0x200000 + 255) / 256 ≤ 0x180000) ∧
    ((cmds.x 10).extractLsb' 62 2).toNat < 2 ∧ (cmds.x 10).extractLsb' 31 31 = 0 ∧ cmds.capKind (cmds.c 1) [tyData] [] = none ∧
    (cmds.objEntry 1 1).any (fun e => e.type == tyData && decide (0 < e.length)) = true := by decide +kernel

theorem witness_atomics :
    (∀ i ∈ [Instr.atom 0 1 5 0 1 0, .atom 0 1 5 0 0 6, .atom 2 1 5 1 1 7, .atom 31 1 5 1 0 7, .atomf 0 1 5 0, .atomf 31 1 5 1],
      cmds.takes .acc i (0, 0, true)) ∧ cmds.xFree [0, 2, 31, 5] ∧ cmds.cFree [1] ∧ cmds.ctx.acc.loads = [] ∧
    cmds.capCheck (cmds.c 1) 0 8 [tyData] (rightsOf [rAT]) = none ∧ cmds.capCheck (cmds.c 1) 0 4 [tyData] (rightsOf [rAT]) = none ∧
    cmds.watermarked (objOf (cmds.c 1)) 0 8 = false ∧ cmds.watermarked (objOf (cmds.c 1)) 0 2048 = false ∧
    (let s := cmds.setDataQ 7 { bind := some (.vec, .acc), entries := [List.replicate 2048 7] }
     s.takes .acc (.atomfQ 1 7) (0, 0, true) ∧ s.capCheck (s.c 1) 0 2048 [tyData] (rightsOf [rAT]) = none ∧
     (s.dataQ 7).bind = some (.vec, .acc)) := by decide +kernel

/-- `cmds` whose die has the records of its synchronisation objects at 0x400000: the object 3 is valid, of address space 1,
with one region and a scope; x14 is its handle, and x15 that of object 0, which is not valid. -/
def meetable : State := { cmds with
  host.syncBase := [(0, 0x400000)]
  mem := tables.write 0x4000C0 ([0x8000000200010001, 0, 1, 0, 0x100].flatMap (natToBytes 8))
  ctx.acc.x := [(5, 64), (11, 0x17FFF0), (14, 3)], ctx.units.tl := [(0, { issued := 5, counter := 4 })] }

/-- The object 3 is held by the job itself; or exclusively by another. -/
def holding : State := { meetable with ctx.units.holds := [{ handle := 3, excl := true }] }
def heldElsewhere : State := meetable.setObj (0, 0, 3) { holds := [{ who := .ctx 9 0, excl := true }] }

theorem witness_synchronisation :
    (∀ i ∈ [Instr.bind 14 1 5 0 0, .bind 14 1 5 1 4, .acq 14 0, .acq 14 1, .tryacq 31 14 0, .tryacq 0 14 1, .tlget 31 1 0, .tlget 31 0 3,
      .tlarm 3 14 11 1, .tlarm 0 14 3 0, .tlarm 0 14 0 2, .tlarm 0 14 0 3, .tlarm 0 0 0 4], meetable.takes .acc i (0, 0, true)) ∧
    meetable.ctx.status = .live ∧ meetable.xFree [14, 5, 31] ∧ handleBad (meetable.x 14) = false ∧ meetable.ctx.units.holds = [] ∧
    handleKey (meetable.x 14) = (0, 0, 3) ∧ meetable.reach 0 = .ok ∧ meetable.objFault 3 1 = none ∧
    meetable.bindPending (0, 0, 3) = false ∧ meetable.askAt meetable.fetchPoint = none ∧ (meetable.obj (0, 0, 3)).waiters = [] ∧
    meetable.ctx.job.code.asid.toNat = 1 := by decide +kernel

theorem witness_synchronisation_objects :
    (meetable.obj (0, 0, 3)).open true = true ∧ (meetable.obj (0, 0, 3)).open false = true ∧
    meetable.recRegions (0, 0, 3) = [(1, 0, 0x100)] ∧
    heldElsewhere.takes .acc (.tryacq 31 14 1) (0, 0, true) ∧ (heldElsewhere.obj (0, 0, 3)).open false = false ∧
    heldElsewhere.objFault 3 1 = none ∧
    holding.takes .acc (.rel 14) (0, 0, true) ∧ holdsKey holding.ctx.units.holds (0, 0, 3) = true ∧
    meetable.capCheck (meetable.c 1) 0 64 [tyData] (rightsOf [rR]) = none ∧ (0x17FFF0 : Nat) % 16 = 0 := by decide +kernel

/-- `cmds` with a send slot ls0 and a receive slot ls1 on port 3. -/
def linked : State := { cmds with
  ctx.units.slots := [(0, some (.ofWords 0x0000000800000003 0x0000140000000007 1)), (1, some (.ofWords 0x8000000000000003 0x0000140000000007 1))]
  ctx.acc.x := [(1, 0x0000000800000003), (2, 0x0000140000000007), (3, 0x8000000000000003), (5, 64), (6, 0x3000000010), (7, 0x7700000001)] }

theorem witness_links :
    (∀ i ∈ [Instr.lslot 2 0 0 1, .lslot 15 1 2 0, .lslot 15 3 2 0, .lsend 0 1 5 0, .lsend 0 0 5 1, .lrecv 1 1 5 0, .lrecv 1 0 5 1, .lradd 1 0 6,
      .lradd 1 0 7], linked.takes .acc i (0, 0, true)) ∧ linked.xFree [0, 1, 2, 3, 5, 6, 7] ∧ linked.cFree [1] ∧
    linked.slotBusy 1 15 = false ∧ slotBad (linked.x 1) (linked.x 2) = false ∧ slotBad (linked.x 3) (linked.x 2) = false ∧
    (linked.port 3).up = true ∧ (linked.port 3).pkg = (LinkSlot.ofWords (linked.x 1) (linked.x 2) 1).pkg ∧
    (let s := { linked with ctx.units.slots := [] }
     s.takes .acc (.lslot 15 1 2 0) (0, 0, true) ∧
     (s.registered.any fun r => !(r.uid == s.ctx.job.uid && r.slot == 15) && (LinkSlot.ofWords (s.x 1) (s.x 2) 1).clashes r.ls) = false) := by
  decide +kernel

theorem witness_link_transfers :
    (linked.ctx.units.slots.get none 0).map (·.recv) = some false ∧ (linked.ctx.units.slots.get none 1).map (·.recv) = some true ∧
    (linked.sideArg 0 1).check linked 0 64 rCS = none ∧ (linked.sideArg 1 0).check linked 0 64 rCS = none ∧
    (linked.sideArg 0 1).check linked 0 64 rCD = none ∧ linked.ownRefBad (linked.x 0) = false ∧ (linked.x 6).extractLsb' 40 24 = 0 ∧
    ((linked.x 6).extractLsb' 32 4).toNat = 0 ∧ ((linked.x 6).extractLsb' 36 4).toNat = 3 ∧
    ((linked.x 7).extractLsb' 32 4).toNat = 7 ∧ ((linked.x 7).extractLsb' 36 4).toNat = 7 := by decide +kernel

/-- `cmds` with a remap object of 8 positions in one page, whose positions are 3, 5 and 8 to 13. -/
def remapped : State := { cmds with
  mem := ((tables.write 0x1600008 (natToBytes 4 8)).write 0x1600018 [1, 0]).write 0x1600048 ([3, 5, 8, 9, 10, 11, 12, 13].flatMap (natToBytes 4))
  ctx.acc.x := [(1, 8), (2, 3), (9, 0x3F8000003F800000), (13, 0x17F800), (11, 0x17FFF0)] }

theorem witness_special_units :
    (∀ i ∈ [Instr.evict 1 3 9 0, .evict 1 3 9 1, .rmap 4 3 1 0, .rmap 4 3 2 0, .eqpost 0 4 2 0, .eqpost 11 4 2 1, .eqrel 4 2, .eqcut 4 2,
      .eqpeek 13 4 0, .spill 1 2, .fill 1 2], remapped.takes .acc i (0, 0, true)) ∧ remapped.xFree [4, 1, 2] ∧ remapped.cFree [1, 3, 4] ∧
    remapped.capCheck (remapped.c 1) 0 1 [tyData] (rightsOf [rR, rW]) = none ∧
    remapped.capCheck (remapped.c 3) 0 64 [tyRemap] (rightsOf [rR, rW]) = none ∧ evictBad false (remapped.x 9) = false ∧
    evictBad true (remapped.x 9) = false ∧ ((remapped.cmdsOf 1).filter fun c => c.cls == 3).length < maxTl3 ∧
    remapped.ctx.acc.loads.length < 32 ∧ remapped.late = false ∧ remapped.marked (remapped.c 3) 0 64 = false ∧
    (remapped.x 2).toNat < 8 ∧ 8 ≤ (remapped.x 1).toNat := by decide +kernel

theorem remapSees_of {s : State} {c : Cap} {off n v : Nat}
    (p : s.capCheck c off n [tyRemap] (rightsOf [rR]) = none ∧ s.follows c (capOffset c off) n = false)
    (q : (match s.readOwn c (capOffset c off) n with
      | .bytes b => bytesToNat b == v
      | _ => false) = true) : s.remapSees c off n v := by
  refine ⟨p.1, p.2, ?_⟩
  split at q
  · next b hb => exact ⟨b, hb, by simpa using q⟩
  · cases q

theorem witness_remap :
    remapped.lies (.accessQueue 3) (remapped.c 3) (capOffset (remapped.c 3) 0) 64 0x1600000 ∧
    remapped.remapSees (remapped.c 3) 8 4 8 ∧ remapped.remapSees (remapped.c 3) 0x18 2 1 ∧
    remapped.remapSees (remapped.c 3) (0x40 + 8 * (1 % 2 ^ 13) + 4 * 3) 4 9 ∧ remapped.remapSees (remapped.c 3) (0x40 + 8 * (1 % 2 ^ 13) + 4 * 7) 4 13 :=
  ⟨lies_by_walk (by decide +kernel) (by decide +kernel), remapSees_of (by decide +kernel) (by decide +kernel),
    remapSees_of (by decide +kernel) (by decide +kernel), remapSees_of (by decide +kernel) (by decide +kernel),
    remapSees_of (by decide +kernel) (by decide +kernel)⟩

theorem witness_remap_of_nothing :
    cmds.remapSees (cmds.c 3) 8 4 0 ∧ cmds.remapSees (cmds.c 3) 0x18 2 0 ∧ cmds.takes .acc (.rmap 4 3 0 1) (0, 0, true) :=
  ⟨remapSees_of (by decide +kernel) (by decide +kernel), remapSees_of (by decide +kernel) (by decide +kernel), by decide +kernel⟩

theorem witness_egress :
    (match remapped.walk (remapped.c 4) 0 with | .ok _ => true | .error _ => false) = true ∧
    remapped.capCheck (remapped.c 4) 0 1 [tyEgress] (rightsOf [rW]) = none ∧
    remapped.capCheck (remapped.c 4) 0 1 [tyEgress] (rightsOf [rAT]) = none ∧
    remapped.capCheck (remapped.c 4) 0 1 [tyEgress] (rightsOf [rR]) = none ∧ remapped.ownRefBad (remapped.x 11) = false ∧
    refOff (remapped.x 11) + 16 = 0x180000 ∧ (remapped.x 2).extractLsb' 0 32 ≠ BitVec.allOnes 32 ∧
    refOff (remapped.x 13) + 2048 = 0x180000 ∧ remapped.padReady 0x17F800 2048 ∧
    remapped.eqBehind 1 remapped.units.nextCmd 0 = false := by decide +kernel

/-- `cmds` whose first two objects have 4 MiB. -/
def wide : State := { cmds with
  mem := (tables.write (loadTable + 32) (natToBytes 8 (2 ^ 63 + 2 ^ 48 * tyData + 2 * pageSize))).write (loadList + 0x108) (natToBytes 8 20)
  ctx.acc.c := [(1, { capOn 1 tyData 0 with upper := 0x400000 })], ctx.acc.x := [(2, 0x100)] }

theorem witness_spill_and_fill :
    wide.takes .acc (.spill 1 2) (0, 0, true) ∧ wide.takes .acc (.fill 1 2) (0, 0, true) ∧ wide.ctx.seq.sup = true ∧
    bankWordBad (wide.x 2) = false ∧ bankOfWord wide.cur.die (wide.x 2) ≠ wide.cur ∧ (wide.c 1).cursor.toNat % 4096 = 0 ∧
    wide.capCheck (wide.c 1) 0 0x301000 [tyData] (rightsOf [rW, rCD]) = none ∧
    wide.capCheck (wide.c 1) 0 0x301000 [tyData] (rightsOf [rR, rCS]) = none := by decide +kernel


/-- Fields of a VB instruction on the block of the last two rows of the grid, with a broadcast k15 as its second source. -/
def vb2 (fn : BitVec 4) : VB := { d := 48, a := 48, b := 15, h := 1, w := 7, ka := 0, kb := 3, kd := 0, c := 0, kc := 0, m := 7, fn := fn }
def vb1 (fn : BitVec 4) : VB := { vb2 fn with b := 0, kb := 0 }
def vb3 (fn : BitVec 4) : VB := { vb2 fn with c := 48 }
/-- One register, a mask destination, and masks as sources. -/
def vbm (fn : BitVec 4) : VB := { d := 7, a := 7, b := 1, h := 0, w := 0, ka := 0, kb := 0, kd := 0, c := 0, kc := 0, m := 3, fn := fn }

theorem witness_vec_floating :
    live.vecReady ∧ fixedSrc 0 ∧ fixedSrc 3 ∧
    (∀ i ∈ [2#4, 1, 0].flatMap fun t => [Instr.fadd (vb2 t), .fsub (vb2 t), .fmul (vb2 t), .ffma (vb3 t), .frcp (vb1 t), .frsq (vb1 t),
      .fexp2 (vb1 t), .flog2 (vb1 t), .ftanh (vb1 t)], live.takes .vec i (0, 0, true)) ∧
    (∀ i ∈ [Instr.fadd (vb2 2), .ffma (vb3 1), .ftanh (vb1 0)], (prefixed 2 4 1).takes .vec i (4, 1, true)) := by decide +kernel

theorem witness_vec_lanes :
    (∀ i ∈ [Instr.fmin (vb2 2), .fmax (vb2 0), .fabs (vb1 1), .fneg (vb1 2), .iadd (vb2 1), .isub (vb2 0), .imul (vb2 3), .imul (vb2 0),
      .imad (vb3 1), .imin (vb2 1), .imax (vb2 0), .vecAnd (vb2 0), .vecOr (vb2 0), .vecXor (vb2 0), .vecShl (vb2 0), .vecShr (vb2 0),
      .vecSra (vb2 0), .fshl (vb3 0), .fshr (vb3 0), .vecPopc (vb1 0), .vecClz (vb1 0), .mov (vb1 0), .mov { vb1 0 with a := 15, ka := 3 },
      .sel { vb2 0 with c := 7 }, .bcst { vb1 0 with c := 15, kc := 3 }, .perm (vb2 0), .rot { vb1 0 with c := 15, kc := 3 },
      .fcmp (vb2 8), .fcmp (vb2 15), .icmp (vb2 8), .icmp (vb2 13)], live.takes .vec i (0, 0, true)) ∧
    (live.kreg 15).toNat < 512 := by decide +kernel

theorem witness_vec_masks :
    (∀ i ∈ [Instr.lop3 { d := 0, a := 63, b := 15, h := 0, w := 0, ka := 0, kb := 3, kd := 0, c := 63, tt := 0x96 },
      .fcmp { vbm 0 with b := 15, kb := 3 }, .fcmp (vbm 7), .icmp (vbm 5), .mset { vbm 0 with b := 0 }, .mset (vbm 1), .mset (vbm 2), .mset (vbm 3), .mset (vbm 4),
      .mset { vbm 5 with b := 0 }, .mset { vbm 6 with a := 0, b := 0, c := 15, kc := 3 }], live.takes .vec i (0, 0, true)) ∧
    (let s := { live with ctx.bq.producer := some .vec, ctx.bq.bits := List.replicate 15 true }
     s.ctx.bq.bits.length < 16 ∧ ∀ i ∈ [Instr.vcmpb { vbm 0 with d := 0, b := 0 }, .vcmpb { vbm 1 with d := 0, b := 0 },
       .vcmpb { vbm 2 with d := 0, b := 0 }], s.takes .vec i (0, 0, true)) := by decide +kernel

theorem witness_vec_reductions :
    (∀ i ∈ [Instr.cvt (vb1 0), .cvt (vb1 2), .cvt (vb1 3), .cvt (vb2 4), .cvt (vb2 5), .cvt (vb1 9), .rsum { vb1 0 with c := 7 }, .rsum { vb1 1 with c := 7 },
      .rmax { vb1 0 with c := 7 }, .rmax { vb1 1 with c := 7 }, .rmax { vb1 3 with c := 7 }, .rmin { vb1 0 with c := 7 },
      .scan { vb1 0 with c := 7 }, .scan { vb1 1 with c := 7 }, .scan { vb1 2 with c := 7 }, .scan { vb1 3 with c := 7 }],
      live.takes .vec i (0, 0, true)) := by decide +kernel

/-- LDT of one or of eight registers, with the least and the greatest delay. -/
def ldtOf (fn : BitVec 4) (h : BitVec 3) (dly : BitVec 8) (a : BitVec 6) : Ldt :=
  { d := 7, a := a, b := 0, h := h, w := 0, ka := if fn = 2 then 1 else 3, kb := 0, kd := 0, dly := dly, m := 7, fn := fn }

/-- A running input stream of eight blocks of 512 FP32 elements for VEC, of which one is filled. -/
def filled : Stream :=
  { st := .run, buf := [{ bytes := List.replicate 2048 1 }]
    desc := { StreamDesc.ofBytes (natToBytes 64 0) with engn := 2, fmt := 0, cnt0 := 512, cnt1 := 8, cnt2 := 1, cnt3 := 1 } }

/-- The last eight blocks of the scratchpad in k0, the last in k15, a granted slice, and the filled stream. -/
def landings : State := { live with
  ctx.seq.k := [(0, 0x17C000), (15, 0x17F800)], ctx.units.l2mask := 1, ctx.units.l2hi := 0x4000, ctx.acc.s := [(0, filled)] }

theorem witness_landings :
    landings.vecReady ∧ landings.late = false ∧
    (∀ i ∈ [Instr.ldt (ldtOf 0 7 4 0), .ldt (ldtOf 0 0 255 15), .ldt (ldtOf 1 7 4 2), .ldt (ldtOf 1 0 255 14), .ldt (ldtOf 2 0 4 0)],
      landings.takes .vec i (0, 0, true)) ∧
    landings.ownRefBad 0x17C000 = false ∧ refOff 0x17C000 + 2048 * 8 = 0x180000 ∧ landings.padReady 0x17C000 (2048 * 8) ∧
    landings.padBadIn 0x17C000 (2048 * 8) = none ∧ l2RefBad 0 = false ∧ landings.l2Check 0 0 (2048 * 8) = none ∧
    (landings.stream 0).st = .run ∧ (landings.stream 0).desc.engn = 2 ∧ (landings.stream 0).done + 1 ≤ (landings.stream 0).desc.blocks ∧
    (landings.stream 0).buf.length = 1 := by decide +kernel

theorem witness_vec_queues :
    (let s := (live.setDataQ 1 { bind := some (.mat, .vec), entries := [List.replicate 2048 1] }).setDataQ 2 { bind := some (.vec, .mat) }
     let o := { vb1 0 with d := 2, a := 1, h := 0, w := 0, ka := 2, kd := 2 }
     s.vecReady ∧ (s.dataQ 1).bind = some (.mat, .vec) ∧ (s.dataQ 2).bind = some (.vec, .mat) ∧ (s.dataQ 2).hasRoom = true ∧
     (s.dataQ 1).entries = List.replicate 2048 1 :: [] ∧ s.takes .vec (.mov o) (0, 0, true) ∧
     (∀ i ∈ [Instr.vecAnd { o with b := 63 }, .perm { o with b := 15, kb := 3 }], s.takes .vec i (0, 0, true))) := by decide +kernel


/-- A slot of a ring that was filled from object 1 behind the record of its page. -/
def keySlot : RingSlot := { fmt := 2, sp := false, cap := capOn 1 tyData 0, origin := 0x400 }

/-- `meetable` whose object 1 starts with the record of a page with three live tokens; handle 3 in k0 and k1; the
accumulators 0 (BF16, 32 × 32 × 32) and 1 (INT8), with tiles in the rings 0 (BF16) and 2 (INT8) of 32 rows, 1 (BF16) of 64
rows, and 3 (FP32) of 2 rows of 128; q[1] from MAT to VEC, and a running output stream s0 of MAT. -/
def mats : State := { meetable with
  late := true
  mem := meetable.mem.write 0x1200000 [3], ctx.seq.k := [(0, 3), (15, 0x3F800000)]
  ctx.mat.acc := [(0, MatAcc.ofShape 0 2 2 31 31 0 0 0), (1, MatAcc.ofShape 0 5 5 31 31 0 0 0)]
  ctx.mat.rings := [(0, { defined := true, fmt := 2, base := 0, slots := 2, rows := 32, kb := 1, filled := [keySlot, keySlot] }),
    (1, { defined := true, fmt := 2, base := 2, slots := 1, rows := 64, kb := 1, filled := [keySlot] }),
    (2, { defined := true, fmt := 5, base := 4, slots := 1, rows := 32, kb := 1, filled := [{ keySlot with fmt := 5 }] }),
    (3, { defined := true, fmt := 0, base := 5, slots := 1, rows := 2, kb := 4, filled := [{ keySlot with fmt := 0 }] })]
  ctx.dq := [(1, { bind := some (.mat, .vec) })]
  ctx.acc.s := [(0, { st := .run, desc := { StreamDesc.ofBytes (natToBytes 64 0) with out := true, engn := 3, fmt := 2, cnt0 := 1024, cnt1 := 4, cnt2 := 1, cnt3 := 1 } })] }

theorem witness_mat_shapes :
    (∀ i ∈ [Instr.shape 3 1 9 8 127 127 7 15 14, .shape 0 0 2 2 0 0 0 0 0, .ringdef 7 0 9 700 0 255 7, .ringdef 7 1 0 0 0 0 0, .ringdef 4 0 2 6 15 63 0, .mzero 0,
      .mscl 0 0 15, .mscl 1 0 15, .mscl 0 1 0, .mdrain 0 1 0 17, .mdrain 0 0 1 0, .mdrain 1 0 3 17, .rowst 0 0 0 0 17, .mstat 1 17, .mstat 0 17, .rskip 0 0,
      .rskip 0 1], mats.takes .mat i (0, 0, true)) ∧
    (∀ i ∈ [Instr.mscl 0 1 0, .mdrain 0 1 2 17], (prefixed 3 4 1).takes .mat i (4, 1, true)) ∧
    (mats.ring 7).defined = false ∧ (mats.mat 0).valid = true ∧ (mats.mat 1).valid = true ∧ (mats.mat 0).int = false ∧ (mats.mat 1).int = true ∧
    (mats.ring 0).filled.length = 2 := by decide +kernel

theorem accepts_queue {s : State} {e x : Engine} {q n : Nat} {f : List Nat}
    (h : (s.dataQ q).bind = some (e, x) ∧ (s.dataQ q).reserved = [] ∧ (s.dataQ q).entries.length + n ≤ 4) : s.accepts e (.queue q) f n :=
  ⟨⟨x, h.1⟩, h.2⟩

theorem accepts_stream {s : State} {e : Engine} {i n : Nat} {f : List Nat}
    (h : (s.stream i).st = .run ∧ (s.stream i).desc.out = true ∧ (s.stream i).desc.engn = e.code ∧ (s.stream i).desc.fmt ∈ f ∧
      (s.stream i).done + n ≤ (s.stream i).desc.blocks ∧ (s.stream i).buf.length + n ≤ 4 ∧ (s.stream i).drainFault = none ∧
      s.ctx.job.task = false ∧ (s.late = true ∧ (s.stream i).desc.sp = false ∨ n ≤ 1)) : s.accepts e (.stream i) f n := h

theorem supplies_queue {s : State} {e x : Engine} {q : Nat} {f : List Nat} {l : List Block}
    (h : (s.dataQ q).bind = some (x, e) ∧ (s.dataQ q).entries.take l.length = l.map (·.bytes) ∧ l.length ≤ (s.dataQ q).entries.length ∧
      ∀ b ∈ l, b.hdrs = []) : s.supplies e (.queue q) f l :=
  ⟨⟨x, h.1⟩, h.2⟩

theorem witness_mat_outputs :
    mats.accepts .mat (outDest 17) [0] 4 ∧ mats.accepts .mat (outDest 17) [7] 2 ∧ mats.accepts .mat (outDest 0) [2] 4 ∧
    (toBlocks (numberBytes 4 ((mats.mat 0).elems.map (·.toNat)))).length = 2 ∧
    ∀ j < 8, (mats.ring j).defined = true →
      ({ defined := true, fmt := 2, base := 6, slots := 16, rows := 64, kb := 1 } : TileRing).overlaps (mats.ring j) = false := by
  refine ⟨accepts_queue (x := .vec) (q := 1) (by decide +kernel), accepts_queue (x := .vec) (q := 1) (by decide +kernel), ?_, ?_, ?_⟩
  · exact accepts_stream (i := 0) (by decide +kernel)
  · decide +kernel
  · decide +kernel

theorem witness_mat_products :
    (∀ i ∈ [Instr.mma 0 0 0 1 0 1, .mma 0 0 0 0 1 0, .mma 1 2 2 1 1 1, .mmat 0 0 0 1 0 1, .mmat 1 2 2 0 0 0, .madd 0 0 1, .rowst 0 3 1 1 0],
      mats.takes .mat i (0, 0, true)) ∧
    (prefixed 3 4 1).takes .mat (.mma 0 0 0 1 0 1) (4, 1, true) ∧
    (mats.tile 0).corrupt 0 = none ∧ (mats.tile 2).corrupt 2 = none ∧ (mats.mat 0).m = 32 ∧ (mats.mat 1).m = 32 := by decide +kernel

theorem witness_mat_tiles :
    mats.tileReady 0 [2] 32 32 ∧ mats.tileReady 2 [5] 32 32 ∧ mats.tileReady 0 [0, 2] 32 32 ∧ mats.tileReady 3 [0] 2 128 ∧
    mats.tileReady 1 [2] 64 32 := by decide +kernel

theorem witness_attention :
    (∀ i ∈ [Instr.atts 0 0 1 0 0 0 15 0, .atts 0 0 1 1 1 1 15 0, .attm 0 0 1 0 0 15 0], mats.takes .mat i (0, 0, true)) ∧
    (mats.mat 0).attends = true ∧ mats.attentionFree 3 ∧ (mats.mat 0).sbv = false ∧ (mats.ring 1).filled.head? = some keySlot ∧
    ({ mats with ctx.mat.acc := [(0, { MatAcc.ofShape 0 2 2 31 31 0 0 0 with sbv := true })] }).takes .mat (.attv 0 1 1 0) (0, 0, true) := by
  decide +kernel

theorem witness_attention_record (rights : List Nat) (hr : rights = [rR] ∨ rights = [rR, rAT]) :
    mats.recordLive keySlot rights 3 ∧ State.recordLive { mats with mem := meetable.mem } keySlot rights 0 := by
  obtain rfl | rfl := hr
  · exact ⟨⟨by decide +kernel, by decide +kernel, by decide +kernel, by decide +kernel, by decide +kernel, by decide +kernel, [3, 0, 0, 0], by decide +kernel,
      by decide +kernel⟩, by decide +kernel, by decide +kernel, by decide +kernel, by decide +kernel, by decide +kernel, by decide +kernel, [0, 0, 0, 0],
      by decide +kernel, by decide +kernel⟩
  · exact ⟨⟨by decide +kernel, by decide +kernel, by decide +kernel, by decide +kernel, by decide +kernel, by decide +kernel, [3, 0, 0, 0], by decide +kernel,
      by decide +kernel⟩, by decide +kernel, by decide +kernel, by decide +kernel, by decide +kernel, by decide +kernel, by decide +kernel, [0, 0, 0, 0],
      by decide +kernel, by decide +kernel⟩


theorem gives_y {s : State} {f : BitVec 5} {fmts : List Nat} {l : List Bytes} (hf : f.toNat < 16)
    (h : ∀ i < l.length, l[i]? = some (s.yreg (f.toNat + i)) ∧ s.ctx.idx.bad.contains (f.toNat + i) = false) : s.idxGives f fmts l := by
  unfold State.idxGives
  rw [if_pos hf]
  exact h

theorem gives_queue {s : State} {f : BitVec 5} {fmts : List Nat} {b : Bytes} {x : Engine} (q : Nat) (hf : ¬ f.toNat < 16)
    (hq : idxDest f = .queue q) (h : (s.dataQ q).bind = some (x, .idx) ∧ (s.dataQ q).entries.take 1 = [b] ∧ 1 ≤ (s.dataQ q).entries.length) :
    s.idxGives f fmts [b] := by
  unfold State.idxGives
  rw [if_neg hf, hq]
  exact ⟨[{ bytes := b }], rfl, supplies_queue ⟨h.1, h.2.1, h.2.2, by simp⟩⟩

theorem room_queue {s : State} {f : BitVec 5} {fmts : List Nat} {x : Engine} {n : Nat} (q : Nat) (hq : idxDest f = .queue q)
    (h : (s.dataQ q).bind = some (.idx, x) ∧ (s.dataQ q).reserved = [] ∧ (s.dataQ q).entries.length + n ≤ 4) : s.idxRoom f fmts n := by
  intro _
  rw [hq]
  exact accepts_queue h

/-- IDX with q[1] and q[2] as sources, of ascending lists, q[3] as its destination, rows of 32 FP32 elements in buckets. -/
def idxs : State := { live with
  ctx.idx := { IdxSt.bucketed { live.ctx.idx with rc := 4, sig := [(1, 5)] } with bv := true, repv := true, repbuf := [List.replicate 128 1, List.replicate 128 2], repidx := [0, 1], nb := 2 }
  ctx.seq.k := [(0, 512), (1, 1)], ctx.bq.producer := some .idx
  ctx.dq := [(1, { bind := some (.vec, .idx), entries := [numberBytes 4 (padTo 512 0xFFFFFFFF [1, 3, 5])] }),
    (2, { bind := some (.vec, .idx), entries := [numberBytes 4 (padTo 512 0xFFFFFFFF [3, 4])] }), (3, { bind := some (.idx, .acc) })] }

theorem witness_signatures :
    (∀ i ∈ [Instr.sigcfg 1 15 0 15 31, .sigcfg 0 0 15 0 0, .sigh 0 0, .sigh 15 11, .bkt, .repsel 15 2, .repsel 0 0, .repgat 15, .repgat 19, .repscat 14 13 0 0,
      .repscat 19 0 1 0, .memb 0 17 2, .memb 19 0 0, .memb 15 0 1, .memba 14 13 0 0, .memba 19 0 1 0], idxs.takes .idx i (0, 0, true)) ∧
    idxs.ctx.idx.bv = true ∧ idxs.ctx.idx.repv = true ∧ idxs.ctx.idx.repbuf.length = idxs.ctx.idx.nb ∧
    0 + 1 ≤ rowsPer idxs.ctx.idx.w idxs.ctx.idx.rowf ∧ idxs.ctx.idx.rc + 12 ≤ 1024 ∧ rowBlocks idxs.ctx.idx.w idxs.ctx.idx.rowf idxs.ctx.idx.rc = 1 ∧
    rowBlocks 32 true idxs.ctx.idx.nb = 1 ∧ (packRows 32 false (idxs.ctx.idx.repbuf.take 2)).length = 1 := by decide +kernel

theorem witness_index_operands :
    idxs.idxGives 0 [0] [idxs.yreg 0] ∧ idxs.idxGives 15 [2] [idxs.yreg 15] ∧ idxs.idxRoom 19 [0] 4 ∧ idxs.idxRoom 15 [0] 1 ∧
    idxs.idxGives 17 [0] [numberBytes 4 (padTo 512 0xFFFFFFFF [1, 3, 5])] ∧
    idxs.idxGives 18 [0] [numberBytes 4 (padTo 512 0xFFFFFFFF [3, 4])] :=
  ⟨gives_y (by decide) (by decide +kernel), gives_y (by decide) (by decide +kernel),
    room_queue (x := .acc) 3 (by decide) (by decide +kernel), fun h => absurd h (by decide),
    gives_queue (x := .vec) 1 (by decide) (by decide) (by decide +kernel), gives_queue (x := .vec) 2 (by decide) (by decide) (by decide +kernel)⟩

theorem witness_membership : badEntry ((numbersOf 2 1024 (idxs.yreg 0)).takeWhile (· != 0xFFFF)) 0 0 = none := by decide +kernel

theorem witness_bitmaps :
    (∀ i ∈ [Instr.ixld 15 17, .ixst 19 15, .ixmov 15 0 0, .ixmov 15 0 2, .bmand 19 0 17, .bmor 15 15 15, .bmpfx 19 15, .ixcnt 19 17 0, .ixcnt 15 0 1,
      .ixcnt 0 0 2, .ixcnt 0 1 2, .ixcnt 0 17 3, .spdot 19 13 0 0, .spdot 15 0 13 2, .isect 19 17 18, .union 19 18 17], idxs.takes .idx i (0, 0, true)) ∧
    (idxs.kreg 0).toNat = 512 ∧ 1 ≤ (idxs.kreg 1).toNat ∧ idxs.ctx.bq.producer = some .idx ∧ idxs.ctx.bq.bits = [] ∧
    apart 0 17 ∧ apart 15 15 ∧ apart 19 17 ∧ idxs.ctx.idx.bad = [] ∧
    ({ idxs with ctx.idx.nw := 8 }).ctx.idx.nw = 8 ∧
    (match spWords 0 { bits := wordsOf (idxs.yreg 0), offs := wordsOf (idxs.yreg 1), data := idxs.yreg 2 }
      { bits := wordsOf (idxs.yreg 0), offs := wordsOf (idxs.yreg 1), data := idxs.yreg 2 } 8 0 {} with | .ok _ => true | .error _ => false) = true := by decide +kernel

theorem witness_merges :
    wordsOf (numberBytes 4 (padTo 512 0xFFFFFFFF [1, 3, 5])) = padTo 512 0xFFFFFFFF [1, 3, 5] ∧
    wordsOf (numberBytes 4 (padTo 512 0xFFFFFFFF [3, 4])) = padTo 512 0xFFFFFFFF [3, 4] ∧
    ([1, 3, 5] : List Nat).Pairwise (· < ·) ∧ ([3, 4] : List Nat).Pairwise (· < ·) ∧ ([1, 3, 4, 5] : List Nat).Pairwise (· < ·) ∧
    (∀ y < 8, y ∈ [3] ↔ y ∈ [1, 3, 5] ∧ y ∈ [3, 4]) ∧ (∀ y < 8, y ∈ [1, 3, 4, 5] ↔ y ∈ [1, 3, 5] ∨ y ∈ [3, 4]) := by decide +kernel

/-- QNT with q[1] as its source and q[2] as its destination, s0 an input stream of SBF4 blocks and s1 an output stream of such. -/
def qnts : State := { live with
  ctx.qnt := { live.ctx.qnt with selmask := 0xF7, tables := live.ctx.qnt.tables }
  ctx.seq.k := [(0, 0x3F800000)]
  ctx.dq := [(1, { bind := some (.vec, .qnt), entries := List.replicate 3 (List.replicate 2048 0) }), (2, { bind := some (.qnt, .vec) })]
  ctx.acc.s := [
    (0, { st := .run, buf := [{ bytes := List.replicate 2048 0, hdrs := (List.replicate 128 (headerOf false 0 0)).flatten }], desc := { StreamDesc.ofBytes (natToBytes 64 0) with engn := 5, fmt := 9, hdr := 1, cnt0 := 4096, cnt1 := 1, cnt2 := 1, cnt3 := 1 } }),
    (1, { st := .run, desc := { StreamDesc.ofBytes (natToBytes 64 0) with out := true, engn := 5, fmt := 9, hdr := 1, cnt0 := 4096, cnt1 := 4, cnt2 := 1, cnt3 := 1 } })] }

theorem witness_conversions :
    (∀ i ∈ [Instr.had 18 17 0, .had 18 17 1, .hadw 18 17 1, .qst 1 17 15 0 0 0, .qst 1 17 0 15 1 1, .qstm 1 17 0 0 2 2 7, .deq 18 0 0 0 0, .deq 18 0 15 0 2, .cvtx 18 17 1 0,
      .cvtx 18 17 0 1, .cvtn 18 17 0 1, .cvtn 18 17 15 6, .qsel 1 0xF7, .qsel 0 1, .ctbl 3 12, .ctbl 0 4, .qhdr 18 0 0, .qhdr 18 0 1, .qerr 18 17 0 2, .qstat 18 1, .qstat 1 0],
      qnts.takes .qnt i (0, 0, true)) ∧
    (prefixed 5 4 0).takes .qnt (.had 18 17 0) (4, 0, true) ∧ (prefixed 5 4 1).takes .qnt (.deq 18 0 0 0 0) (4, 1, true) ∧
    qnts.bankHeld 3 (1 - bit (qnts.ctx.qnt.active.getLsbD 3)) = false ∧ qnts.ctx.qnt.carry = [] := by decide +kernel

theorem witness_converter_operands :
    qnts.supplies .qnt (outDest 17) [0] (List.replicate 3 { bytes := List.replicate 2048 0 }) ∧
    qnts.supplies .qnt (outDest 17) [6] [{ bytes := List.replicate 2048 0 }] ∧ qnts.accepts .qnt (outDest 18) [0] 4 ∧
    qnts.supplies .qnt (.stream 0) [8, 9] [{ bytes := List.replicate 2048 0, hdrs := (List.replicate 128 (headerOf false 0 0)).flatten }] ∧
    qnts.accepts .qnt (.stream 1) [8, 9] 1 ∧ firstCorrupt 128 (List.replicate 128 (headerOf false 0 0)).flatten = none :=
  ⟨supplies_queue (q := 1) (x := .vec) (by decide +kernel), supplies_queue (q := 1) (x := .vec) (by decide +kernel),
    accepts_queue (q := 2) (x := .vec) (by decide +kernel), show _ ∧ _ by decide +kernel, accepts_stream (by decide +kernel), by decide +kernel⟩

theorem witness_stored_blocks :
    ((chunks 32 1 (qstVals 0 0 32 [{ bytes := List.replicate 2048 0 }])).map
      (storeBlock false false (fp32.val 0x3F800000) (qnts.enabled 0))).all Option.isSome = true ∧
    ((chunks 32 1 (qstVals 0 0 32 [{ bytes := List.replicate 2048 0 }])).map (storeBlock true false (fp32.val 0x3F800000) [(0, [])])).all
      Option.isSome = true := by decide +kernel

/-- The parameter blocks of an intersection, in k0 to k7, and of a product with its shape, in k8 to k15 (R362). -/
def contracts : State := { live with ctx.seq.k :=
  [(0, 2), (1, 0x010101), (3, 0x121110), (8, 0x220), (9, 0x323121), (10, 0x00101F1F), (11, 0x1100)] }

/-- The expansion of the second is under way. -/
def expanding (i : Nat) : State := { contracts with
  ctx.seq.wait := .contract 8 ((List.range 8).map fun j => contracts.kreg (8 + j)) i, ctx.iq := [(Engine.mat.code, [.instr (.mzero 0) 0 1 0 0 [] true])] }

theorem witness_prefix_and_contract :
    wordFault (.pfx 5 6 2 7 1) = none ∧ (prefixed 2 0 0).ctx.seq.pfx.isSome = true ∧ Engine.ofCode 2 = some .vec ∧
    (State.busy (prefixed 2 0 0) .vec).queue .vec ≠ [] ∧ (State.busy (prefixed 2 0 0) .vec).room .vec 1 = true ∧
    contractOk ((List.range 8).map fun j => contracts.kreg (0 + j)) = true ∧ contractOk ((List.range 8).map fun j => contracts.kreg (8 + j)) = true ∧
    contractOk ((List.range 8).map fun j => live.kreg j) = false ∧ contracts.masked .idx = false ∧
    (∀ i < 3, contractCount ((List.range 8).map fun j => contracts.kreg (8 + j)) = 3 ∧ (expanding i).runs = true ∧
      insertedEngine (contractWord 8 ((List.range 8).map fun j => contracts.kreg (8 + j)) i) = .mat ∧
      insertedFault (contractWord 8 ((List.range 8).map fun j => contracts.kreg (8 + j)) i) = none ∧
      (expanding i).queue .mat ≠ [] ∧ (expanding i).room .mat 2 = true) := by decide +kernel

/-- ACC's queue with 32 words. -/
def full : State := live.setQueue .acc (List.replicate 32 (.instr (.movq 0 1) 0 1 0 0 [] true))

theorem witness_handing_over :
    (let s := { prefixed 2 0 0 with ctx.seq.pfx := some { eng := 2, rnd := 0, sat := 0, pred := 0, sense := 1, addr := 0 } }
     s.takes .vec (.mov (vb1 0)) (0, 0, false) ∧ s.ctx.vec.slots = []) ∧ engineOf (.mov (vb1 0)) = some (.vec, 2) ∧
    engineOf (.li 1 0 0) = some (.acc, 2) ∧ wordFault (.li 1 0 0) = none ∧ live.modifiers .acc = some (0, 0, true) ∧
    pfxFault (.li 1 0 0) 0 0 = false ∧ (State.busy live .acc).queue .acc ≠ [] ∧
    queueWords ((State.busy live .acc).queue .acc) + 2 ≤ 32 ∧ queueWords (full.queue .acc) = 32 ∧ full.modifiers .acc = some (0, 0, true) := by decide +kernel

/-- A state whose next two words are LI's. -/
def placed : State := (State.reset.withFetchWord 64 0x3801234529130000)

/-- The state in which its first step is made. -/
def begun : State := match placed.agenda with
  | t :: r => ({ placed with agenda := r }).tick.begin t
  | [] => placed

theorem witness_step :
    placed.agenda.map (·.ev) = [.fetchWord] ∧ begun.runs = true ∧ begun.ctx.seq.wait = .none ∧
    (match begun.codeWord begun.ctx.seq.fetch, begun.codeWord (begun.ctx.seq.fetch + 4) with
     | .ok w, .ok v => w == 0x29130000 && v == 0x38012345
     | _, _ => false) = true ∧
    begun.ctx.seq.pfx = none ∧ begun.innerLoop = none ∧ wordKind 0x29130000 = 1 ∧
    isTwoWord (wordEng 0x29130000) (wordOp 0x29130000) = true ∧ decodeWords 0x29130000 (some 0x38012345) = .instr (.li 6 0 0x12345) 2 ∧
    State.reset.agenda = [] ∧ State.reset.mem.wf = true ∧ State.reset.l2.wf = true := by decide +kernel

theorem witness_step_next : (match step placed with | .next t => t.x 6 == 0x12345 | _ => false) = true := by decide +kernel

theorem witness_encoding : encode (.add 1 2 3 1) ≠ [] ∧ encode (.pfx 5 6 2 7 1) ≠ [] ∧
    decodeWords 0x29130000 (some 0x38012345) = .instr (.li 6 0 0x12345) 2 := by decide +kernel


/-! ### Steps of the units -/

/-- What a computation that fails stopped on is as `p` says. -/
def stopped {α : Type} (r : EStateM.Result Stop State α) (p : Stop → Bool) : Bool :=
  match r with
  | .ok _ _ => false
  | .error e _ => p e

/-- `live` with one item in ACC's queue, at which the step in progress looks. -/
def headed (it : Item) : State := { live.setQueue .acc [it] with operand.eng := .acc }

/-- A word of ACC at 0x80. -/
def word (i : Instr) (on : Bool) : Item := .instr i 0x80 1 0 0 [] on

/-- A landing of one register with these issue cycles left. -/
def slot (rem : Nat) (d : Option (List VReg)) (f : Option TrapInfo) : Landing := ⟨63, 1, 1, 0, rem, .pad 0x17F800, d, f, 0x80⟩

theorem witness_queue_steps :
    (∀ it ∈ [word .wmark false, word (.add 31 1 2 0) true, word (.popq 1 0) true, word (.divu 1 2 0) true, .deliver 31 5 0x80, .seed 7 0x80, .rdv 3 0x80, .phase 3 0x80],
      (headed it).runs = true ∧ (headed it).heldBy .acc = false ∧ (headed it).queue .acc = [it] ∧ ((headed it).hold .acc).out = none) ∧
    ran (effOf (.add 31 1 2 0) { rnd := 0, sat := 0, k := [], addr := 0x80 } (headed (word (.add 31 1 2 0) true))) (fun _ _ => true) = true ∧
    stopped (effOf (.popq 1 0) { rnd := 0, sat := 0, k := [], addr := 0x80 } ((headed (word (.popq 1 0) true)).setDataQ 0 { bind := some (.vec, .acc) })) (· == .wait) = true ∧
    stopped (effOf (.movq 0 1) { rnd := 0, sat := 0, k := [], addr := 0x80 } (headed (word (.movq 0 1) true))) (· == .trap { cause := .queueProtocol }) = true ∧
    (headed (.deliver 31 5 0x80)).xBusy 31 = false := by decide +kernel

/-- Landings that are due with their data, due with a failure, and not yet due without data. -/
def landed : State := { live with ctx.vec.slots := [slot 0 (some [VReg.zero]) none] }
def lost : State := { live with ctx.vec.slots := [slot 0 none (some { cause := .illegalOperand })] }
def pending : State := { live with ctx.vec.slots := [slot 255 none none] }

theorem witness_landing_steps :
    landed.ctx.status = .live ∧ ((landed.ctx.vec.slots.head?).map fun l => (l.rem, l.data.isSome)) = some (0, true) ∧
    ((lost.ctx.vec.slots.head?).map fun l => (l.rem, l.data.isSome, l.failed.isSome)) = some (0, false, true) ∧
    (slot 255 none none).settled = false ∧ (pending.receive (slot 255 none none)).2.settled = true ∧ pending.ctx.vec.slots[0]? = some (slot 255 none none) ∧
    (let s := { live with ctx.vec.slots := [slot 9 (some [VReg.zero]) none], ctx.seq.wait := .ending 1 }
     s.queue .vec = [] ∧ s.ctx.vec.slots.findIdx? (fun x => x.settled) = some 0 ∧ s.ctx.seq.wait = .ending 1) ∧
    (let s := { live with ctx.trapPending := some { eng := .vec, addr := 0x80, len := 2, info := { cause := .deadlock } } }
     s.ctx.trapPending.isSome = true ∧ s.landingsSettled = true) := by decide +kernel

/-- ACC's head waits for bq, and has waited 65,536 cycles. -/
def waiting : State := { headed (word (.popq 1 0) true) with ctx.stuck := 65536, ctx.dq := [(0, { bind := some (.vec, .acc) })] }

theorem witness_core_steps :
    waiting.runs = true ∧ 65536 ≤ waiting.ctx.stuck ∧ waiting.outstanding = false ∧ waiting.uncounted = false ∧ waiting.blockedEngine.isSome = true ∧
    (let s := { pair with operand.n0 := 0 }
     s.switchTarget 0 = some 1 ∧ s.cur.core = BankKey.core 1) ∧
    (let s := { live with banks := [(1, { live.ctx with job.uid := 2 })], gts := 2 ^ 22 }
     s.sliceTarget 0 = some 1 ∧ s.readyCtx (s.bankCtx 1) = true ∧ s.runningBank 0 ≠ 1 ∧ (s.bankCtx 1).prio < 7 ∧
     2 ^ 20 ≤ s.cyclesSince 0 (s.bankCtx 1).readySince) ∧
    (let s := { live with banks := [(1, { live.ctx with job.uid := 2, blockedAt := some 0 })], operand.n0 := 1 }
     s.readyCtx (s.bankCtx 1) = true ∧ (s.bankCtx 1).blockedAt.isSome) ∧
    (let s := { live with units.spilled := [{ id := 0, die := 0, ctx := { live.ctx with blockedAt := some 0 }, area := none }], operand.flag := true }
     (s.units.spilled.find? (fun r => r.id == s.operand.n0)).any (fun r => s.readyRec r && r.ctx.blockedAt.isSome) = true) := by decide +kernel

/-- Two ranks of the group (1, 5), on banks 0 and 1, whose phases have come. -/
def phased : State :=
  let c : Ctx := { live.ctx with seq := { live.ctx.seq with phases := [⟨0, 0, 0⟩], flag := true, dmemb := 0x20000501 } }
  { live with ctx := c, banks := [(1, { c with job := { c.job with uid := 2 }, seq := { c.seq with dmemb := 0x400020000501 } })], operand.n0 := 1, operand.n1 := 5 }

theorem witness_phase_steps :
    (let s := { live with ctx.seq.phases := [⟨0, 0, 0⟩] }
     s.ctx.seq.phases = ⟨0, 0, 0⟩ :: [] ∧ s.ctx.status = .live ∧ s.wackCount = 0 ∧ s.ctx.seq.flag = false) ∧
    phased.bundleDue (1, 5) false = true ∧ Sparse.wf {} phased.banks = true ∧ (∀ p ∈ phased.banks, p.1 ≠ phased.cur) ∧
    phased.banks.get {} phased.cur = {} ∧ (phased.bankCtx 1).flagged (1, 5) = true ∧
    (let s := { live with ctx.seq.dmemb := 0x20000704, ctx.seq.flag := true, ctx.seq.flagAt := some 0, gts := 2 ^ 25 }
     s.runs = true ∧ s.ctx.group.1 = 4 ∧ linkTimeout ≤ s.cyclesSince s.cur.core 0) ∧
    (let s := { live with acks := [{ uid := 1, stamp := 4 }], operand.n0 := 1, operand.n1 := 4 }
     ({ uid := 1, stamp := 4 } : Ack) ∈ s.acks ∧ s.unmade { uid := 1, stamp := 4 } = false) ∧
    (let s := { live with operand.flag := true, units.spilled := [{ id := 0, die := 0, ctx := { live.ctx with
        job.uid := 9, seq.phases := [⟨0, 0, 0⟩] } }] }
     ∃ q, s.units.spilled.find? (fun q => q.id == s.operand.n0) = some q ∧ q.ctx.status = .live ∧ q.ctx.seq.phases = ⟨0, 0, 0⟩ :: [] ∧
       s.wackOf q.ctx.job.uid = 0 ∧ q.ctx.seq.flag = false) := by
  refine ⟨by decide +kernel, by decide +kernel, by decide +kernel, by decide +kernel, by decide +kernel, by decide +kernel,
    by decide +kernel, by decide +kernel, ?_⟩
  exact ⟨_, rfl, by decide +kernel⟩

theorem witness_load_steps :
    (let s := { live with ctx.acc.loads := [{ n := 0, dest := .x 31 8 false, src := .ready [1, 2, 3, 4, 5, 6, 7, 8], addr := 0x80 }] }
     (s.ctx.acc.loads.find? (fun l => l.n == s.operand.n0)).any (fun l => !l.again && l.lat.isNone && l.src == .ready [1, 2, 3, 4, 5, 6, 7, 8]) = true) ∧
    (let s := { live with ctx.acc.loads := [{ n := 0, dest := .c 15, src := .failed { cause := .capBounds }, addr := 0x80 }] }
     s.runs = true ∧ (s.ctx.acc.loads.find? (fun l => l.n == s.operand.n0)).any (fun l => !l.again && l.src == .failed { cause := .capBounds }) = true) ∧
    (let s := { live with ctx.acc.s := [(3, { holder := { walk := some (1, 0), want := some (1, 1) } })], operand.holder := .stream 3 }
     (s.holder s.operand.holder).walk = some (1, 0) ∧ (s.holder s.operand.holder).want = some (1, 1)) ∧
    (let s := { objs with ports := [{ n := 0, uid := 1, cap := objs.c 1, off := 0x1FFFFF, data := [7] }] }
     s.portBehind { n := 0, uid := 1, cap := objs.c 1, off := 0x1FFFFF, data := [7] } = false ∧
     s.placeRange (objs.c 1) 0x1FFFFF 1 = [(.at 0x13FFFFF, 1)] ∧ s.memHeld 0x13FFFFF = false ∧ s.quarterGated 0x13FFFFF = false ∧
     s.reach (packageOf 0x13FFFFF) = .ok) := by decide +kernel

/-- `streams` whose s0 runs on object 1, with uncorrectable sectors or none. -/
def running (bad : List Nat) : State :=
  { streams.setStream 0 { st := .run, desc := StreamDesc.ofBytes (descOf 0x220 0 0), ldcap := capOn 1 tyData 0 } with bad := bad }

theorem witness_stream_steps :
    (running []).runs = true ∧ ((running []).stream 0).fillable = true ∧
    ran (readBlock 0 ((running []).stream 0) 0 (running [])) (fun _ _ => true) = true ∧
    stopped (readBlock 0 ((running [0x1200000 / 32]).stream 0) 0 (running [0x1200000 / 32])) (· != .wait) = true ∧
    (let s := { outStream with ctx.acc.s := [(0, { outStream.stream 0 with buf := [{ bytes := List.replicate 2048 7 }], done := 1 })] }
     (s.stream 0).desc.out = true ∧ (s.stream 0).buf ≠ [] ∧ (s.drainStream 0).2 = true) ∧
    (let s := { mats with ctx.acc.pumps := [(0, some { stream := 1, waiting := false, stopping := true })], ctx.mat.rings := [(0, { defined := true, fmt := 2, slots := 2, rows := 32, kb := 1, filled := [keySlot] })] }
     s.pump 0 = some { stream := 1, waiting := false, stopping := true } ∧ (s.ring 0).defined = true ∧ (s.ring 0).filled.length < (s.ring 0).slots ∧
     ran (fillSlot true 0 ((s.ring 0).pumpBlocks + 1) (s.ring 0).filled.length s) (fun _ _ => true) = true) := by decide +kernel

/-- END at a stage. -/
def ending (n : Nat) : State := { live with ctx.seq.wait := .ending n }

theorem witness_end_steps :
    (ending 1).runs = true ∧ (ending 1).drained = true ∧ ({ ending 1 with ctx.units.holds := [{ handle := 3, excl := true }] }).drained = true ∧
    ({ ending 1 with ctx.bq.bits := [true] }).ctx.queuesHeld = true ∧ (ending 1).ctx.queuesHeld = false ∧
    (ending 3).drainFailed = none ∧ (ending 3).cmdsOf 1 = [] ∧ (ending 3).wackCount = 0 ∧ (ending 3).landed = true ∧ (ending 3).ctx.firstErr = none ∧
    ({ ending 3 with ctx.units.err := [(2, some { num := 1, info := { cause := .linkError } })] }).ctx.firstErr = some (2, { num := 1, info := { cause := .linkError } }) := by
  decide +kernel

/-- A task that has ended with a sector of object 1, or with a command, in its commit buffer. -/
def committing : State := { objs with
  ctx.job.task := true, ctx.seq.wait := .ending 4
  ctx.acc.commit := [.sector (objs.c 1) 0x1FFFE0 (some 7 :: List.replicate 31 none) false] }
def rel (uid : Nat) : Cmd := { n := 0, uid := uid, core := 0, asid := 1, cls := 1, num := 0, held := true, body := .rel 3 0 }

theorem witness_commit_steps :
    (match committing.commitRuns (objs.c 1) 0x1FFFE0 (sectorRuns 33 0 (some 7 :: List.replicate 31 none)) with | .made _ => true | _ => false) = true ∧
    (let s := { committing with ctx.acc.commit := [.deferred 0], units.cmds := [rel 1] }
     s.cmd 0 = some (rel 1) ∧ ((s.cmdsOf 1).filter fun d => d.cls == 1).length < 32) ∧
    (let s := { ending 5 with ctx.job.task := true }
     s.ctx.status = .live ∧ s.wackCount = 0 ∧ s.cmdsOf 1 = [] ∧ s.ctx.acc.commitFail = none) := by decide +kernel

theorem witness_wait_steps :
    (let s := { live with gts := 50, ctx.seq.slots := [(0, .gts 50), (3, .gts 51)] }
     ({ s with ctx.seq.wait := .waiting 0 false 9 0 0 }).runs = true ∧ s.ctx.waitSat s.gts 9 = 1 ∧ s.ctx.waitErr 1 = none ∧ s.ctx.waitSat 51 9 = 9 ∧
     ¬ (s.ctx.waitSat s.gts 8 ≠ 0) ∧ 0 + 5 * 2 ^ 0 ≤ s.refTick) ∧
    (let s := { live with ctx.seq.slots := [(0, .timeline 1 1)], ctx.units.err := [(1, some { num := 1, info := { cause := .linkError } })], ctx.units.tl := [(1, { issued := 1, counter := 1 })] }
     s.ctx.waitSat 0 1 = 1 ∧ s.ctx.waitErr 1 = some (1, { num := 1, info := { cause := .linkError } })) ∧
    (let s := { live with units.cmds := [{ rel 1 with held := false, done := true }] }
     s.cmd 0 = some { rel 1 with held := false, done := true } ∧ s.abortBy { rel 1 with held := false, done := true } = none) := by decide +kernel


/-- A command of the job with nothing before it. -/
def cmdOf (cls : Nat) (b : CmdBody) : Cmd := { n := 0, uid := 1, core := 0, asid := 1, cls := cls, num := 1, started := true, body := b }

/-- `objs` with one command in flight. -/
def flight (c : Cmd) : State := { objs with units.cmds := [c] }

/-- A copy of the last bytes of object 1 to the scratchpad's last, with a watermark and a sync word. -/
def copying : State := flight { cmdOf 0 (.copy { src := .mem (capOn 1 tyData 0) 0x1FFFC0, dst := .pad 1 0x17FFC0, cnt0 := 64, uncounted := 1 }) with wmark := true, sync := some 0x17FF00 }

theorem witness_copy_steps :
    (let s := flight { cmdOf 0 (.migr (capOn 1 tyData 0) 0 20 none) with started := false }
     (s.nextCore 0).isSome = true ∧ s.channels 0 < 128 ∧ (s.pageEntry (capOn 1 tyData 0)).any (fun e => pageLoc e.2 != 3) = true) ∧
    (let s := flight { cmdOf 0 (.gwin (capOn 5 tyGwin 0) (capOn 1 tyData 0) (capOn 1 tyData 0) 0 0) with started := false }
     (s.nextCore 0).isSome = true) ∧
    copying.runningCopy.any (fun p => p.1.wmark && decide (p.2.pos < (copying.moveFor p.1 p.2 32).2.1.pos) && p.1.sync.isSome && p.2.uncounted != 0) = true ∧
    (let c := cmdOf 0 (.chain (capOn 1 tyData 0) (capOn 1 tyData 0) (capOn 1 tyData 0) (some 0))
     (flight c).cmd 0 = some c ∧ (match (flight c).chainStep c (capOn 1 tyData 0) (capOn 1 tyData 0) (capOn 1 tyData 0) 0 with | .ok _ => true | _ => false) = true) ∧
    (let s := { live with units.mcast := [{ table := 0, entry := 0, ranks := [0], pending := some [1] }] }
     (s.mcEntry 0 0).any (fun m => m.pending == some [1]) = true ∧ s.quiesced 0 0 = true) := by decide +kernel

theorem witness_atomic_steps :
    (let c := cmdOf 1 (.atom (capOn 1 tyData 0x1FFFF8) 0 8 1 0 none)
     (flight c).cmd 0 = some c ∧ (flight c).atomBehind c (capOn 1 tyData 0x1FFFF8) 0x1FFFF8 8 = false ∧
     (flight c).locateBy c.sent (capOn 1 tyData 0x1FFFF8) 0x1FFFF8 = .at 0x13FFFF8 ∧ (flight c).quarterGated 0x13FFFF8 = false ∧
     (flight c).memHeld 0x13FFFF8 = false ∧ (flight c).reach (packageOf 0x13FFFF8) = .ok ∧
     (flight c).badIn (0x13FFFF8 / 128 * 128) 128 = none ∧ ((flight c).takeLine 0x13FFFF8 c.reader).isSome = true) ∧
    (let c := cmdOf 1 (.atomQ (capOn 1 tyData 0) [(511, 0x3F800000)])
     (flight c).cmd 0 = some c ∧ (flight c).atomBehind c (capOn 1 tyData 0) (4 * 511) 4 = false ∧
     ((flight c).applyOne c (capOn 1 tyData 0) (4 * 511) 0x3F800000).isSome = true) ∧
    (let s := { live with units.homes := [(0, { lines := [(0x9FFFF, 0)], clock := 1 })] }
     (s.home 0).lines.any (fun l => l.1 == 0x9FFFF) = true ∧ s.linePending 0x9FFFF = false) := by decide +kernel

theorem witness_object_steps :
    (let c := cmdOf 1 (.bind 3 (capOn 1 tyData 0) 64 0 false)
     let s := { meetable with units.cmds := [c] }
     s.cmd 0 = some c ∧ s.objBehind c (0, 0, 3) = false ∧ s.poolQueued (0, 0, 3) = false ∧ s.reach 0 = .ok ∧
     ((s.takeObj (0, 0, 3)).any fun u => match u.bindRecord 1 3 1 0 64 0 false with | .ok _ => true | _ => false) = true) ∧
    (let c := cmdOf 1 (.bind 4 (capOn 1 tyData 0) 64 0 false)
     ((State.takeObj { meetable with units.cmds := [c] } (0, 0, 4)).any fun u =>
       match u.bindRecord 1 4 1 0 64 0 false with | .fails _ => true | _ => false) = true) ∧
    (let s := { meetable with units.homes := [(0, { full := [(3, { who := .ctx 1 0, excl := true })] })] }
     (s.obj (0, 0, 3)).canGrant = false ∧ (s.poolServe (0, 0, 3)).isSome = true) ∧
    (meetable.setObj (0, 0, 3) { waiters := [{ who := .ctx 1 0, excl := true }] }).obj (0, 0, 3) ≠ {} ∧
    ((meetable.setObj (0, 0, 3) { waiters := [{ who := .ctx 1 0, excl := true }] }).obj (0, 0, 3)).canGrant = true ∧
    (let c := cmdOf 1 (.rel 3 0)
     let s := { meetable with units.cmds := [c] }
     s.cmd 0 = some c ∧ s.writesBefore c.who = true ∧ s.objBehind c (0, 0, 3) = false ∧ s.reach 0 = .ok ∧ s.reach 5 = .broken) := by decide +kernel

/-- A command that has not started, at an egress queue in epoch 2 with a released entry. -/
def atQueue (b : CmdBody) : State := { flight { cmdOf 3 b with started := false } with
  units.egress := [(0, { e := 2, n := 6, mark := 1, entries := [{ epoch := 2, seq := 0, payload := 7, gts := 0, released := some 0 }] })] }

theorem witness_egress_steps :
    (let s := atQueue (.eqpost 0 9 none)
     (s.cmd 0).any (fun c => !c.held && !c.started && s.storesBefore c.who && !s.eqBehind c.uid c.n 0) = true) ∧
    (∀ e ∈ [1, 2, 3], (atQueue (.eqrel 0 e 5)).cmd 0 = some { cmdOf 3 (.eqrel 0 e 5) with started := false } ∧
      (atQueue (.eqrel 0 e 5)).eqBehind 1 0 0 = false ∧ ((atQueue (.eqrel 0 e 5)).eq 0).e = 2 ∧
      ((atQueue (.eqrel 0 e 5)).eq 0).waiting = [] ∧ (atQueue (.eqrel 0 e 5)).storesBefore { uid := 1, stamp := 0 } = true) ∧
    (∀ e ∈ [1, 2, 3], (atQueue (.eqcut 0 e 0)).cmd 0 = some { cmdOf 3 (.eqcut 0 e 0) with started := false } ∧
      (atQueue (.eqcut 0 e 0)).eqBehind 1 0 0 = false) ∧
    (match (atQueue (.eqpeek 0 0x17F800 0)).peekQueue 1 1 0 0x17F800 0 with | .ok _ => true | _ => false) = true ∧
    (let s := { live with units.cmds := [cmdOf 3 (.eqpost 0 9 none)], units.egress := [(0, { waiting := [0] })] }
     (s.eq 0).waiting = 0 :: [] ∧ (s.eq 0).n ≠ 2 ^ 32 - 1 ∧ (s.eq 0).entries.length < 256) ∧
    ((atQueue (.eqpost 0 9 none)).eq 0).oldest (fun x => !x.delivered) = some { epoch := 2, seq := 0, payload := 7, gts := 0, released := some 0 } ∧
    (atQueue (.eqpost 0 9 none)).eqPolled = false ∧ (live.eq 0).oldest (fun _ => true) = none := by decide +kernel

/-- `linked` with what a step of the link engine looks at. -/
def linkStep (n0 n1 n2 : Nat) : State := { linked with operand.n0 := n0, operand.n1 := n1, operand.n2 := n2, gts := 2 ^ 25 }

theorem witness_link_steps :
    (let s := linkStep 3 0 0
     2 ^ 17 = s.gts / 256 ∧ s.units.link.nextTick ≤ 2 ^ 17 ∧ (s.port 3).up = true ∧ (s.port 3).replays < 16) ∧
    ((linkStep 6 1 1).registered.find? (fun r => r.uid == 1 && r.slot == 1 && r.ls.recv)).any (fun r => r.ls.port == 3) = true ∧
    (linkStep 6 1 1).landing 1 1 = [] ∧ 6 % 8 ≠ 7 ∧
    (let c := cmdOf 2 (.lrecv 1 (.ofWords 0x8000000000000003 0x0000140000000007 1) (.pad 1 0x17FFE0) 32 0 [])
     let s := ({ linked with units.cmds := [c], units.link.land := [{ uid := 1, slot := 1, bytes := List.replicate 32 7 }] } : State)
     s.posted 1 1 = some c ∧ (s.drainLanding c 1).isSome = true) ∧
    decodes 0x1200000 = true ∧ live.quarterGated 0x1200000 = false ∧ live.memHeld 0x1200000 = false ∧ (live.takeLine 0x1200000).isSome = true ∧
    (5 : Nat) ≠ live.myPkg ∧ ({ linked with units.link.route := [(5, 0x83)] }).reach 5 = .ok ∧ (linked.setPort 3 { linked.port 3 with replays := 16 }).port 3 ≠ {} ∧
    ((live.setPort 3 { training := true }).port 3).training = true := by decide +kernel

/-- Object 1 in the memory of package 5, behind port 3; a load of it that is late, and a REL there. -/
def away : State := { linked with
  mem := tables.write 0x380100 (natToBytes 8 (5 * 2 ^ 21 + 9)), units.link.route := [(5, 0x83)], gts := 2 ^ 25
  ctx.acc.loads := [{ n := 0, dest := .x 1 8 false, src := .mem (capOn 1 tyData 0) 0 8, addr := 0x80 }]
  units.cmds := [cmdOf 1 (.rel 0x0000140000000003 0)] }

theorem witness_unscheduled_timeouts :
    (away.ctx.acc.loads.head?.bind away.loadAway) = some (5, capOn 1 tyData 0, 0) ∧ away.expired away.cur.core 0 = true ∧
    away.cmd 0 = some (cmdOf 1 (.rel 0x0000140000000003 0)) ∧ (handleKey 0x0000140000000003).1 = 5 ∧
    away.myPkg = 0 := by decide +kernel

/-- Pseudo-channel 0 at the first moment that bank 0 comes due, with its group inactive, active, or active after eight postponements. -/
def due (active post : Nat) : State := live.setPc 0 { activeUntil := if active = 0 then [] else [(0, active)], post := if post = 0 then [] else [(0, post)] }

theorem witness_refreshes :
    (∀ a ∈ [0, 2 ^ 30], ∀ n ∈ [0, 7, 8], ((due a n).pc 0).dueAt 0 refreshEvery = true ∧ ((due a n).pc 0).pendingAll = false ∧
      ((due a n).pc 0).allUntil = none ∧ ((due a n).pc 0).now ≤ refreshEvery ∧ ((due a n).pc 0).active 0 refreshEvery = (a != 0) ∧
      ((due a n).pc 0).post.get 0 0 = n) ∧ ((due 0 0).pc 0).bankUntil.get 0 0 = 0 ∧
    ((due 9 3).pc 0).activeUntil.get 0 0 - 1 ≤ 8 ∧ ((due 9 3).pc 0).wanted 0 = false ∧ ((due 9 3).pc 0).post.get 0 0 ≠ 0 ∧ ((due 0 0).pc 127).dueAt 15 (refreshEvery + 195) = true ∧
    (let s := live.setPc 0 { pendingAll := true }
     (s.pc 0).pendingAll = true ∧ (s.pc 0).serviceUntil ≤ 5 ∧ (s.pc 0).allUntil = none) ∧
    (let s := live.setPc 0 { allUntil := some 298, waiting := [{ bank := 3, arrival := 1, uid := 1 }] }
     (s.pc 0).allUntil = some 298 ∧ (s.pc 0).now ≤ 298) ∧
    (let s := live.setPc 0 { bankUntil := [(15, 138)], activeUntil := [(3, 2 ^ 30)] }
     (s.pc 0).bankUntil.get 0 15 = 137 + 1 ∧ (s.pc 0).active (15 / 4) 137 = true) := by decide +kernel

theorem witness_caches :
    (let s := live.setSlice 0 { missing := [(mscLine 0x1200000, 1)] }
     ((s.slice (hbmDie 0x1200000)).missing.find? fun r => r.1 == mscLine 0x1200000).isSome = true ∧ isHbm 0x1200000 = true ∧
     packageOf 0x1200000 = s.myPkg ∧ (s.pc (pcOf 0x1200000)).now ≤ 0) ∧
    live.frameOfDie 0 9 = true ∧ live.frameOfDie 3 (3 * 2 ^ 16) = true ∧
    ((live.setSlice 3 { flush := some .flushAll }).slice 3).flush.isSome = true ∧
    ((live.setSlice 0 { pinning := some (.unpin 9) }).slice 0).pinning = some (.unpin 9) ∧ (live.slice 3).wayRefused 0x7FFF = false := by decide +kernel

theorem witness_pins :
    (let s := live.setSlice 0 { pinning := some (.pin 9), off := 0xFF }
     (s.slice 0).pinning = some (.pin 9) ∧ (s.slice 0).canPin 9 = false) := by decide +kernel

/-- Requests for a quarter and a bank in progress at die 1. -/
def requested (r : Region) (wake : Bool) : State := { live.setDie 1 { requests := [(r, wake)] } with operand.region := r, bankOff := [(bankKey 3 71 3, true)] }

theorem witness_regions :
    regionOk (.scratchpad 3 71 3 0xFF) = true ∧ live.gateRefused (.scratchpad 3 71 3 0xFF) = false ∧
    (mats.gateRefused (.scratchpad 0 0 0 1)) = true ∧ regionOk (.scratchpad 0 0 0 1) = true ∧ regionOk (.bank 3 71 3) = true ∧
    live.gateRefused (.bank 3 71 3) = false ∧
    (requested (.quarter 3) true).requestDie (.quarter 3) true = some 1 ∧ (requested (.bank 3 71 3) true).requestDie (.bank 3 71 3) true = some 1 ∧
    (requested (.bank 3 71 3) true).bankOff.get false (bankKey 3 71 3) = true ∧
    (requested (.quarter 3) false).requestDie (.quarter 3) false = some 1 ∧ (requested (.quarter 3) false).regionBusy (.quarter 3) = false ∧
    (requested (.quarter 3) false).gateRefused (.quarter 3) = false := by decide +kernel

theorem witness_clocks :
    live.ratioOk 3 2 = true ∧ ((live.setDie 0 { stage := .draining 2 }).dieSt 0).stage = .draining 2 ∧
    ((live.setDie 0 { stage := .relocking }).dieSt 0).stage = .relocking := by decide +kernel

/-- A package whose boot has passed a number of its steps. -/
def booted (n : Nat) : State := { live with host := { live.host with powered := true, bootStep := n, ready := n == 7 }, power.level := [(0, 1), (1, 3), (2, 0)] }

theorem witness_power :
    live.host.powered = false ∧ (∀ n < 7, (booted n).host.powered = true ∧ (booted n).host.fail = false ∧ (booted n).host.bootStep = n) ∧
    (booted 7).levelOf 0 + 1 ≤ 3 ∧ (booted 7).power.changing.contains 0 = false ∧ (booted 7).lowered (islandClass 0) = true ∧ 2400 < drawOf 2401 ∧
    105 < junctionOf 0x006A0000 ∧ 1 ≤ (booted 7).levelOf 1 ∧ (booted 7).levelOf 1 ≤ 3 ∧ ({ booted 7 with power.level := [(1, 3)] }).raised 0 = true ∧
    drawOf 2279 < 2280 ∧ 115 ≤ junctionOf 0x00730000 ∧ (booted 7).power.dieOff ≠ 0xF ∧
    (0 ∈ ({ booted 7 with power.changing := [0] }).power.changing) ∧ (booted 7).dieInUse 3 = false ∧ isHbm (3 * 2 ^ 37) = true ∧
    hbmDie (3 * 2 ^ 37) = 3 := by decide +kernel

theorem witness_host :
    1 ≤ (booted 7).host.bootStep ∧ (booted 7).host.funcmode.getLsbD 1 = false ∧
    (let s := { booted 7 with banks := [(bankKey 0 71 3, { live.ctx with status := .halted })] }
     (s.bankCtx (bankfreeKey 71)).status ≠ .halted ∧ (s.bankCtx (bankfreeKey (71 + 3 * 1024))).status = .halted) ∧
    ((booted 7).host.freeList.setTail 0).isSome = true ∧ ((booted 7).host.savePool.setTail 0).isSome = true ∧
    (booted 7).memoryWaits 0x1200000 8 = false ∧ (booted 7).memoryFails 0x1200000 8 = false ∧ (booted 7).badIn 0x1200000 8 = none ∧
    memoryAt (2 ^ 41) 8 = false ∧ (booted 7).memoryWaits (2 ^ 41) 8 = false ∧
    (booted 7).sentUnder { asid := 1, obj := none, all := true } = false ∧
    (let s := { booted 7 with host.rings := [(0, { en := true, waiting := [{ gts := 0, source := 0, kind := 1, p0 := 0, p1 := 0 }] })] }
     (s.host.rings.get ({} : EventRing) 0).waiting ≠ [] ∧ (s.host.rings.get ({} : EventRing) 0).room = true) ∧
    ran (writeCsr 0x010 0x10000000 live) (fun _ _ => true) = true ∧ ran (writeCsr 0x013 7 live) (fun _ _ => true) = true ∧ csrAssigned 0x001 = true ∧
    ran (writeCsr 0x001 7 live) (fun _ _ => true) = true := by decide +kernel


/-- A work queue with one record, of a kind that is checked and passes, or does not. -/
def queueDue : State := { objs with host.wq := [(0, { en := true, logsz := 2, tail := 1 })] }

/-- A graph's launch of two steps with one node, whose only instance is in a phase; slot 0 is object 1. -/
def graph (ph : NodePhase) : Launch :=
  { n := 0, wq := 0, caps := [(0, capOn 1 tyData 0)], nextStep := 1, fields := { type := 2, count := 2, code := loadCode, mask := 0x3F, prio := 6 }
    nodes := [{ entry := 0x40, mask := 0x3F, die := 0, reuse := true, tidx := 0, slim := 4, block := 1, layer := 2, gang := 0, rank := 0,
                ins := [{ slot := 0, off := 0, len := 64, fmt := 0 }], outs := [{ slot := 0, off := 64, len := 64, fmt := 0 }] }]
    insts := [{ step := 0, node := 0, phase := ph, sent := true, captured := some (List.replicate 64 0) }] }

def graphs (ph : NodePhase) : State := { objs with units.launches := [graph ph], units.nextLaunch := 1, ctx.status := .free, gts := 2 ^ 22 }

/-- The node's tag with its cached output. -/
def cached : State := { graphs .skip with units.bushel := [(0, [{ asid := 1, gid := 0, layer := 2, block := 1, launch := 0, order := 0, step := 0, skips := 0, use := 0, ref := List.replicate 64 0, outs := [List.replicate 64 7], slots := 1 }])] }

/-- A DIRECT record of one job that its checks pass. -/
def goodRecord : Bytes := natToBytes 16 (2 ^ 32) ++ loadCode.bytes ++ (capOn 2 tyCaps 0).bytes ++ List.replicate 176 0

theorem witness_launch_steps :
    queueDue.queueLaunch 0 = none ∧ queueDue.queueDue 0 = true ∧ (record 0).length = 256 ∧ queueDue.launchOf queueDue.units.nextLaunch = none ∧
    goodRecord.length = 256 ∧ (match (queueDue.addLaunch 0 none goodRecord).checkRecord goodRecord with | .ok _ => true | _ => false) = true ∧
    (match (queueDue.addLaunch 0 none (record 15)).checkRecord (record 15) with | .fails _ _ => true | _ => false) = true ∧
    (let l : Launch := { n := 0, wq := 0, caps := [(0, capOn 1 tyData 0)], waitCount := true, fields := { type := 1, jobs := 4 } }
     l.waitCount = true ∧ l.fields.cw = false ∧
     (match State.unitRead objs (l.slotPlace 0 0).1 (l.slotPlace 0 0).2 4 with | .ok _ => true | _ => false) = true) := by decide +kernel

theorem witness_graph_steps :
    (graphs .instantiated).stepDue (graph .instantiated) = true ∧ (graphs .instantiated).launchOf 0 = some (graph .instantiated) ∧
    (match (graphs .instantiated).unitRead ((graph .done).slotPlace 0 64).1 ((graph .done).slotPlace 0 64).2 64 with | .ok b => b.length == 64 | _ => false) = true ∧
    (∀ ph ∈ [NodePhase.instantiated, .probe, .skip, .fill, .aborted 1 1 0 3], (graphs ph).nodeNamed.any (fun x => x.2.1.phase == ph && x.2.2.ins.length == 1) = true) ∧
    (graph .instantiated).nodeReady { step := 0, node := 0, phase := .instantiated } = true ∧
    (match (graphs .probe).unitRead (capOn 1 tyData 0) 0 64 with | .ok _ => true | _ => false) = true ∧
    (cached.entryOf 0 (1, 0, 2, 1)).isSome = true ∧
    (match cached.copyOuts (graph .skip) [({ slot := 0, off := 64, len := 64, fmt := 0 }, List.replicate 64 7)] with | .ok _ => true | _ => false) = true ∧
    (graphs .fill).tagBusy 0 (1, 0, 2, 1) = false ∧
    (match (graphs .fill).readOuts (graph .fill) [{ slot := 0, off := 64, len := 64, fmt := 0 }] with | .ok _ => true | _ => false) = true ∧
    (graphs (.aborted 1 1 0 3)).pageHere 1 1 0 = true := by decide +kernel

theorem witness_dispatches :
    ((graphs (.pooled 0 6)).dispatch 0).isSome = true ∧ ((graphs (.pooled 0 6)).launchOf 0).any (fun l => (l.inst 0 0).any fun i => i.phase == .pooled 0 6) = true ∧
    2 ^ 20 ≤ (graphs (.pooled 0 6)).cyclesSince 0 0 ∧
    ({ n := 0, wq := 0, jobs := 1, insts := [{ step := 0, node := 0, phase := .done }] } : Launch).over = true ∧
    (live.jobCtx 1).isSome = true := by decide +kernel

/-- Object 1's page lies in the second tier and is asked for; the free-frame list has an entry. -/
def asked (hw : Bool) : State := { objs with
  mem := tables.write 0x380100 (natToBytes 8 (2 ^ 63 + 2 ^ 19)), units.pageReqs := [{ asid := 1, obj := 1, page := 0 }]
  host.funcmode := if hw then 0 else 1, host.freeList := { en := true, logsz := 2, tail := 1 } }

theorem witness_page_steps :
    ({ objs with units.pageReqs := [{ asid := 1, obj := 1, page := 0 }] }).pageHere 1 1 0 = true ∧
    (∀ b ∈ [true, false], ((asked b).pageReq 1 1 0).any (fun r => !r.told) = true ∧ ((asked b).entryAt 1 1 0).any (fun e => pageLoc e.2 == 2) = true ∧
      (asked b).hardware 0 = b) ∧
    (asked true).host.freeList.ready = true ∧ frameBad 20 = false := by decide +kernel

/-- Die 0 is full, its one resident context has not been ready for long, and a node waits. -/
def starving (hw : Bool) : State := { graphs (.pooled 0 6) with
  ctx := { live.ctx with seq := { live.ctx.seq with wait := .waiting 0 true 1 0 0, slots := [(0, .gts 0xFFFFFFFF)] }, blockedAt := some 0 }
  banks := (List.range 287).map fun k => (k + 1, { status := .live }), gts := 2 ^ 25
  host.funcmode := if hw then 0 else 4, host.savePool := { en := true, logsz := 2, tail := 1 } }

theorem witness_spill_steps :
    (starving true).spillChoice 0 = some 0 ∧ (starving true).hardware 2 = true ∧ (starving true).host.savePool.ready = true ∧ areaBad 0x4000000000 = false ∧
    ((starving true).bankCtx 0).canStop = true ∧ (starving false).hardware 2 = false ∧ (starving false).units.spillAsked = [] := by decide +kernel

theorem witness_fill_steps :
    (let s := { live with ctx.status := .free, units.spilled := [{ id := 0, die := 0, ctx := live.ctx, area := some 0x4000000000 }] }
     (s.units.spilled.find? (fun r => r.id == 0)).any (fun r => r.area.isSome && (s.fillPlace r).isSome && s.readyRec r) = true ∧
     (s.cands 0) = []) := by decide +kernel


/-! ### Further clauses -/

theorem witness_rows :
    (let s := { loaded with ctx.job.direct := false, ctx.job.rowCap := capOn 1 tyData 0, ctx.job.rowOff := 0x1FFFC0 }
     s.runsSeq (.kld 15 2 15) ∧ s.readDirect s.ctx.job.rowCap (0x1FFFC0 + 4 * 15) 4 = .bytes [0, 0, 0, 0] ∧
     s.follows s.ctx.job.rowCap (0x1FFFC0 + 4 * 15) 4 = false ∧ s.ctx.job.direct = false) ∧
    (let s := { live with ctx.bq.producer := some .acc, ctx.bq.bits := [true] }
     s.runsSeq (.ppop ⟨7, 0⟩) ∧ s.ctx.bq.producer.isSome = true ∧ s.ctx.bq.bits = true :: []) := by decide +kernel

/-- `live` with a word in the queue of every engine. -/
def allBusy : State := [Engine.acc, .vec, .mat, .idx, .qnt].foldl State.busy live

theorem witness_busy_meetings :
    allBusy.runsSeq (.rdv 0x3F) ∧ allBusy.runsSeq (.phase 0x3F) ∧ allBusy.runsSeq (.rdv 2) ∧
    ((namedEngines 0x3F).filter fun e => !allBusy.idleEngine e) ≠ [] ∧
    (∀ e ∈ (namedEngines 0x3F).filter fun e => !allBusy.idleEngine e, allBusy.room e 1 = true) ∧
    (∀ e ∈ (namedEngines 0x3F).filter fun e => !live.idleEngine e, live.room e 1 = true) := by decide +kernel

theorem witness_context_selection :
    (let s := { live with banks := [(3, { live.ctx with status := .halted })] }
     s.runsSeq (.ctxsel 3) ∧ s.ctx.seq.sup = true ∧ 4 * s.cur.core + (3#2).toNat ≠ s.cur ∧ s.bankOff.get false 3 = false ∧
     s.bankWaking.get false 3 = false ∧ (s.bankCtx 3).resident = true ∧ s.landingsSettled = true) ∧
    (pair.bankCtx 1).resident = true ∧ pair.bankWaking.get false 1 = false := by decide +kernel

/-- `live` with a value in x1 takes CSRW of a register from it. -/
abbrev takesValue (r : BitVec 12) (v : DWord) : Prop :=
  (live.setX 1 v).runsSeq (.csrw 1 r 0) ∧ (live.setX 1 v).csrTakes r.toNat (csrValue 0 (live.peekCsr r.toNat) ((live.setX 1 v).x 1))

theorem witness_domain_register : takesValue 0x010#12 0xB3FFED0000000004#64 := ⟨by decide +kernel, by decide +kernel⟩
theorem witness_seed_register : takesValue 0x013#12 5#64 := ⟨by decide +kernel, by decide +kernel⟩
theorem witness_flush_register : takesValue 0x110#12 0x2000000000000000#64 := ⟨by decide +kernel, by decide +kernel⟩
theorem witness_pin_register : takesValue 0x111#12 0x1000000000000000#64 := ⟨by decide +kernel, by decide +kernel⟩
theorem witness_way_gate_register : takesValue 0x130#12 0x0FFF#64 := ⟨by decide +kernel, by decide +kernel⟩
theorem witness_power_register : takesValue 0x131#12 0xC000000000014700#64 := ⟨by decide +kernel, by decide +kernel⟩
theorem witness_clock_register : takesValue 0x138#12 0#64 := ⟨by decide +kernel, by decide +kernel⟩
theorem witness_vector_register : takesValue 0x001#12 3#64 := ⟨by decide +kernel, by decide +kernel⟩

/-- `loaded` whose windows, objects 5 and 6, have two elements of eight bytes each: the last of object 1, and the first. -/
def windowed : State :=
  let w := fun (k : Nat) => { asid := 1, obj := k, index := capOn 1 tyData 0x100, elem := capOn 1 tyData 0, esize := 3, n := 2 : Window }
  { loaded with windows := [w 5, w 6], mem := loaded.mem.write 0x1200100 (natToBytes 4 0x3FFFF ++ natToBytes 4 0) }

theorem gives_window {s : State} {h : HolderId} {c : Cap} {o n : Nat} {l1 : Bool} {v : Bytes}
    (p : s.marked c o n = false ∧ s.follows c o n = false ∧ c.type.toNat = tyGwin ∧ s.indexFollows c o n = false)
    (q : (match s.plan c o n with
      | .parts l => joinGot (s.readParts false (s.heldParts l) l) == .bytes v
      | .stop _ => false) = true) : s.gives h c o n l1 v := by
  unfold State.gives
  rw [if_pos p.2.2.1]
  refine ⟨p.1, p.2.1, p.2.2.2, ?_⟩
  split at q
  · next l hl => exact ⟨l, hl, by simpa using q⟩
  · cases q

theorem canWrite_window {s : State} {h : HolderId} {c : Cap} {o : Nat} {b : Bytes}
    (p : s.marked c o b.length = false ∧ 0 < b.length ∧ s.ctx.job.task = false ∧ c.type.toNat = tySwin ∧
      s.indexFollows c o b.length = false)
    (q : (match s.plan c o b.length with
      | .parts l => s.scatterFail l == none
      | .stop _ => false) = true) : s.canWrite h c o b := by
  unfold State.canWrite
  rw [if_neg (by simp [p.2.2.1]), if_pos p.2.2.2.1]
  refine ⟨p.1, p.2.1, p.2.2.2.2, ?_⟩
  split at q
  · next l hl => exact ⟨l, hl, by simpa using q⟩
  · cases q

theorem canWrite_task {s : State} {h : HolderId} {c : Cap} {o : Nat} {b : Bytes}
    (p : s.marked c o b.length = false ∧ 0 < b.length ∧ s.ctx.job.task = true ∧
      s.ctx.acc.commit.length + b.length / 32 + 2 ≤ commitDepth) : s.canWrite h c o b := by
  unfold State.canWrite
  rw [if_pos p.2.2.1]
  exact ⟨p.1, p.2.1, p.2.2.2⟩

theorem witness_windowed_accesses :
    windowed.gives (.accessQueue 5) (windowed.c 5) 0 16 false (List.replicate 8 0 ++ [1, 2, 3, 4, 5, 6, 7, 0x80]) ∧
    windowed.canWrite (.accessQueue 6) (windowed.c 6) 8 (natToBytes 8 5) ∧
    windowed.capCheck (windowed.c 5) 0 16 [tyData, tyGwin] (rightsOf [rR]) = none ∧
    windowed.capCheck (windowed.c 6) 8 8 [tyData, tySwin] (rightsOf [rW]) = none :=
  ⟨gives_window (by decide +kernel) (by decide +kernel), canWrite_window (by decide +kernel) (by decide +kernel),
    by decide +kernel, by decide +kernel⟩

/-- `windowed` in a task whose commit buffer holds the second byte of object 1. -/
def tasked : State :=
  { windowed with ctx.job.task := true, ctx.acc.commit := [.sector (capOn 1 tyData 0) 0 (mergeSector (List.replicate 32 none) 1 [9]) false] }

theorem witness_task_accesses :
    tasked.gives (.accessQueue 1) (tasked.c 1) 0 8 true [1, 9, 3, 4, 5, 6, 7, 0x80] ∧
    tasked.gives (.accessQueue 5) (tasked.c 5) 8 8 false [1, 9, 3, 4, 5, 6, 7, 0x80] ∧
    tasked.canWrite (.accessQueue 1) (tasked.c 1) 0x1FFFF8 (natToBytes 8 8) ∧
    tasked.canWrite (.accessQueue 6) (tasked.c 6) 8 (natToBytes 8 8) ∧
    (tasked.takes .acc (.st 1 1 2 0 3) (0, 0, true)) :=
  ⟨gives_plain (lies_by_walk (a := 0x1200000) (by decide +kernel) (by decide +kernel)) (by decide +kernel),
    gives_window (by decide +kernel) (by decide +kernel), canWrite_task (by decide +kernel), canWrite_task (by decide +kernel),
    by decide +kernel⟩

theorem witness_queue_accesses :
    queued.gives (.accessQueue 1) (queued.c 1) 0 2048 true (queued.mem.read 0x1200000 2048) ∧
    queued.canWrite (.accessQueue 1) (queued.c 1) 0x1FF800 ((List.replicate 2048 7).take 2048) ∧
    queued.ctx.acc.loads.length < 32 :=
  ⟨gives_plain (lies_by_walk (a := 0x1200000) (by decide +kernel) (by decide +kernel)) (by decide +kernel),
    canWrite_plain (lies_by_walk (a := 0x13FF800) (by decide +kernel) (by decide +kernel)) (by decide +kernel), by decide +kernel⟩

/-- `streams` with a descriptor in object 1 too. -/
def streamsInMemory : State := { streams with mem := streams.mem.write 0x1200040 (descOf 0x224 0x1000 0) }

theorem witness_descriptor_in_memory :
    streamsInMemory.takes .acc (.sset 0 1 1 1 0) (0, 0, true) ∧ streamsInMemory.late = false ∧ (streamsInMemory.stream 0).buf = [] ∧
    streamsInMemory.capCheck (streamsInMemory.c 1) 64 64 [tyData] (rightsOf [rR]) = none ∧
    streamsInMemory.gives (.accessQueue 1) (streamsInMemory.c 1) 64 64 false (descOf 0x224 0x1000 0) :=
  ⟨by decide +kernel, by decide +kernel, by decide +kernel, by decide +kernel,
    gives_plain (lies_by_walk (a := 0x1200040) (by decide +kernel) (by decide +kernel)) (by decide +kernel)⟩

theorem witness_stream_writes : outStream.accepts .acc (.stream 0) (List.range 8) 1 := accepts_stream (by decide +kernel)

theorem witness_atomics_at_hand :
    cmds.marked (cmds.c 1) (capOffset (cmds.c 1) 0) 8 = false ∧ cmds.marked (cmds.c 1) (capOffset (cmds.c 1) 0) 4 = false ∧
    (let s := cmds.setDataQ 7 { bind := some (.vec, .acc), entries := [List.replicate 2048 7] }
     s.marked (s.c 1) (capOffset (s.c 1) 0) 2048 = false ∧ (s.dataQ 7).entries = List.replicate 2048 7 :: []) := by decide +kernel

theorem witness_objects_at_hand :
    meetable.poolQueued (0, 0, 3) = false ∧ ((meetable.advance 1).takeObj (0, 0, 3)).isSome = true ∧
    holdsKey meetable.ctx.units.holds (0, 0, 3) = false ∧ heldElsewhere.poolQueued (0, 0, 3) = false ∧
    ((heldElsewhere.advance 1).takeObj (0, 0, 3)).isSome = true ∧ holdsKey heldElsewhere.ctx.units.holds (0, 0, 3) = false ∧
    holding.ctx.acc.storeFail = none ∧ holding.ctx.units.err.get none 2 = none := by decide +kernel

/-- `linked` with port 3 down. -/
def severed : State := { linked with units.link.ports := [] }

theorem witness_links_that_end :
    linked.ctx.units.wmark = false ∧ linked.ctx.units.swarm = none ∧ (linked.x 0).toNat = 0 ∧
    linked.takes .acc (.lsend 0 1 0 0) (0, 0, true) ∧ linked.takes .acc (.lrecv 1 0 0 1) (0, 0, true) ∧
    (linked.sideArg 0 1).check linked 0 0 rCS = none ∧ (linked.sideArg 1 0).check linked 0 0 rCD = none ∧
    ((linked.sideArg 1 0).sp && linked.ownRefBad (linked.sideArg 1 0).ref) = false := by decide +kernel

theorem witness_links_that_are_down :
    (severed.port 3).up = false ∧ severed.takes .acc (.lsend 0 1 5 0) (0, 0, true) ∧ severed.takes .acc (.lrecv 1 0 5 1) (0, 0, true) ∧
    (severed.sideArg 0 1).check severed 0 64 rCS = none ∧ (severed.sideArg 1 0).check severed 0 64 rCD = none := by decide +kernel

theorem witness_remap_positions :
    (∀ p ∈ [(0, 3), (1, 5), (2, 8), (3, 9), (4, 10), (5, 11), (6, 12), (7, 13)],
      remapped.remapSees (remapped.c 3) (0x40 + 8 * (1 % 2 ^ 13) + 4 * p.1) 4 p.2) ∧
    remapped.takes .acc (.rmap 4 3 1 1) (0, 0, true) ∧ remapped.takes .acc (.rmap 4 3 2 1) (0, 0, true) ∧
    (remapped.x 1).toNat = 8 ∧ (remapped.x 2).toNat = 3 ∧ ([3, 5, 8, 9, 10, 11, 12, 13] : List Nat).Pairwise (· < ·) := by
  refine ⟨fun p hp => ?_, by decide +kernel⟩
  revert p
  simp only [List.mem_cons, List.not_mem_nil, or_false]
  rintro p (rfl | rfl | rfl | rfl | rfl | rfl | rfl | rfl) <;> exact remapSees_of (by decide +kernel) (by decide +kernel)

theorem witness_listing :
    remapped.takes .acc (.eqpeek 13 4 0) (0, 0, true) ∧ remapped.ctx.status = .live ∧ remapped.askAt remapped.fetchPoint = none ∧
    remapped.ownRefBad (remapped.x 13) = false ∧ refOff (remapped.x 13) % 64 = 0 ∧ (remapped.eq 0).tagDue = false ∧
    remapped.ctx.acc.loads.length < 32 ∧ capOffset (remapped.c 4) 0 % 4096 = 0 := by decide +kernel

/-- `mats` at a step whose schedule answers at once, with the line of the masses at its home engine. -/
def masses : State := { mats with late := false, units.homes := [(homeOf 0x1200040, { lines := [(0x1200040 / 128, 1)] })] }

theorem witness_masses :
    (∀ i < 3, masses.locate keySlot.cap (keySlot.massAt i) = .at (0x1200040 + 4 * i) ∧ masses.reachable (0x1200040 + 4 * i) ∧
      packageOf (0x1200040 + 4 * i) = masses.myPkg ∧ (masses.home (homeOf (0x1200040 + 4 * i))).has (0x1200040 + 4 * i) = true ∧
      masses.badIn ((0x1200040 + 4 * i) / 128 * 128) 128 = none ∧ masses.follows keySlot.cap (keySlot.massAt i) 4 = false) ∧
    masses.late = false ∧ masses.takes .mat (.attm 0 0 1 0 0 15 0) (0, 0, true) ∧ masses.attentionFree 3 ∧
    (State.attentionFree { masses with ctx.units.holds := [{ handle := 3, excl := true }] } 3) := by decide +kernel

theorem witness_marker_steps :
    (headed (.marker .illegal 0x80 1)).runs = true ∧ (headed (.marker .illegal 0x80 1)).heldBy .acc = false ∧
    (headed (.marker .illegal 0x80 1)).queue .acc = .marker .illegal 0x80 1 :: [] ∧ lost.ctx.trapPending = none ∧
    pending.padReady 0x17F800 2048 ∧ 0x17F800 + 2048 * (1 * 1) ≤ 0x180000 ∧ pending.padBadIn 0x17F800 2048 = none := by decide +kernel

/-- A write of two bytes, whose places were found when it left. -/
def sentStore : PortStore :=
  { n := 0, uid := 1, cap := capOn 1 tyData 0, off := 0x1FFFFE, data := [7, 8], sent := some [(0x13FFFFE, 1), (0x13FFFFF, 1)] }

theorem witness_sent_stores :
    (let s := { objs with ports := [sentStore] }
     s.ports.find? (fun p => p.n == 0) = some sentStore ∧ s.portBehind sentStore = false ∧
     sentStore.sent = some [(0x13FFFFE, 1), (0x13FFFFF, 1)] ∧ s.reachable 0x13FFFFE ∧ s.reachable 0x13FFFFF) := by decide +kernel

/-- An EVICT on the remap object of `remapped`, at which the object 3 is its handle. -/
def evictOf (asked granted : Bool) : EvictCmd :=
  { pages := capOn 1 tyData 0, remap := capOn 3 tyRemap 0, keepMode := false, thr := 0, decay := 0x3F800000, die := 0, asked := asked, granted := granted }
def evicting (asked granted : Bool) : State := { meetable with
  mem := (remapped.mem.write 0x1600000 [3]).write 0x4000C0 ([0x8000000200010001, 0, 1, 0, 0x100].flatMap (natToBytes 8))
  units.cmds := [cmdOf 3 (.evict (evictOf asked granted))] }

theorem witness_evictions :
    (evicting false false).storesBefore { uid := 1, stamp := 0 } = true ∧
    ((evicting false false).units.cmds.any fun x => x.evicting 0 && x.sequence == (cmdOf 3 (.evict (evictOf false false))).sequence) = false ∧
    ((evicting false false).units.cmds.filter fun x => x.evicting 0).length < 4 ∧
    ((evicting false false).askEvict (cmdOf 3 (.evict (evictOf false false))) (evictOf false false)).isSome = true ∧
    ((evicting true true).evict (evictOf true true)).isSome = true := by decide +kernel

theorem witness_released_entries :
    ((atQueue (.eqpost 0 9 none)).eq 0).oldest (fun _ => true) = some { epoch := 2, seq := 0, payload := 7, gts := 0, released := some 0 } ∧
    (atQueue (.eqpeek 0 0x17F800 0)).eqBehind 1 0 0 = false := by decide +kernel

/-- A word of another package's for this one, with an uncorrectable sector at its line or not. -/
def requestHere (bad : List Nat) (op : Nat) : State := { meetable with
  bad := bad, operand.n0 := 0, operand.n1 := 0x1200000, operand.n2 := op, operand.bytes := [1] }

theorem witness_requests :
    (0x1200000 = 2 ^ 42 * (requestHere [] 0).myPkg + 0x1200000 % 2 ^ 42) ∧ (requestHere [] 0).quarterGated 0x1200000 = false ∧
    (requestHere [] 0).memHeld 0x1200000 = false ∧ ((requestHere [0x1200000 / 32] 9).badIn (0x1200000 / 128 * 128) 128).isSome = true ∧
    (requestHere [] 9).badIn (0x1200000 / 128 * 128) 128 = none ∧ ((requestHere [] 9).takeLine 0x1200000).isSome = true ∧
    (∀ op < 7, (meetable.remoteObject (0, 0, 3) op (.remote 5 1) 1 0 [1, 0, 0, 0, 0, 0, 0, 0]).isSome = true) := by decide +kernel

theorem witness_arrivals :
    (let s := live.setPc 5 { bus := [0, 1, 2] }
     (s.pc 5).pendingAll = false ∧ (s.pc 5).allUntil = none ∧ (s.pc 5).bankUntil.get 0 3 = 0) ∧
    (let s := { booted 7 with windows := [{ asid := 1, obj := 5, index := capOn 1 tyData 0, elem := capOn 1 tyData 0, esize := 0, n := 1 }] }
     (otinvOf (BitVec.allOnes 64)).names 1 5 = true ∧ s.windows ≠ []) := by decide +kernel

theorem witness_launch_limits :
    (∀ d < 4, (graphs .probe).poolCount d < 4096) ∧ (graph (.pooled 0 6)).stopped = false ∧
    (let s := { live with ctx.status := .free, units.freed := [(0, 4)]
                          units.spilled := [{ id := 0, die := 0, ctx := live.ctx, area := some 0x4000000000, waitFree := some 3 }] }
     s.units.spilled.all s.fillAgain = true) := by decide +kernel

/-- A range of the second tier is in no memory-side cache. -/
theorem mscTouch_second (s : State) (a n : Nat) (w : Bool) (h : 2 ^ 40 ≤ a ∧ a + n ≤ 2 ^ 40 + 2 ^ 23) : s.mscTouch a n w = s := by
  unfold State.mscTouch
  split
  · rfl
  · next hn =>
    have step : ∀ i, i < (a + n - 1) / 128 + 1 - a / 128 →
        s.mscAccess (max a (128 * (a / 128 + i))) (min (a + n) (128 * (a / 128 + i) + 128)) w = s := by
      intro i hi
      have : isHbm (max a (128 * (a / 128 + i))) = false := by
        have h1 : max a (128 * (a / 128 + i)) < 2 ^ 40 + 2 ^ 23 := by omega
        have h2 : 2 ^ 40 ≤ max a (128 * (a / 128 + i)) := by omega
        generalize max a (128 * (a / 128 + i)) = x at h1 h2
        simp only [isHbm, localOf, beq_eq_false_iff_ne]
        omega
      simp [State.mscAccess, this]
    have all : ∀ l : List Nat, (∀ i ∈ l, i < (a + n - 1) / 128 + 1 - a / 128) → l.foldl (fun s i =>
        s.mscAccess (max a (128 * (a / 128 + i))) (min (a + n) (128 * (a / 128 + i) + 128)) w) s = s := by
      intro l
      induction l with
      | nil => intro _; rfl
      | cons x l ih =>
        intro hl
        rw [List.foldl_cons, step x (hl x (by simp)), ih fun i hi => hl i (by simp [hi])]
    exact all _ fun i hi => List.mem_range.mp hi

/-- A save area in the second tier that nothing keeps from being written is written. -/
theorem writeArea_second (a : Nat) : ∀ (l : List (Nat × Nat)) (b : Bytes) (s : State), s.quarterOff = 0 → s.quarterWaking = 0 → s.dies = [] →
    (∀ p ∈ l, 2 ^ 40 ≤ p.1 ∧ p.1 + p.2 ≤ 2 ^ 40 + 2 ^ 23) → ∃ u, s.writeArea (.phys a) l b = .ok u := by
  intro l
  induction l with
  | nil => intro b s _ _ _ _; exact ⟨s, rfl⟩
  | cons p l ih =>
    intro b s h h' h'' hl
    have hp := hl p (by simp)
    have hd : decodes p.1 = true := by
      simp only [decodes, isSecond, localOf, Bool.or_eq_true, beq_iff_eq]
      right; omega
    have hg : s.quarterGated p.1 = false := by simp [State.quarterGated, h]
    have hw : s.memHeld p.1 = false := by 
      simp [State.memHeld, State.quarterWakes, State.dieHeld, Sparse.get, h', h'']
    obtain ⟨u, hu⟩ := ih (b.drop p.2) (s.agentWrite p.1 (b.take p.2))
      (by rw [State.agentWrite, mscTouch_second s _ _ _ ⟨hp.1, by rw [List.length_take]; omega⟩]; exact h)
      (by rw [State.agentWrite, mscTouch_second s _ _ _ ⟨hp.1, by rw [List.length_take]; omega⟩]; exact h')
      (by rw [State.agentWrite, mscTouch_second s _ _ _ ⟨hp.1, by rw [List.length_take]; omega⟩]; exact h'')
      fun q hq => hl q (by simp [hq])
    exact ⟨u, by rw [State.writeArea]; simp only [hg, hd, hw]; simpa using hu⟩

theorem spillBank_second {s : State} {k : BankKey} {a : Nat} {phys : Option Nat}
    (h : ((s.bankCtx k).resident = true ∧ s.units.spilled.length < maxSpilled ∧ (s.bankCtx k).padWaking = 0 ∧
      (s.bankCtx k).padBad = [] ∧ (s.bankCtx k).padGated = 0 ∧ (s.bankCtx k).vec.bad = [] ∧ (s.bankCtx k).idx.bad = []) ∧
      s.quarterOff = 0 ∧ s.quarterWaking = 0 ∧ s.dies = [] ∧ (∀ p ∈ pagesOf a areaBytes, 2 ^ 40 ≤ p.1 ∧ p.1 + p.2 ≤ 2 ^ 40 + 2 ^ 23)) :
    ∃ u, s.spillBank k (.phys a) phys = .ok u := by
  obtain ⟨⟨h1, h2, h3, h4, h5, h6, h7⟩, h8, h9, h11, h10⟩ := h
  have hu : (s.bankCtx k).unreadable s.fresh = none := by
    have e : (List.range (padSize / 32)).find? (fun x => ([] : List Nat).contains x) = none := by simp
    have e' : (List.range 8).find? (fun j => (0 : BitVec 8).getLsbD j) = none := by decide
    unfold Ctx.unreadable
    rw [h4, h5, e, e']
    simp [h6, h7]
  obtain ⟨u, hw⟩ := writeArea_second a (pagesOf a areaBytes) ((s.bankCtx k).header s.units.nextSpill k s.gts ++ (s.bankCtx k).image s.fresh)
    s h8 h9 h11 h10
  unfold State.spillBank
  rw [if_neg (by simp [h1]; exact h2), if_neg (by simp [h3, State.dieHeld, Sparse.get, h11]), hu]
  simp only [Area.pieces, hw]
  exact ⟨_, rfl⟩

/-- A job on bank 1 that a SPILL by physical address takes away. -/
def spilling : State := { live with
  banks := [(1, { live.ctx with job.uid := 2 })], units.cmds := [cmdOf 3 (.spill none (2 ^ 40) 1)] }

theorem witness_spill_applies :
    (spilling.bankBehind 0 1 = false ∧ spilling.storesBefore { uid := 1, stamp := 0 } = true ∧ (spilling.bankCtx 1).settled = true ∧
      (spilling.bankCtx 1).trapPending = none) ∧
    (∃ u, spilling.spillBank 1 (.of none (2 ^ 40)) none = .ok u) ∧
    (∃ t, State.spillBank { spilling with banks := [] } 1 (.of none (2 ^ 40)) none = .fails t) ∧
    ∃ u, State.spillBank { starving true with host.savePool := (starving true).host.savePool.take } 0 (.phys (2 ^ 40)) (some (2 ^ 40)) = .ok u :=
  ⟨by decide +kernel, spillBank_second (by decide +kernel), ⟨_, rfl⟩, spillBank_second (by decide +kernel)⟩

/-- The start of a save area of the spill record 0, with a first word. -/
def areaHead (v : Nat) : Bytes := natToBytes 8 v ++ List.replicate 32 0

theorem areaHead_words (v : Nat) : word64 (areaHead v) 0 = v % 256 ^ 8 ∧ word64 (areaHead v) 8 = 0 ∧ (areaHead v).length = 40 := by
  have hl := length_natToBytes 8 v
  refine ⟨?_, ?_, ?_⟩
  · rw [word64, areaHead, List.drop_zero, List.take_left' hl, bytesToNat_natToBytes]
  · rw [word64, areaHead, List.drop_left' hl]
    decide +kernel
  · rw [areaHead, List.length_append, hl, List.length_replicate]

/-- A package whose spill record 0 lies in an area of the second tier, on which no job runs. -/
def filling : State := { live with
  ctx := {}, mem := Memory.write [] (2 ^ 40) (areaHead (Config.imageVersion.toNat * 2 ^ 32 + 0x300000))
  units.spilled := [{ id := 0, die := 0, ctx := { live.ctx with job.uid := 2 }, area := some (2 ^ 40) }]
  units.cmds := [cmdOf 3 (.fill none (2 ^ 40) 1)] }

theorem readArea_second {s : State} {a o n : Nat} (h : s.bad = [] ∧ s.quarterOff = 0 ∧ s.quarterWaking = 0 ∧ s.dies = []) :
    s.readArea (.phys a) o n = .ok (s.mem.read (a + o) n) := by
  have hn : ∀ l : List Nat, l.findSome? (fun _ => (none : Option Nat)) = none := by
    intro l
    induction l with
    | nil => rfl
    | cons x l ih => rw [List.findSome?_cons]; exact ih
  simp [State.readArea, State.badIn, State.quarterGated, State.memHeld, State.quarterWakes, State.dieHeld, Sparse.get, h, hn]

theorem fillBank_second {s : State} {a v : Nat} {k : BankKey} {x : SpillRec} (hv : v = Config.imageVersion.toNat * 2 ^ 32 + 0x300000)
    (hm : s.mem = Memory.write [] a (areaHead v)) (hs : s.units.spilled = [x]) (hx : x.id = 0)
    (hq : s.bad = [] ∧ s.quarterOff = 0 ∧ s.quarterWaking = 0 ∧ s.dies = [])
    (h : s.bankWaking.get false k = false ∧ (s.bankCtx k).padWaking = 0 ∧ s.bankOff.get false k = false ∧
      (s.bankCtx k).padGated = 0 ∧ (s.bankCtx k).resident = false ∧ s.mayPlace x.ctx k.core = true) :
    ∃ u, s.fillBank k (.phys a) = .ok u := by
  have hlt : v < 256 ^ 8 := by
    have := Config.imageVersion.isLt
    omega
  have hr : s.mem.read (a + 0) 0x28 = areaHead v := by
    have := Memory.read_write (areaHead v) [] a
    rwa [(areaHead_words v).2.2, ← hm] at this
  have hw := areaHead_words v
  unfold State.fillBank
  rw [readArea_second hq, hr]
  simp only [hw.1, hw.2.1, Nat.mod_eq_of_lt hlt, hs, List.find?_cons, hx, beq_self_eq_true]
  rw [if_neg fun h => h hv, if_neg (by simp [h, State.dieHeld, Sparse.get, hq]), if_neg (by simp [h]), if_neg (by simp [h]), readArea_second hq]
  simp only [Did.ok.injEq, exists_eq']

theorem filling_fills (k : BankKey) (h : filling.bankWaking.get false k = false ∧ (filling.bankCtx k).padWaking = 0 ∧
    filling.bankOff.get false k = false ∧ (filling.bankCtx k).padGated = 0 ∧ (filling.bankCtx k).resident = false ∧
    filling.mayPlace { live.ctx with job.uid := 2 } k.core = true) : ∃ u, filling.fillBank k (.phys (2 ^ 40)) = .ok u :=
  fillBank_second (v := Config.imageVersion.toNat * 2 ^ 32 + 0x300000) (x := { id := 0, die := 0, ctx := { live.ctx with job.uid := 2 }, area := some (2 ^ 40) })
    (Eq.refl _) (by simp only [filling]) (by simp only [filling]) rfl ⟨by simp only [filling, live]; rfl, by simp only [filling, live]; rfl, by simp only [filling, live]; rfl, by simp only [filling, live]; rfl⟩ h

theorem witness_fill_applies :
    (filling.bankBehind 0 1 = false ∧ filling.storesBefore { uid := 1, stamp := 0 } = true) ∧
    (∃ u, filling.fillBank 1 (.of none (2 ^ 40)) = .ok u) ∧
    (∃ t, State.fillBank { filling with bad := [2 ^ 35] } 1 (.of none (2 ^ 40)) = .fails t) ∧
    filling.fillPlace { id := 0, die := 0, ctx := { live.ctx with job.uid := 2 }, area := some (2 ^ 40) } = some 0 ∧
    ∃ u, filling.fillBank 0 (.phys (2 ^ 40)) = .ok u :=
  ⟨by decide +kernel, filling_fills 1 (by decide +kernel), ⟨_, rfl⟩, by decide +kernel, filling_fills 0 (by decide +kernel)⟩


/-! ## One step of an instruction

Expected results are worked out by hand from the rule that the comment names, or are the spec's own examples. -/

/-- An instruction answers a next state that is as `p` says. -/
def after (i : Instr) (s : State) (p : State → Bool) : Bool :=
  match exec i s with
  | .next t => p t
  | _ => false

/-- `live` with x1 = 2^63 − 1, x2 = −1 and x3 = 5. -/
def numbers : State := { live with ctx.acc.x := [(1, 0x7FFFFFFFFFFFFFFF), (2, 0xFFFFFFFFFFFFFFFF), (3, 5)] }

/-- R169 to R171: sums wrap, MULH of −1 by −1 signed and unsigned, shifts, a write of x0 is discarded. -/
theorem test_integers :
    after (.add 4 1 3 0) numbers (fun t => t.x 4 == 0x8000000000000004) ∧
    after (.mulh 4 2 2 0) numbers (fun t => t.x 4 == 0) ∧ after (.mulh 4 2 2 1) numbers (fun t => t.x 4 == 0xFFFFFFFFFFFFFFFE) ∧
    after (.shl 4 3 3 0) numbers (fun t => t.x 4 == 160) ∧ after (.sra 4 2 3 0) numbers (fun t => t.x 4 == 0xFFFFFFFFFFFFFFFF) ∧
    after (.add 0 3 3 0) numbers (fun t => t.x 0 == 0) ∧ after (.addi 4 3 0x3FF) numbers (fun t => t.x 4 == 4) := by decide +kernel

/-- R170: a saturating ADD keeps the greatest signed value. -/
theorem test_saturation :
    after (.add 4 1 3 0) { numbers with ctx.seq.pfx := some { eng := 1, rnd := 0, sat := 1, pred := 0, sense := 0, addr := 0x3C } }
      (fun t => t.x 4 == 0x7FFFFFFFFFFFFFFF && t.ctx.seq.pfx.isNone) = true := by decide +kernel

/-- R73, R142: DIVU by zero raises DIVIDE_BY_ZERO (0x15) in ACC; the handler runs at TVEC at supervisor level. -/
theorem test_divide_by_zero :
    after (.divu 4 3 0) { numbers with ctx.seq.tvec := 0x1001, ctx.seq.sup := false }
      (fun t => t.ctx.seq.fetch == 0x1000 && t.ctx.seq.sup && t.ctx.seq.intrap && t.ctx.seq.trap.tcause.toNat % 256 == 0x15
        && t.ctx.seq.trap.tcause.toNat / 256 % 8 == 1 && t.x 4 == 0) = true := by decide +kernel

/-- R183: a store of four bytes and a sign-extending load of the upper two. -/
theorem test_scratchpad :
    after (.sts 1 0 2 1 2) { live with ctx.acc.x := [(1, 0x80017FFE)] }
      (fun t => t.ctx.pad.read 8 4 == [0xFE, 0x7F, 0x01, 0x80] && after (.lds 5 0 5 1 1 1) t (fun u => u.x 5 == 0xFFFFFFFFFFFF8001)) = true := by
  decide +kernel

/-- R127, R128: CALL pushes the next address, RET pops it; R130: the body of a LOOP begins behind its two words. -/
theorem test_transfers :
    after (.call 0 16) live (fun t => t.ctx.seq.fetch == 0x80 && t.ctx.seq.links == [0x44] && after .ret t (fun u => u.ctx.seq.fetch == 0x44)) ∧
    after (.br 0 0xFFFF) live (fun t => t.ctx.seq.fetch == 0x3C) ∧
    after (.loop 2 9 100) live (fun t => t.lc 2 == 100 && t.ctx.seq.fetch == 0x48) := by decide +kernel

/-- R178: the cursor moves, the bounds stay, and rights are only taken away. -/
theorem test_capabilities :
    after (.cadd 7 1 3 0) { objs with ctx.acc.x := [(3, 0x10)] } (fun t => (t.c 7).cursor == 0x10 && (t.c 7).upper == 0x200000) ∧
    after (.crights 7 1 3) { objs with ctx.acc.x := [(3, 1)] } (fun t => (t.c 7).rights == 1) := by decide +kernel

/-- R275: the spec's own examples of CVTX: E3M2 0x1F is 0x5E, E2M3 0x1F is 0x4F, and INT2 0b10 is 0xC0. -/
theorem test_expand : expandPacked 2 [0x1F, 0, 0] = [0x5E, 0, 0, 0] ∧ expandPacked 1 [0x1F, 0, 0] = [0x4F, 0, 0, 0] ∧
    expandPacked 0 [2] = [0xC0, 0, 0, 0] := by decide +kernel

/-- R77, R78: encodings at the edges of the formats: 1, the largest and the smallest values, ties to even. -/
theorem test_formats :
    fp32.rne (fp32.val 0x3F800000) = 0x3F800000 ∧ bf16.rne (fp32.val 0x3F808000) = 0x3F80 ∧ bf16.rne (fp32.val 0x3F818000) = 0x3F82 ∧
    e4m3.rne (fp32.val 0x43E00000) = 0x7E ∧ fp16.rne (fp32.val 0x33800000) = 1 ∧ fp16.rne (fp32.val 0x33000000) = 0 ∧
    (fp32.val 0x7FC00000).isNan = true ∧ e5m2.rne (fp32.val 0x47600000) = 0x7B := by decide +kernel

/-- R288, R290: 1 + 2 in the lanes of a register that the mask names; the other lanes keep their values. -/
theorem test_vector_add :
    after (.fadd { vb2 0 with d := 1, a := 2, b := 15, h := 0, w := 0, m := 1 })
      { live with ctx.vec.m := [(1, 5)], ctx.seq.k := [(15, 0x3F800000)], ctx.vec.v := [(1, List.replicate 512 9), (2, List.replicate 512 0x40000000)] }
      (fun t => (t.vreg 1).take 4 == [0x40400000, 9, 0x40400000, 9]) = true := by decide +kernel

/-- R294: LOP3 with the table of an exclusive or of three sources. -/
theorem test_truth_table : truthTable 0x96 0xF0F0 0xCCCC 0xAAAA = 0x6666 ^^^ 0xF0F0 := by decide +kernel

/-- R359, R360: the common and the joined coordinates of two lists, and their numbers. -/
theorem test_merges :
    after (.isect 19 17 18) idxs (fun t => (t.dataQ 3).entries == [numberBytes 4 (padTo 512 0xFFFFFFFF [3])] && t.ctx.idx.nout == 1) ∧
    after (.union 19 17 18) idxs (fun t => (t.dataQ 3).entries == [numberBytes 4 (padTo 512 0xFFFFFFFF [1, 3, 4, 5])] && t.ctx.idx.nout == 4) := by decide +kernel

/-- A step of the machine at reset: nothing has been launched, and the running bank has no context to fetch for. -/
theorem test_reset :
    State.reset.ctx.status = .free ∧ State.reset.mem.wf = true ∧
    (match step State.reset with | .next t => t.mem == [] && t.steps == 1 | _ => false) = true := by decide +kernel

end Sys2Proof.Tests
end

/-! PROOF. How an instruction of an engine leaves the dispatcher: the equations of `issue` for a word that no fault replaces
(R11, R65, R67, R122). -/
namespace Sys2Proof.Machine

/-! ## From `exec` to the engine's queue -/

/-- Every instruction that `engineOf` names is handed over by `issue`, with its own word-level faults and its own effect. -/
theorem exec_eq_issue {i : Instr} {e : Engine} {n : Nat} (h : engineOf i = some (e, n)) (s : State) :
    exec i s = issue e i n (wordFault i) (effOf i) s := by
  cases i <;> cases h <;> rfl

theorem engineOf_words_le {i : Instr} {e : Engine} {n : Nat} (h : engineOf i = some (e, n)) : n ≤ 2 := by
  cases i <;> cases h <;> decide

/-- The words of its queue that an instruction takes: a pending PFX counts with it (R11). -/
def State.wordsOf (s : State) (n : Nat) : Nat := n + if s.ctx.seq.pfx = none then 0 else 1

/-- A word whose fields, modifiers and launch mask rule nothing out is steered as itself, with its modifiers and the loop
registers of that moment. -/
theorem issue_steers {s : State} {e : Engine} {i : Instr} {n : Nat} {eff : Env → M Unit} {r : BitVec 3} {t : BitVec 2}
    {on : Bool} (hm : s.modifiers e = some (r, t, on)) (hp : pfxFault i r t = false) (hk : s.masked e = false) :
    issue e i n none eff s =
      if s.room e (s.wordsOf n) then
        steer e (.instr i s.fetchPoint (s.wordsOf n) r t s.ctx.seq.k on)
          (eff { rnd := r, sat := t, k := s.ctx.seq.k, addr := s.fetchPoint }) (s.advance n)
      else .next s.stall := by
  unfold State.modifiers at hm
  unfold issue State.itemOf State.wordsOf
  cases hx : s.ctx.seq.pfx with
  | none =>
    simp only [hx, Option.some.injEq, Prod.mk.injEq] at hm
    obtain ⟨rfl, rfl, rfl⟩ := hm
    simp [hk, Item.words, Item.env]
  | some p =>
    simp only [hx, Option.ite_none_right_eq_some, Option.some.injEq, Prod.mk.injEq] at hm
    obtain ⟨hc, rfl, rfl, rfl⟩ := hm
    simp [hc, hp, hk, Item.words, Item.env]

theorem room_iff {s : State} {e : Engine} {n : Nat} : s.room e n = true ↔ queueWords (s.queue e) + n ≤ 32 := decide_eq_true_iff

@[simp] theorem State.advance_heldBy (s : State) (n : Nat) (e : Engine) : (s.advance n).heldBy e = s.heldBy e := rfl

/-- What stands before an item, or holds its engine, leaves it in the queue (R11, R137). -/
theorem steer_behind {s : State} {e : Engine} {it : Item} {eff : M Unit} (h : s.queue e ≠ [] ∨ s.heldBy e = true) :
    steer e it eff s = .next (s.enqueue e it) := by
  refine if_neg ?_
  rintro ⟨hq, hh, -⟩
  rcases h with h | h
  · exact h hq
  · simp [h] at hh

/-! ## An instruction whose predicate does not hold (R67) -/

/-- Where VEC has no landing outstanding, the issue cycles that pass at a retirement change nothing. -/
theorem retire_without_landings {s : State} {e : Engine} {i : Instr} (h : e = .vec → s.ctx.vec.slots = []) :
    retire e i s = .ok () s := by
  unfold retire
  split
  · next he => unfold elapse; rw [get_bind, if_pos (h he)]; rfl
  · rfl

/-- An instruction that is off does not run its effect. -/
theorem runItem_off {s : State} {e : Engine} {i : Instr} {a n : Nat} {r : BitVec 3} {t : BitVec 2} {k : Sparse Word}
    {eff : M Unit} (h : e = .vec → s.ctx.vec.slots = []) :
    runItem e (.instr i a n r t k false) eff s = .ok () s := retire_without_landings h

/-! ## The obligation -/

theorem exec_off {s : State} {i : Instr} {e : Engine} {n : Nat} {r : BitVec 3} {t : BitVec 2}
    (hi : engineOf i = some (e, n)) (ht : s.takes e i (r, t, false)) (hv : e = .vec → s.ctx.vec.slots = []) :
    exec i s = .next (s.advance n) := by
  obtain ⟨k, hk⟩ := issue_takes (eff := effOf i) ht rfl (engineOf_words_le hi)
  obtain ⟨-, -, -, -, -, -, -, hold⟩ := ht
  rw [exec_eq_issue hi, hk, runItem_off (s := s.advance n) hv]
  exact congrArg Host.Outcome.next (clearHold_empty (s := s.advance n) hold)

/-- Settles O47, by the two equations of steering: behind what stands in the queue or holds the engine, or not yet. -/
theorem instructionsAreHandedToTheirEngines : Obligations.InstructionsAreHandedToTheirEngines := by
  unfold Obligations.InstructionsAreHandedToTheirEngines
  intro s i e n r t on hi
  have hissue : wordFault i = none → exec i s = issue e i n none (effOf i) s :=
    fun hw => by rw [exec_eq_issue hi, hw]
  refine ⟨exec_off hi, fun hw hm hp hk hq hroom => ?_, fun hm hw hp hk hfull => ?_⟩
  · have hr : s.room e (s.wordsOf n) = true := room_iff.2 (by unfold State.wordsOf; omega)
    rw [hissue hw, issue_steers hm hp hk, if_pos hr]
    exact steer_behind (s := s.advance n) hq
  · have hr : ¬ s.room e (s.wordsOf n) = true := fun h => by
      have := room_iff.1 h
      unfold State.wordsOf at this
      omega
    rw [hissue hw, issue_steers hm hp hk, if_neg hr]

end Sys2Proof.Machine

/-! PROOF. The stages of END, the commit of a task, the ends of a WAIT and the completion of a command, one equation for each
way in which the step goes on (R38, R41 to R44, R103, R140, R213). -/
namespace Sys2Proof.Machine

theorem whenDue_due {row : String} {b : Bool} {s : State} (h : b = true) : whenDue row b s = .next s := if_pos h

theorem endStage_ending {s : State} {n : Nat} (h : s.ctx.seq.wait = .ending n) : s.endStage = some n := by
  unfold State.endStage; rw [h]

/-! ## JOB_END_CHECK: stage 2 of END (R38) -/

section
variable {s : State} (hr : s.runs = true) (hw : s.ctx.seq.wait = .ending 1) (hd : s.drained = true)
include hr hw hd

theorem jobEndCheck_held {h : TableHold} {r : List TableHold} (hh : s.ctx.units.holds = h :: r) : exec .jobEndCheck s =
    .next (s.takeTrap .seq s.ctx.seq.fetch 1 { cause := .illegalOperand, tinfo := h.handle.toNat }) := by
  show execJobEndCheck s = _
  unfold execJobEndCheck; rw [if_pos ⟨hr, endStage_ending hw, hd⟩, hh]

theorem jobEndCheck_queued (hh : s.ctx.units.holds = []) (hq : s.ctx.queuesHeld = true) :
    exec .jobEndCheck s = .next (s.takeTrap .seq s.ctx.seq.fetch 1 { cause := .queueProtocol }) := by
  show execJobEndCheck s = _
  unfold execJobEndCheck; rw [if_pos ⟨hr, endStage_ending hw, hd⟩, hh]; exact if_pos hq

theorem jobEndCheck_passes (hh : s.ctx.units.holds = []) (hq : s.ctx.queuesHeld = false) :
    exec .jobEndCheck s = .next { s with ctx.seq.wait := .ending 3 } := by
  show execJobEndCheck s = _
  unfold execJobEndCheck; rw [if_pos ⟨hr, endStage_ending hw, hd⟩, hh]; exact if_neg (by simp [hq])

end

/-! ## JOB_END_COMPLETE: stages 3 to 5 of END (R38) -/

theorem jobEndComplete_settles {s t : State} (hr : s.runs = true) (hw : s.ctx.seq.wait = .ending 3)
    (h : s.endStages = some t) : exec .jobEndComplete s = .next t := by
  show execJobEndComplete s = _
  unfold execJobEndComplete; simp only [endStage_ending hw, h]; exact if_pos hr

theorem jobEndComplete_commits {s t : State} (hr : s.runs = true) (hw : s.ctx.seq.wait = .ending 4)
    (h : s.commitOne = some t) : exec .jobEndComplete s = .next t := by
  show execJobEndComplete s = _
  unfold execJobEndComplete; simp only [endStage_ending hw, h]; exact if_pos hr

/-! Once a job has settled and no drain has failed, a failed store is delivered first, then the failure of the lowest class
(log 24); with neither left, a task goes on to its commit and another job ends. -/

section
variable {s : State} (hs : s.endSettled = true) (hd : s.drainFailed = none)
include hs hd

theorem endStages_storeFail {t : TrapInfo} (h : s.ctx.acc.storeFail = some t) : s.endStages =
    some (State.takeTrap { s with ctx.acc.storeFail := none } .seq s.ctx.seq.fetch 1 t) := by
  unfold State.endStages; simp only [hs, hd, h]; rfl

variable (hf : s.ctx.acc.storeFail = none)
include hf

theorem endStages_firstErr {k : Nat} {x : ErrRec} (h : s.ctx.firstErr = some (k, x)) : s.endStages =
    some (State.takeTrap { s with ctx.units.err := s.ctx.units.err.set none k none } .seq s.ctx.seq.fetch 1 x.info) := by
  unfold State.endStages; simp only [hs, hd, hf, h]; rfl

variable (he : s.ctx.firstErr = none)
include he

theorem endStages_task (h : s.ctx.job.task = true) : s.endStages = some { s with ctx.seq.wait := .ending 4 } := by
  unfold State.endStages; simp only [hs, hd, hf, he, h]; rfl

theorem endStages_ends (h : s.ctx.job.task = false) : s.endStages = some (s.endJob .ended .ended) := by
  unfold State.endStages; simp only [hs, hd, hf, he, h]; rfl

end

theorem endSettled_of {s : State} (hl : s.landed = true) (ha : s.ctx.acc.loads = []) (hc : s.cmdsOf s.ctx.job.uid = [])
    (hw : s.wackCount = 0) : s.endSettled = true := by
  simp [State.endSettled, hl, ha, hc, hw]

theorem endJob_status (s : State) (st : CtxStatus) (k : EndKind) : (s.endJob st k).ctx.status = st := by
  obtain ⟨-, -, -, -, -, h, -⟩ := endJob_frame s st k
  exact h

theorem endJob_mem (s : State) (st : CtxStatus) (k : EndKind) : (s.endJob st k).mem = s.mem := (endJob_frame s st k).1

/-! ## The commit of a task (R41, R43, R44) -/

theorem commitOne_empty {s : State} (h : s.ctx.acc.commit = []) : s.commitOne = some { s with ctx.seq.wait := .ending 5 } := by
  unfold State.commitOne; simp only [h]; rfl

theorem commitOne_sector {s u : State} {cap : Cap} {off : Nat} {d : List (Option Byte)} {w : Bool} {r : List CommitEntry}
    (h : s.ctx.acc.commit = .sector cap off d w :: r) (hm : s.commitRuns cap off (sectorRuns 33 0 d) = .made u) :
    s.commitOne = some u.commitNext := by
  unfold State.commitOne; simp only [h, hm]

theorem commitOne_deferred {s : State} {n : Nat} {c : Cmd} {r : List CommitEntry}
    (h : s.ctx.acc.commit = .deferred n :: r) (hc : s.cmd n = some c) : s.commitOne = s.issueDeferred c := by
  unfold State.commitOne; simp only [h, hc]

/-- A deferred command that its class has room for is issued: its entry goes, and its class counts it. -/
theorem issueDeferred_issues {s : State} {c : Cmd}
    (h : ((s.cmdsOf s.ctx.job.uid).filter fun d => d.cls == c.cls).length < maxInFlight) :
    ∃ t : State, s.issueDeferred c = some t ∧ t.ctx.acc.commit = s.ctx.acc.commit.tail ∧
      (t.ctx.units.tl.get {} c.cls).issued = (s.ctx.units.tl.get {} c.cls).issued + 1 := by
  have hget := Sparse.get_set_same {} s.ctx.units.tl c.cls
    { s.ctx.units.tl.get {} c.cls with issued := (s.ctx.units.tl.get {} c.cls).issued + 1 }
  exact ⟨_, if_neg (by omega), rfl, congrArg Timeline.issued hget⟩

/-! ## TASK_COMPLETION_REPORT (R41, R44) -/

theorem taskEnd_committed {c : Ctx} (h : c.acc.commitFail = none) : c.taskEnd = (.ended, .ended) := by
  unfold Ctx.taskEnd; rw [h]

theorem taskCompletionReport_due {s : State} (hl : s.ctx.status = .live) (hw : s.ctx.seq.wait = .ending 5)
    (ha : s.wackCount = 0) (hc : s.cmdsOf s.ctx.job.uid = []) :
    exec .taskCompletionReport s = .next (s.endJob s.ctx.taskEnd.1 s.ctx.taskEnd.2) :=
  whenDue_due (by simp [hl, endStage_ending hw, ha, hc])

/-! ## The ends of a WAIT (R140, R213) -/

theorem waitDone_iff {all : Bool} {mask sat : BitVec 4} :
    waitDone all mask sat = true ↔ if all = true then sat = mask else sat ≠ 0 := by
  unfold waitDone; cases all <;> simp

theorem waitExpired_of {tick t0 x m : Nat} (hm : m ≠ 0) (h : t0 + m * 2 ^ x ≤ tick) : waitExpired tick t0 x m = true := by
  have : m * 2 ^ x ≤ tick - t0 := Nat.le_sub_of_add_le' h
  simp [waitExpired, hm, this]

theorem pred_setPred_seven (s : State) (b : Bool) : (s.setPred 7 b).pred 7 = b := by
  cases b <;> simp [State.setPred, State.pred]

theorem endWait_pred (s : State) (b : Bool) : (s.endWait b).pred 7 = b := pred_setPred_seven (s.advance 2) b

theorem endWait_fetch (s : State) (b : Bool) : (s.endWait b).ctx.seq.fetch = s.ctx.seq.fetch + 8 :=
  State.setPred_fetch (s.advance 2) 7 b

theorem endWait_l1 (s : State) (b : Bool) : (s.endWait b).l1 = s.l1 := State.setPred_l1 (s.advance 2) 7 b

/-- What a satisfied WAIT acquires: the whole L1 of its core is dropped (R92). -/
def State.acquireFor (s : State) (sat : BitVec 4) : State := if s.ctx.acquires sat then s.l1Drop s.cur.core else s

theorem acquireFor_ctx (s : State) (sat : BitVec 4) : (s.acquireFor sat).ctx = s.ctx := by
  unfold State.acquireFor; split <;> rfl

theorem acquireFor_l1 {s : State} {sat : BitVec 4} (h : s.ctx.acquires sat = true) :
    (s.acquireFor sat).l1.get [] s.cur.core = [] := by
  unfold State.acquireFor; rw [if_pos h]; exact Sparse.get_set_same [] s.l1 s.cur.core []

section
variable {s : State} {t0 : Nat} {all : Bool} {mask : BitVec 4} {x m : Nat} (hw : s.ctx.seq.wait = .waiting t0 all mask x m)
  (hr : s.runs = true)
include hw hr

theorem waitSatisfied_ends (hd : waitDone all mask (s.ctx.waitSat s.gts mask) = true)
    (he : s.ctx.waitErr (s.ctx.waitSat s.gts mask) = none) : exec .waitSatisfied s =
    .next (((s.acquireFor (s.ctx.waitSat s.gts mask)).endWait false).modSeq
      fun q => { q with wsat := s.ctx.waitSat s.gts mask }) := by
  show execWaitSatisfied s = _
  unfold execWaitSatisfied; simp only [hw, hr, hd, he, Bool.and_self, if_true]; rfl

theorem waitSatisfied_delivers {k : Nat} {e : ErrRec} (hd : waitDone all mask (s.ctx.waitSat s.gts mask) = true)
    (he : s.ctx.waitErr (s.ctx.waitSat s.gts mask) = some (k, e)) : exec .waitSatisfied s =
    .next (State.takeTrap { s with ctx.units.err := s.ctx.units.err.set none k none } .seq s.ctx.seq.fetch 2 e.info) := by
  show execWaitSatisfied s = _
  unfold execWaitSatisfied; simp only [hw, hr, hd, he, Bool.and_self, if_true]; rfl

theorem waitTimeout_ends (hd : waitDone all mask (s.ctx.waitSat s.gts mask) = false)
    (he : waitExpired s.refTick t0 x m = true) : exec .waitTimeout s = .next (s.endWait true) := by
  show execWaitTimeout s = _
  unfold execWaitTimeout; simp only [hw]; exact whenDue_due (by simp [hr, hd, he])

end

/-! ## ASYNC_COMMAND_COMPLETE (R103) -/

theorem complete_finishes {s : State} {c : Cmd} (h : s.abortBy c = none) : s.complete c = s.finishCmd c := by
  unfold State.complete; rw [h]; rfl

theorem asyncCommandComplete_of {s t : State} {c : Cmd} (hc : s.cmd s.operand.n0 = some c)
    (h : s.tryComplete c = some t) : exec .asyncCommandComplete s = .next t := by
  show execAsyncCommandComplete s = _
  unfold execAsyncCommandComplete; simp only [hc, Option.bind_some, h]

section
variable {s : State} {c : Cmd} (hh : c.held = false) (hd : c.done = true) (ha : s.abortBy c = none)
include hh hd ha

theorem tryComplete_rel {h : DWord} {i : Nat} (hb : c.body = .rel h i) : s.tryComplete c = some (s.finishCmd c) := by
  unfold State.tryComplete; simp [hh, hb, hd, complete_finishes ha]

theorem tryComplete_bind {h : DWord} {cap : Cap} {len scope : Nat} {rep : Bool}
    (hb : c.body = .bind h cap len scope rep) :
    s.tryComplete c = some (s.finishCmd c) := by
  unfold State.tryComplete; simp [hh, hb, hd, complete_finishes ha]

end

/-! ## The obligation -/

/-- Settles O55, step by step: each clause is the equation of its step above, under the conditions that make the step due. -/
theorem jobEndAndWaitStepsComplete : Obligations.JobEndAndWaitStepsComplete := by
  unfold Obligations.JobEndAndWaitStepsComplete
  intro s
  refine ⟨fun hr hw hd => ?check, fun hr hw hdf hsl hl hc ha hld => ?complete, fun hr hw => ?commit,
    fun hs hw ha hc => ?report, fun t0 all mask x m hw hr => ?wait, fun c hc hh hd ha => ?command⟩
  case check =>
    exact ⟨fun h r => jobEndCheck_held hr hw hd, jobEndCheck_queued hr hw hd, jobEndCheck_passes hr hw hd⟩
  case complete =>
    have hset : s.endSettled = true := endSettled_of hld hl hc ha
    refine ⟨fun t ht => ?_, fun k x hf he => ?_, fun hf he ht => ?_, fun hf he ht => ⟨?_, endJob_status .., endJob_mem ..⟩⟩
    · exact jobEndComplete_settles hr hw (endStages_storeFail hset hdf ht)
    · exact jobEndComplete_settles hr hw (endStages_firstErr hset hdf hf he)
    · exact jobEndComplete_settles hr hw (endStages_task hset hdf hf he ht)
    · exact jobEndComplete_settles hr hw (endStages_ends hset hdf hf he ht)
  case commit =>
    refine ⟨fun h => jobEndComplete_commits hr hw (commitOne_empty h),
      fun cap off d w r u h hm => jobEndComplete_commits hr hw (commitOne_sector h hm), fun n c r h hc hroom => ?_⟩
    obtain ⟨t, ht, htail, hissued⟩ := issueDeferred_issues (s := s) (c := c) hroom
    exact ⟨t, jobEndComplete_commits hr hw ((commitOne_deferred h hc).trans ht), by rw [htail, h]; rfl, hissued⟩
  case report =>
    refine ⟨taskCompletionReport_due hs hw ha hc, fun hf => ?_⟩
    rw [endJob_status, taskEnd_committed hf]
  case wait =>
    refine ⟨fun hd he => ⟨_, waitSatisfied_ends hw hr (waitDone_iff.2 hd) he, rfl, ?_, ?_, rfl, fun hq => ?_⟩,
      fun k e hd he => waitSatisfied_delivers hw hr (waitDone_iff.2 hd) he, fun hd hm hx => ?_⟩
    · exact (endWait_fetch _ false).trans (by rw [acquireFor_ctx])
    · exact endWait_pred _ false
    · exact (congrArg (·.get [] s.cur.core) (endWait_l1 _ false)).trans (acquireFor_l1 hq)
    · have hnot : waitDone all mask (s.ctx.waitSat s.gts mask) = false := by
        rw [← Bool.not_eq_true, waitDone_iff]; exact hd
      exact ⟨_, waitTimeout_ends hw hr hnot (waitExpired_of hm hx), rfl, endWait_fetch s true, endWait_pred s true⟩
  case command =>
    exact ⟨fun h i hb => asyncCommandComplete_of hc (tryComplete_rel hh hd ha hb),
      fun h cap len scope rep hb => asyncCommandComplete_of hc (tryComplete_bind hh hd ha hb)⟩

end Sys2Proof.Machine

/-! PROOF. What NOP, BR, CALL and RET come to in each of their cases: they go on to the next word, transfer, or trap (R64,
R125, R127, R132). -/
namespace Sys2Proof.Machine

/-! ## The predicate of a transfer (R64) -/

theorem brCond_zero (s : State) : brCond s 0 = true := rfl

theorem oneBit_getLsbD_zero : ∀ n : BitVec 1, n.getLsbD 0 = (n == 1) := by decide

/-- The field holds the predicate's number above its sense. -/
theorem brCond_append (s : State) (p : BitVec 3) (n : BitVec 1) : brCond s (p ++ n) = (s.pred p.toNat != (n == 1)) := by
  have hnum : (p ++ n).toNat / 2 = p.toNat := by
    rw [BitVec.toNat_append, ← Nat.shiftLeft_add_eq_or_of_lt n.isLt, Nat.shiftLeft_eq]; omega
  have hsense : (p ++ n).getLsbD 0 = (n == 1) := by
    rw [BitVec.getLsbD_append, if_pos Nat.zero_lt_one]; exact oneBit_getLsbD_zero n
  unfold brCond; rw [hnum, hsense]

/-! ## NOP and BR (R70, R125) -/

theorem nop_advances {s : State} (h : s.runsSeq .nop) : exec .nop s = .next (s.advance 1) := seqWord_ok h rfl next_ok

section
variable {s : State} {c : BitVec 4} {w : BitVec 16} (h : s.runsSeq (.br c w))
include h

theorem br_off (hc : brCond s c = false) : exec (.br c w) s = .next (s.advance 1) :=
  seqWord_ok h rfl (by rw [get_bind, if_neg (by simp [hc])]; exact next_ok)

theorem br_transfers (hc : brCond s c = true) (ht : s.inCode (brTarget s.ctx.seq.fetch w)) :
    exec (.br c w) s = .next { s.jump (brTarget s.ctx.seq.fetch w).toNat with
      ctx.seq.loops := openAt s.ldepth (brTarget s.ctx.seq.fetch w).toNat s.ctx.seq.loops } :=
  seqWord_ok h rfl (by rw [get_bind, if_pos hc]; exact branchTo_ok ht)

theorem br_outside (hc : brCond s c = true) (ht : ¬ s.inCode (brTarget s.ctx.seq.fetch w)) :
    exec (.br c w) s = .next (s.takeTrap .seq s.ctx.seq.fetch 1
      { cause := .capBounds, toff := (brTarget s.ctx.seq.fetch w).toNat, tinfo := 4, cap := s.ctx.job.code }) :=
  seqWord_trap h rfl (by rw [get_bind, if_pos hc]; exact branchTo_bad ht)

end

/-! ## CALL (R125, R127) -/

theorem linkRoom_ok {s : State} (h : s.ldepth < 8) : need (decide (s.ldepth < linkDepth)) .illegalOperand s = .ok () s :=
  need_ok (decide_eq_true h)

theorem linkRoom_full {s : State} (h : 8 ≤ s.ldepth) : need (decide (s.ldepth < linkDepth)) .illegalOperand s =
    .error (.trap { cause := .illegalOperand }) s :=
  need_fault (decide_eq_false (Nat.not_lt.2 h))

section
variable {s : State} {c : BitVec 4} {w : BitVec 16} (h : s.runsSeq (.call c w))
include h

/-- R127 names no predicate for its full link stack: a CALL that does not take place raises nothing there (log 57). -/
theorem call_off (hc : brCond s c = false) : exec (.call c w) s = .next (s.advance 1) :=
  seqWord_ok h rfl (by rw [get_bind, if_neg (by simp [hc])]; exact next_ok)

theorem call_transfers (hc : brCond s c = true) (hl : s.ldepth < 8) (ht : s.inCode (brTarget s.ctx.seq.fetch w)) :
    exec (.call c w) s = .next { s.jump (brTarget s.ctx.seq.fetch w).toNat with
      ctx.seq.links := (s.ctx.seq.fetch + 4) :: s.ctx.seq.links } :=
  seqWord_ok h rfl (by
    rw [get_bind, if_pos hc, bind_ok (linkRoom_ok hl), bind_ok (checkTarget_ok ht)]; exact set_ok)

theorem call_outside (hc : brCond s c = true) (hl : s.ldepth < 8) (ht : ¬ s.inCode (brTarget s.ctx.seq.fetch w)) :
    exec (.call c w) s = .next (s.takeTrap .seq s.ctx.seq.fetch 1
      { cause := .capBounds, toff := (brTarget s.ctx.seq.fetch w).toNat, tinfo := 4, cap := s.ctx.job.code }) :=
  seqWord_trap h rfl (by
    rw [get_bind, if_pos hc, bind_ok (linkRoom_ok hl)]; exact bind_err (checkTarget_bad ht))

theorem call_full (hc : brCond s c = true) (hl : 8 ≤ s.ldepth) :
    exec (.call c w) s = .next (s.takeTrap .seq s.ctx.seq.fetch 1 { cause := .illegalOperand }) :=
  seqWord_trap h rfl (by rw [get_bind, if_pos hc]; exact bind_err (linkRoom_full hl))

end

/-! ## RET (R127, R132) -/

section
variable {s : State} (h : s.runsSeq .ret)
include h

theorem ret_transfers {t : Nat} {r : List Nat} (hl : s.ctx.seq.links = t :: r) (ht : s.inCode t) :
    exec .ret s = .next { s.jump t with
      ctx.seq.links := r, ctx.seq.loops := s.ctx.seq.loops.filter fun l => decide (l.depth ≤ r.length) } :=
  seqWord_ok h rfl (by rw [get_bind]; simp only [hl]; rw [bind_ok (checkTarget_ok ht)]; exact set_ok)

/-- The trap is raised with the state as it was, so that the entry stays on the link stack. -/
theorem ret_outside {t : Nat} {r : List Nat} (hl : s.ctx.seq.links = t :: r) (ht : ¬ s.inCode t) :
    exec .ret s = .next (s.takeTrap .seq s.ctx.seq.fetch 1
      { cause := .capBounds, toff := t, tinfo := 4, cap := s.ctx.job.code }) :=
  seqWord_trap h rfl (by rw [get_bind]; simp only [hl]; exact bind_err (checkTarget_bad ht))

theorem ret_empty (hl : s.ctx.seq.links = []) :
    exec .ret s = .next (s.takeTrap .seq s.ctx.seq.fetch 1 { cause := .illegalOperand }) :=
  seqWord_trap h rfl (by rw [get_bind]; simp only [hl]; rfl)

end

/-! ## The obligation -/

/-- Settles O1, each clause by the equation of its case above. -/
theorem branchesCompleteOrTrap : Obligations.BranchesCompleteOrTrap := by
  unfold Obligations.BranchesCompleteOrTrap
  intro s c w
  exact ⟨nop_advances, br_off, br_transfers, call_off, call_transfers, fun _ _ h => ret_transfers h,
    br_outside, call_outside, fun _ _ h => ret_outside h, brCond_zero s, brCond_append s, call_full, ret_empty⟩

end Sys2Proof.Machine

/-! PROOF. What ACC's capability instructions come to: each reads its operands, which no outstanding load is still to write,
and writes one register (R176 to R180). -/
namespace Sys2Proof.Machine

/-! ## An effect of ACC that writes one register -/

section
variable {s : State} {i : Instr} {m : BitVec 3 × BitVec 2 × Bool} (hi : engineOf i = some (.acc, 1)) (h : s.takes .acc i m)
  (hm : m.2.2 = true)
include hi h hm

/-- An instruction of ACC that is on, and whose effect runs to its end with nothing in its hold buffer, is done. -/
theorem exec_acc_ok {t : State} (hr : ∀ e : Env, effOf i e (s.advance 1) = .ok () t) (ht : t.hold .acc = {}) :
    exec i s = .next { t with ctx.stuck := 0 } := by
  obtain ⟨r, w, on⟩ := m
  obtain rfl : on = true := hm
  rw [exec_eq_issue hi]
  exact issue_ok h rfl (by decide) (by decide) (hr _) ht

theorem exec_acc_setX {d : BitVec 5} {v : DWord}
    (hr : ∀ e : Env, effOf i e (s.advance 1) = .ok () ((s.advance 1).setX d v)) :
    exec i s = .next ((s.advance 1).setX d v) := by
  have ⟨_, _, _, _, _, _, _, hold⟩ := h
  rw [exec_acc_ok hi h hm hr ((setX_hold ..).trans hold)]
  exact congrArg Host.Outcome.next (setX_stuck (s.advance 1) d v)

theorem exec_acc_setC {n : Nat} {v : Cap}
    (hr : ∀ e : Env, effOf i e (s.advance 1) = .ok () ((s.advance 1).setC n v)) :
    exec i s = .next ((s.advance 1).setC n v) := by
  have ⟨_, _, _, _, _, _, _, hold⟩ := h
  exact exec_acc_ok hi h hm hr hold

end

/-! ## What CNARROW checks and writes (R177) -/

theorem capDead_eq_false {s : State} {c : Cap} (ht : c.type.toNat < 7) (ha : c.asid = s.ctx.job.code.asid) :
    s.capDead c = false := by
  simp [State.capDead, ha, Nat.not_le.2 ht]

/-- The exact sum and the sum of 64 bits agree in the 48 bits of a bound. -/
theorem setWidth_add_eq_ofNat (x y : DWord) : (x + y).setWidth 48 = BitVec.ofNat 48 (x.toNat + y.toNat) := by
  rw [BitVec.setWidth_add _ _ (by decide), BitVec.ofNat_add, BitVec.ofNat_toNat, BitVec.ofNat_toNat]

/-! ## The effects (R176 to R180) -/

section
variable {s : State} {d a b : BitVec 5} (e : Env) (ha : s.cBusy a.toNat = false)
include ha

theorem effCget_ok {f : BitVec 5} (hd : s.xBusy d = false) :
    effCget d a f e s = .ok () (s.setX d (cgetField f.toNat (s.c a.toNat))) := by
  unfold effCget; rw [bind_ok (rdC_ok ha), bind_ok (freeX_ok hd)]; exact wrX_ok

variable (hd : s.cBusy d.toNat = false)
include hd

theorem effCmov_ok : effCmov d a e s = .ok () (s.setC d.toNat (s.c a.toNat)) := by
  unfold effCmov; rw [bind_ok (rdC_ok ha), bind_ok (freeC_ok hd)]; exact wrC_ok

variable (hb : s.xBusy b = false)
include hb

theorem effCrights_ok : effCrights d a b e s =
    .ok () (s.setC d.toNat { s.c a.toNat with rights := (s.c a.toNat).rights &&& (s.x b).setWidth 8 }) := by
  unfold effCrights; rw [bind_ok (rdC_ok ha), bind_ok (rdX_ok hb), bind_ok (freeC_ok hd)]; exact wrC_ok

theorem effCadd_ok {f : BitVec 5} : effCadd d a b f e s =
    .ok () (s.setC d.toNat { s.c a.toNat with cursor := if f = 0 then (s.c a.toNat).cursor + s.x b else s.x b }) := by
  unfold effCadd; rw [bind_ok (rdC_ok ha), bind_ok (rdX_ok hb), bind_ok (freeC_ok hd)]; exact wrC_ok

theorem effCnarrow_ok (hlive : s.capDead (s.c a.toNat) = false)
    (hlo : (s.c a.toNat).lower.toNat ≤ (s.c a.toNat).cursor.toNat)
    (hhi : (s.c a.toNat).cursor.toNat + (s.x b).toNat ≤ (s.c a.toNat).upper.toNat) : effCnarrow d a b e s =
    .ok () (s.setC d.toNat { s.c a.toNat with
      lower := (s.c a.toNat).cursor.setWidth 48, upper := ((s.c a.toNat).cursor + s.x b).setWidth 48 }) := by
  unfold effCnarrow
  rw [bind_ok (rdC_ok ha), bind_ok (rdX_ok hb), bind_ok (freeC_ok hd), get_bind, setWidth_add_eq_ofNat]
  simp only [hlive, Bool.false_eq_true, if_false]
  rw [if_neg (by omega)]
  exact wrC_ok

end

/-- The field that each value of CGET's f names (R180). -/
theorem cgetField_eq (f : BitVec 5) (c : Cap) : cgetField f.toNat c =
    if f = 0 then c.cursor else if f = 1 then c.lower.setWidth 64 else if f = 2 then c.upper.setWidth 64
      else if f = 3 then c.rights.setWidth 64 else if f = 4 then c.obj.setWidth 64 else if f = 5 then c.asid.setWidth 64
      else if f = 6 then c.type.setWidth 64 else BitVec.ofNat 64 (c.upper.toNat - c.lower.toNat) := by
  simp only [← BitVec.toNat_inj (x := f)]
  generalize f.toNat = n
  match n with
  | 0 | 1 | 2 | 3 | 4 | 5 | 6 => rfl
  | k + 7 => simp [cgetField]

/-- A write of a capability register empties its access queue's translations (R165). -/
theorem aq_setC (s : State) (n : Nat) (v : Cap) :
    ((s.setC n v).ctx.acc.aq.get {} n).cur = none ∧ ((s.setC n v).ctx.acc.aq.get {} n).next = none := by
  unfold State.setC
  simp only [Sparse.get_set_same, and_self]

/-! ## The obligation -/

/-- Settles O19, each instruction by the equation of its effect above, in the state that the dispatcher leaves. -/
theorem capabilityInstructionsComplete : Obligations.CapabilityInstructionsComplete := by
  unfold Obligations.CapabilityInstructionsComplete
  intro s d a b f m hx hc hm c
  have hxd : (s.advance 1).xBusy d = false := hx d (by simp)
  have hxb : (s.advance 1).xBusy b = false := hx b (by simp)
  have hcd : (s.advance 1).cBusy d.toNat = false := hc d (by simp)
  have hca : (s.advance 1).cBusy a.toNat = false := hc a (by simp)
  refine ⟨fun h => ?cmov, fun h ht has hlo hhi => ?cnarrow, fun h => ?crights, fun h => ?cadd, fun h => ?cget, aq_setC s d.toNat⟩
  case cmov => exact exec_acc_setC rfl h hm fun e => effCmov_ok e hca hcd
  case cnarrow => exact exec_acc_setC rfl h hm fun e => effCnarrow_ok e hca hcd hxb (capDead_eq_false ht has) hlo hhi
  case crights => exact exec_acc_setC rfl h hm fun e => effCrights_ok e hca hcd hxb
  case cadd => exact exec_acc_setC rfl h hm fun e => effCadd_ok e hca hcd hxb
  case cget => rw [← cgetField_eq]; exact exec_acc_setX rfl h hm fun e => effCget_ok e hca hxd

end Sys2Proof.Machine

/-! PROOF. The steps of Furlong, of Bushel and of the page services, one equation for each way in which a step goes on (R43,
R365 to R387, R418, R458 to R460, R467, R468, R475). -/
namespace Sys2Proof.Machine

/-! ## Launches by number -/

theorem launchOf_number {s : State} {n : Nat} {l : Launch} (h : s.launchOf n = some l) : l.n = n := by
  simpa using List.find?_some h

theorem launchOf_congr {s t : State} (h : t.units.launches = s.units.launches) (n : Nat) : t.launchOf n = s.launchOf n := by
  unfold State.launchOf; rw [h]

/-- A change that leaves the launches' numbers changes the launch that a number gives. -/
theorem launchOf_modLaunch {s : State} {n : Nat} {l : Launch} {f : Launch → Launch}
    (hf : ∀ x : Launch, x.n = n → (f x).n = n) (hl : s.launchOf n = some l) :
    (s.modLaunch n f).launchOf n = some (f l) := by
  have hsame : ((fun x : Launch => x.n == n) ∘ fun x => if x.n = n then f x else x) = fun x => x.n == n := by
    funext x
    by_cases hx : x.n = n <;> simp [hx, hf]
  show (s.units.launches.map _).find? _ = _
  rw [List.find?_map, hsame, show s.units.launches.find? _ = some l from hl]
  exact congrArg some (if_pos (launchOf_number hl))

/-- The launch that `State.addLaunch` adds. -/
def State.newLaunch (s : State) (wq : Nat) (spawner : Option Nat) (raw : Bytes) : Launch :=
  { n := s.units.nextLaunch, wq := wq, spawner := spawner, raw := raw, begun := false }

theorem launchOf_addLaunch {s : State} (h : s.launchOf s.units.nextLaunch = none) (q : Nat) (sp : Option Nat) (raw : Bytes) :
    (s.addLaunch q sp raw).launchOf s.units.nextLaunch = some (s.newLaunch q sp raw) := by
  show (s.units.launches ++ [s.newLaunch q sp raw]).find? _ = _
  rw [List.find?_append, show s.units.launches.find? _ = none from h]
  simp [State.newLaunch]

/-! ## Reports of uncorrectable sectors (R4, R447) -/

/-- A state after reports: they count in the memory-side caches, post events and use free values, and leave all else. -/
def State.Reported (s t : State) : Prop := ∃ m h k, t = { s with msc := m, host := h, fresh := k }

theorem reported_refl (s : State) : s.Reported s := ⟨_, _, _, rfl⟩

theorem reported_trans {s t u : State} (h : s.Reported t) (g : t.Reported u) : s.Reported u := by
  obtain ⟨_, _, _, rfl⟩ := h
  obtain ⟨_, _, _, rfl⟩ := g
  exact ⟨_, _, _, rfl⟩

theorem reported_foldl {α : Type} {f : State → α → State} (hf : ∀ (t : State) (a : α), t.Reported (f t a)) (l : List α)
    (s : State) : s.Reported (l.foldl f s) :=
  List.foldlRecOn l f (reported_refl s) fun t h a _ => reported_trans h (hf t a)

theorem reportBad_reported (s : State) (sector : Nat) : s.Reported (s.reportBad sector) :=
  ⟨_, _, _, detect_frame _ sector⟩

theorem reportRange_reported (s : State) (a n : Nat) : s.Reported (s.reportRange a n) := by
  refine reported_foldl (fun t i => ?_) _ s
  split
  · exact reportBad_reported t _
  · exact reported_refl t

theorem spend_reported (s : State) (n : Nat) : s.Reported (s.spend n) := ⟨_, _, _, rfl⟩

theorem reportRead_reported (s : State) (c : Cap) (o n : Nat) : s.Reported (s.reportRead c o n) := by
  unfold State.reportRead
  dsimp only
  split
  · exact reported_refl s
  · exact reported_trans (spend_reported s n)
      (reported_foldl (fun t (p : Nat × Nat) => reportRange_reported t p.1 p.2) _ (s.spend n))

theorem reportRecord_reported (s : State) (raw : Bytes) : s.Reported (s.reportRecord raw) := by
  unfold State.reportRecord
  exact reported_foldl (fun t (p : Cap × Nat × Nat) => reportRead_reported t p.1 p.2.1 p.2.2) (s.recordReads raw) s

theorem State.Reported.launches {s t : State} (h : s.Reported t) : t.units.launches = s.units.launches := by
  obtain ⟨_, _, _, rfl⟩ := h; rfl

theorem State.Reported.launchOf {s t : State} (h : s.Reported t) (n : Nat) : t.launchOf n = s.launchOf n :=
  launchOf_congr h.launches n

theorem State.Reported.modLaunch_launches {s t : State} (h : s.Reported t) (n : Nat) (f : Launch → Launch) :
    (t.modLaunch n f).units.launches = s.units.launches.map fun l => if l.n = n then f l else l := by
  rw [← h.launches]; rfl

theorem State.Reported.mem {s t : State} (h : s.Reported t) : t.mem = s.mem := by
  obtain ⟨_, _, _, rfl⟩ := h; rfl

/-! ## WORK_QUEUE_DOORBELL (R459, R460) -/

theorem workQueue_setWorkQueue (s : State) (n j : Nat) (q : WorkQueue) :
    (s.setWorkQueue n q).workQueue j = if j = n then q else s.workQueue j := Sparse.get_set ..

theorem workQueueDoorbell_rings {s : State} (hn : s.operand.n0 < 1024) (hb : 1 ≤ s.host.bootStep) :
    exec .workQueueDoorbell s = .next (s.doorbell s.operand.n0 s.operand.val) :=
  whenDue_due (by simp [hn, hb])

theorem doorbell_same (s : State) (n : Nat) (v : DWord) : ((s.doorbell n v).workQueue n).tail =
      v.toNat % 2 ^ ((s.workQueue n).logsz + 1) ∧ ((s.doorbell n v).workQueue n).head = (s.workQueue n).head := by
  unfold State.doorbell
  rw [workQueue_setWorkQueue, if_pos rfl]
  exact ⟨rfl, rfl⟩

theorem doorbell_other (s : State) {n j : Nat} (v : DWord) (h : j ≠ n) : (s.doorbell n v).workQueue j = s.workQueue j := by
  unfold State.doorbell
  rw [workQueue_setWorkQueue, if_neg h]

/-! ## LAUNCH_RECORD_BEGIN (R365, R367, R373) -/

theorem setRanks_frame (s : State) (table g : Nat) (ranks : List Nat) :
    (s.setRanks table g ranks).units.launches = s.units.launches ∧ (s.setRanks table g ranks).mem = s.mem := by
  unfold State.setRanks
  split
  · split <;> exact ⟨rfl, rfl⟩
  · exact ⟨rfl, rfl⟩

/-- A launch sets its group table in the multicast entries: no launch and no byte of memory changes (R221). -/
theorem setTable_frame (s : State) (table : Nat) :
    (s.setTable table).units.launches = s.units.launches ∧ (s.setTable table).mem = s.mem := by
  unfold State.setTable
  split
  · exact ⟨rfl, rfl⟩
  · refine List.foldlRecOn (motive := fun t : State => t.units.launches = s.units.launches ∧ t.mem = s.mem) _ _
      ⟨rfl, rfl⟩ ?_
    rintro t ⟨hl, hm⟩ g -
    obtain ⟨gl, gm⟩ := setRanks_frame t table g (t.mcRanks table g)
    exact ⟨gl.trans hl, gm.trans hm⟩

theorem accept_frame (s : State) (l : Launch) (g : Graph) : (s.accept l g).n = l.n ∧ (s.accept l g).begun = true ∧
    (s.accept l g).fields = l.fields ∧ (s.accept l g).nodes = g.nodes ∧ (s.accept l g).edges = g.edges ∧
    (s.accept l g).caps = g.caps := by
  unfold State.accept
  dsimp only
  split <;> exact ⟨rfl, rfl, rfl, rfl, rfl, rfl⟩

/-- A launch with the fields of its record. -/
def Launch.parsed (l : Launch) : Launch := { l with fields := parseRec l.raw }

theorem beginLaunch_fails {s : State} {l : Launch} {st i : Nat} (h : s.checkRecord l.raw = .fails st i) :
    s.beginLaunch l = some ((s.reportRecord l.raw).modLaunch l.n fun x => x.parsed.fail st i s.gts) := by
  unfold State.beginLaunch; rw [h]; rfl

theorem beginLaunch_ok {s : State} {l : Launch} {g : Graph} (h : s.checkRecord l.raw = .ok g) :
    s.beginLaunch l = some (((s.reportRecord l.raw).modLaunch l.n fun _ => s.accept l.parsed g).setTable
      (s.accept l.parsed g).fields.mctab) := by
  unfold State.beginLaunch; rw [h]; rfl

/-- A launch that fails its checks stays in the list with its status. -/
theorem launchOf_failed {s : State} {l : Launch} {raw : Bytes} {st i : Nat} (hl : s.launchOf l.n = some l) :
    ((s.reportRecord raw).modLaunch l.n fun x => x.parsed.fail st i s.gts).launchOf l.n =
      some (l.parsed.fail st i s.gts) := by
  refine launchOf_modLaunch (fun x hx => ?_) (((reportRecord_reported s raw).launchOf l.n).trans hl)
  exact hx

/-- A launch that passes them is replaced by the one that they accept. -/
theorem launchOf_begun {s : State} {l l' : Launch} {raw : Bytes} {table : Nat} (hn : l'.n = l.n)
    (hl : s.launchOf l.n = some l) :
    (((s.reportRecord raw).modLaunch l.n fun _ => l').setTable table).launchOf l.n = some l' := by
  rw [launchOf_congr (setTable_frame _ _).1]
  exact launchOf_modLaunch (fun _ _ => hn) (((reportRecord_reported s raw).launchOf l.n).trans hl)

/-- The next record of a queue is added to the launches and begun, where its checks need not wait. -/
theorem launchRecordBegin_adds {s t : State} {q : Nat} (hs : s.operand.src = .workQueue q) (hq : s.queueLaunch q = none)
    (hd : s.queueDue q = true) (hb : s.operand.bytes.length = 256) (hl : s.launchOf s.units.nextLaunch = none)
    (ht : (s.addLaunch q none s.operand.bytes).beginLaunch (s.newLaunch q none s.operand.bytes) = some t) :
    exec .launchRecordBegin s = .next t := by
  show execLaunchRecordBegin s = _
  unfold execLaunchRecordBegin
  simp only [hs, hq, hd, hb, launchOf_addLaunch hl, ht, beq_self_eq_true, Bool.and_self, if_true, Option.getD_some]

/-! ## INDIRECT_COUNT_READ and STEP_INSTANTIATE (R369, R373) -/

/-- A record that waits for no counter reads its count; its jobs enter the pool. -/
theorem indirectCountRead_reads {s : State} {l : Launch} {b : Bytes} (hl : s.launchOf s.operand.n0 = some l)
    (hw : l.waitCount = true) (hc : l.fields.cw = false)
    (hb : s.unitRead (l.slotPlace l.fields.slot l.fields.off.toNat).1 
      (l.slotPlace l.fields.slot l.fields.off.toNat).2 4 = .ok b) :
    exec .indirectCountRead s = .next ((s.reportRead (l.slotPlace l.fields.slot l.fields.off.toNat).1
      (l.slotPlace l.fields.slot l.fields.off.toNat).2 4).modLaunch l.n
        fun x => s.poolJobs x (min x.fields.jobs (bytesToNat b))) := by
  have hreached : s.counterReached l = .ok true := by unfold State.counterReached; simp [hc]
  show execIndirectCountRead s = _
  unfold execIndirectCountRead
  simp [hl, hw, hc, hreached, hb]

/-- A launch with one more step instantiated, whose row has been read. -/
def Launch.addStep (l : Launch) (row : List Word) (gts : Nat) : Launch :=
  { l with nextStep := l.nextStep + 1
           insts := l.insts ++ l.nodes.zipIdx.map fun m =>
             { step := l.nextStep, node := m.2, phase := .instantiated, die := m.1.die, row := row, stamp := gts } }

theorem stepInstantiate_adds {s : State} {l : Launch} {b : Bytes} (hl : s.launchOf s.operand.n0 = some l)
    (hd : s.stepDue l = true) (hb : s.unitRead (l.slotPlace l.fields.tslot (l.fields.toff.toNat + 64 * l.nextStep)).1
      (l.slotPlace l.fields.tslot (l.fields.toff.toNat + 64 * l.nextStep)).2 64 = .ok b) :
    exec .stepInstantiate s = .next ((s.reportRead (l.slotPlace l.fields.tslot (l.fields.toff.toNat + 64 * l.nextStep)).1
      (l.slotPlace l.fields.tslot (l.fields.toff.toNat + 64 * l.nextStep)).2 64).modLaunch l.n
        fun x => x.addStep (rowOf b) s.gts) := by
  show execStepInstantiate s = _
  unfold execStepInstantiate; simp only [hl, hd, hb]; rfl

/-! ## The nodes of a step (R374, R380, R382 to R385) -/

section
variable {s : State} {l : Launch} {i : Inst} {m : GNode} (hn : s.nodeNamed = some (l, i, m))
include hn

theorem nodeReady_due (hp : i.phase = .instantiated) (hr : l.nodeReady i = true)
    (hroom : m.reuse = true ∨ s.poolCount m.die < poolSize) :
    exec .nodeReady s = .next (s.setInst l i (if m.reuse = true then .probe else .pooled s.gts l.fields.prio)) := by
  show execNodeReady s = _
  unfold execNodeReady; rw [hn]; exact whenDue_due (by simp [hp, hr, hroom])

theorem bushelProbe_probes {p : GOperand} {r : List GOperand} {x : Bytes} (hi : m.ins = p :: r) (hp : i.phase = .probe)
    (hx : s.unitRead (l.operandCap p) (l.operandOff p) p.len = .ok x) (hroom : s.poolCount m.die < poolSize) :
    exec .bushelProbe s = .next ((s.reportRead (l.operandCap p) (l.operandOff p) p.len).probe l i m p x) := by
  show execBushelProbe s = _
  unfold execBushelProbe
  simp only [hn, hi, hp, decide_true, hx]
  exact whenDue_due (by simp [hroom])

theorem skipCopy_copies {e : BushelEntry} {u : State} (he : s.entryOf m.die (l.tag m) = some e) (hp : i.phase = .skip)
    (hu : s.copyOuts l (m.outs.zip e.outs) = .ok u) : exec .skipCopy s =
      .next ((u.setBushel m.die ((u.bushelOf m.die).map (·.skipped (l.tag m) i.step i.stamp))).setInst l i .done) := by
  show execSkipCopy s = _
  unfold execSkipCopy
  simp only [hn, he, hp, decide_true, hu]

theorem bushelFill_fills {o : List Bytes} (hp : i.phase = .fill) (hb : s.tagBusy m.die (l.tag m) = false)
    (ho : s.readOuts l m.outs = .ok o) :
    exec .bushelFill s = .next (((s.reportOuts l m).fillEntry l i m o).setInst l i .done) := by
  show execBushelFill s = _
  unfold execBushelFill
  simp [hn, hp, hb, ho]

theorem taskRequeue_due {a o p prio : Nat} (hp : i.phase = .aborted a o p prio) (hh : s.pageHere a o p = true)
    (hroom : s.poolCount i.die < poolSize) :
    exec .taskRequeue s = .next ((s.dropAskPage a o p).setInst l i (.pooled s.gts prio)) := by
  show execTaskRequeue s = _
  unfold execTaskRequeue
  simp only [hn, hp]
  exact whenDue_due (by simp [hh, hroom])

end

/-! ## NODE_DISPATCH and NODE_AGING (R377, R378) -/

theorem nodeDispatch_dispatches {s u : State} (h : s.dispatch s.operand.n0 = some u) : exec .nodeDispatch s = .next u := by
  show execNodeDispatch s = _
  unfold execNodeDispatch; rw [h]

theorem nodeAging_ages {s : State} {l : Launch} {i : Inst} {since prio : Nat} (hl : s.launchOf s.operand.n0 = some l)
    (hi : l.inst s.operand.n1 s.operand.n2 = some i) (hp : i.phase = .pooled since prio) (hs : l.stopped = false)
    (h7 : prio < 7) (hc : 2 ^ 20 ≤ s.cyclesSince (72 * s.instDie l i) since) :
    exec .nodeAging s = .next (s.setInst l i (.pooled s.gts (prio + 1))) := by
  show execNodeAging s = _
  unfold execNodeAging
  simp only [hl, hi, hp, Option.bind_some, Option.map_some]
  exact whenDue_due (by rw [hs, decide_eq_true h7, decide_eq_true (show longCycles ≤ _ from hc)]; rfl)

/-! ## LAUNCH_COMPLETE (R365, R376) -/

theorem launchComplete_due {s : State} {l : Launch} (hl : s.launchOf s.operand.n0 = some l) (ho : l.over = true) :
    exec .launchComplete s = .next (s.completeLaunch l) := by
  show execLaunchComplete s = _
  unfold execLaunchComplete; rw [hl]; exact whenDue_due ho

/-- A launch of a work queue leaves the list, and its queue's WQHEAD goes past its record. -/
theorem completeLaunch_queue {s : State} {l : Launch} (h : l.spawner = none) :
    ((s.completeLaunch l).workQueue l.wq).head = ((s.workQueue l.wq).head + 1) % 2 ^ ((s.workQueue l.wq).logsz + 1) ∧
    (s.completeLaunch l).launchOf l.n = none ∧ (s.completeLaunch l).mem = s.mem := by
  unfold State.completeLaunch
  simp only [h]
  refine ⟨?_, ?_, rfl⟩
  · exact congrArg WorkQueue.head ((workQueue_setWorkQueue _ l.wq l.wq _).trans (if_pos rfl))
  · show (s.units.launches.filter _).find? _ = none
    simp

/-- A spawned launch keeps its result for its spawner to join. -/
theorem completeLaunch_spawned {s : State} {l : Launch} {u : Nat} (h : l.spawner = some u) (hu : (s.jobCtx u).isSome) :
    s.completeLaunch l = { s with units.launches := s.units.launches.map (·.finish l.n l.status) } := by
  unfold State.completeLaunch
  simp only [h]
  exact if_neg (by simp [Option.isSome_iff_ne_none.1 hu])

/-! ## Pages (R458, R467, R475) -/

theorem furlongAccessResume_due {s : State}
    (hr : (s.units.pageReqs.any fun r => r.asid == s.operand.n0 && r.obj == s.operand.n1 && r.page == s.operand.n2) = true)
    (hh : s.pageHere s.operand.n0 s.operand.n1 s.operand.n2 = true) :
    exec .furlongAccessResume s = .next (s.dropAskPage s.operand.n0 s.operand.n1 s.operand.n2) :=
  whenDue_due (by rw [hr, hh]; rfl)

theorem askPage_host (s : State) (asid obj page : Nat) : (s.askPage asid obj page).host = s.host := by
  unfold State.askPage; split <;> rfl

section
variable {s : State} {r : PageReq} {a : Nat} {e : DWord} (hr : s.pageReq s.operand.n0 s.operand.n1 s.operand.n2 = some r)
  (he : s.entryAt s.operand.n0 s.operand.n1 s.operand.n2 = some (a, e)) (hl : pageLoc e = 2)
include hr he hl

theorem pageFaultService_brings (hw : s.hardware 0 = true) (hf : s.host.freeList.ready = true)
    (hv : frameBad s.operand.val = false) :
    exec .pageFaultService s = .next (State.bringPage { s.askPage r.asid r.obj r.page with
      host.freeList := s.host.freeList.take } r a e s.operand.val.toNat) := by
  show execPageFaultService s = _
  unfold execPageFaultService
  simp [hr, he, hl, hw, hf, hv, askPage_host]

theorem pageFaultService_tells (hw : s.hardware 0 = false) (ht : r.told = false) :
    exec .pageFaultService s = .next ((s.askPage r.asid r.obj r.page).tellPage r false) := by
  show execPageFaultService s = _
  unfold execPageFaultService
  simp only [hr, he, hl, hw]
  exact whenDue_due (by simp [ht])

end

/-! ## HW_SPILL and HW_FILL (R379, R418, R468) -/

section
variable {s : State} {k : BankKey} (hk : s.spillChoice s.operand.n0 = some k)
include hk

theorem hwSpill_spills {u : State} (hw : s.hardware 2 = true) (hp : s.host.savePool.ready = true)
    (hv : areaBad s.operand.val = false) (hc : (s.bankCtx k).canStop = true)
    (hu : State.spillBank { s with host.savePool := s.host.savePool.take } k (.phys s.operand.val.toNat)
      (some s.operand.val.toNat) = .ok u) : exec .hwSpill s = .next u := by
  show execHwSpill s = _
  unfold execHwSpill
  simp [hk, hw, hp, hv, hc, hu]

theorem hwSpill_asks (hw : s.hardware 2 = false) (ha : s.units.spillAsked.contains (s.bankCtx k).job.uid = false) :
    exec .hwSpill s = .next (s.askSpill k) := by
  show execHwSpill s = _
  unfold execHwSpill
  simp only [hk, hw]
  exact whenDue_due (by rw [ha]; rfl)

end

theorem hwFill_fills {s u : State} {r : SpillRec} {a : Nat} {k : BankKey}
    (hr : s.units.spilled.find? (fun r => r.id == s.operand.n0) = some r) (ha : r.area = some a)
    (hk : s.fillPlace r = some k) (hy : s.readyRec r = true) (hg : s.fillAgain r = true)
    (hc : ((s.cands r.die).any fun c => decide (r.ctx.prio < c.prio)) = false) (hu : s.fillBank k (.phys a) = .ok u) :
    exec .hwFill s = .next (u.areaBack r.die (some a)) := by
  show execHwFill s = _
  unfold execHwFill
  simp only [hr, ha, hk, hy, hg, hc, hu]
  rfl

/-! ## The obligation -/

/-- Settles O60, step by step: each clause is the equation of its step above, under the conditions that make the step due. -/
theorem furlongAndBushelStepsComplete : Obligations.FurlongAndBushelStepsComplete := by
  unfold Obligations.FurlongAndBushelStepsComplete
  rintro s _ rfl
  refine ⟨fun hn hb => ⟨_, workQueueDoorbell_rings hn hb, ?doorbell⟩, fun q u hs hq hd hb hl hu => ?record,
    fun l b hl hw hc hb => ⟨_, indirectCountRead_reads hl hw hc hb, ?count⟩,
    fun l b hl hd hb => ⟨_, l.addStep (rowOf b) s.gts, stepInstantiate_adds hl hd hb, ?step, rfl, rfl⟩,
    fun l i m hn => ?node, fun u => nodeDispatch_dispatches, fun l i since prio => nodeAging_ages, fun l hl ho => ?launch,
    furlongAccessResume_due, fun r a e hr he hl => ⟨pageFaultService_brings hr he hl, pageFaultService_tells hr he hl⟩,
    fun k hk => ⟨fun u => hwSpill_spills hk, hwSpill_asks hk⟩, fun r a k u => hwFill_fills⟩
  case doorbell =>
    obtain ⟨htail, hhead⟩ := doorbell_same s s.operand.n0 s.operand.val
    exact ⟨htail, hhead, fun j => doorbell_other s s.operand.val⟩
  case record =>
    subst hu
    have hnew : (s.addLaunch q none s.operand.bytes).launchOf _ = _ := launchOf_addLaunch hl q none s.operand.bytes
    refine ⟨fun st i hc => ?_, fun g hc => ?_⟩
    · exact ⟨_, _, launchRecordBegin_adds hs hq hd hb hl (beginLaunch_fails hc), launchOf_failed hnew, rfl⟩
    · obtain ⟨hn, hbegun, hfields, hnodes, hedges, hcaps⟩ := accept_frame (s.addLaunch q none s.operand.bytes)
        (s.newLaunch q none s.operand.bytes).parsed g
      exact ⟨_, _, launchRecordBegin_adds hs hq hd hb hl (beginLaunch_ok hc), launchOf_begun hn hnew, hbegun, hfields,
        hnodes, hedges, hcaps, (setTable_frame _ _).2.trans (reportRecord_reported _ _).mem⟩
  case count => exact (reportRead_reported s _ _ _).modLaunch_launches l.n _
  case step =>
    have hn := launchOf_number hl
    rw [← hn] at hl ⊢
    exact launchOf_modLaunch (fun _ hx => hx) (((reportRead_reported s _ _ _).launchOf l.n).trans hl)
  case node =>
    exact ⟨nodeReady_due hn, fun p r x => bushelProbe_probes hn, fun e u => skipCopy_copies hn,
      fun o => bushelFill_fills hn, fun a o p prio => taskRequeue_due hn⟩
  case launch =>
    refine ⟨fun h => ⟨_, launchComplete_due hl ho, completeLaunch_queue h⟩, fun u h hu => ?_⟩
    rw [launchComplete_due hl ho, completeLaunch_spawned h hu]
    rfl

end Sys2Proof.Machine
